-- ==== Sys2Proof/Word.lean ====
section
/-! DEFINITION. The words of the FJ-128 and their plainest arithmetic (R5 to R8, R34). -/

namespace Sys2Proof

/-- A byte (R8). -/
abbrev Byte := BitVec 8
/-- A 16-bit half (R8). -/
abbrev Half := BitVec 16
/-- A 32-bit word: one SU word (R8). -/
abbrev W32 := BitVec 32
/-- A 64-bit dword: one VU word (R8). -/
abbrev W64 := BitVec 64
/-- A 512-bit record or descriptor of 64 bytes. -/
abbrev W512 := BitVec 512
/-- A vector register or a slow write's bits: 4,096 bits (R162). -/
abbrev W4096 := BitVec 4096

/-- A tile id, 0 to 127 (R37). -/
abbrev TileId := Fin 128
/-- A die, 0 or 1 (R36). -/
abbrev DieId := Fin 2
/-- A peer link, 0 to 17 (R42). -/
abbrev LinkId := Fin 18
/-- A host port, 0 or 1 (R42). -/
abbrev PortId := Fin 2

end Sys2Proof
end

