-- ==== Sys2Proof/Syntax.lean ====
section
/-! DEFINITION. The instructions and steps of the FJ-128: one constructor for each row of the opcode table.
The first 193 constructors are words of the two streams (R54 to R66); the rest are the steps that no word encodes. -/

namespace Sys2Proof

/-- A scalar register name `s0` to `s63` (R56). -/
abbrev SReg := BitVec 6
/-- A vector register name (R64). -/
abbrev VReg := BitVec 5
/-- A predicate or block scalar name (R64). -/
abbrev PReg := BitVec 3
/-- A descriptor index `td0` to `td63`. -/
abbrev TdIx := BitVec 6
/-- A mailbox index `m0` to `m15`. -/
abbrev MIx := BitVec 4

/-- Control registers (R58, R176). -/
inductive Ctl where
  | gear | opreq | rank | taskid | jobid | asid | tvec | tcause | tpc | tval | dceil | srseed
  deriving DecidableEq, Repr

/-- A place for each control register in a register file of twelve. -/
def Ctl.index : Ctl → Fin 12
  | .gear => 0 | .opreq => 1 | .rank => 2 | .taskid => 3 | .jobid => 4 | .asid => 5 | .tvec => 6 | .tcause => 7
  | .tpc => 8 | .tval => 9 | .dceil => 10 | .srseed => 11

/-- Probe registers (R58, R178). -/
inductive Prb where
  | cycle | retired | phaseS | phaseV | flipwait | smpMem | smpIssue | smpBusy | smpSeq | nfCount
  | slackIn | slackCredit | slackSlot | pseq
  deriving DecidableEq, Repr

/-- Vector element types (R65, TYPE). -/
inductive VTy where
  | f32 | bf16 | f16 | i32 | u32 | i16 | u16
  deriving DecidableEq, Repr

/-- Rounding modes (R65, R203). -/
inductive RMode where
  | rne | rz | ru | rd | sr
  deriving DecidableEq, Repr

/-- Memory conversions of `vld` and `vst` (R65, CONV). -/
inductive Conv where
  | b32 | bf16 | f16
  deriving DecidableEq, Repr

/-- The source S of a VL word (R65, SRC; R246). -/
inductive VSrc where
  | k (r : PReg)
  | m (i : MIx)
  | imm
  deriving DecidableEq, Repr

/-- Scopes (R136, R270). -/
inductive Scope where
  | tile | quadrant | die | package | system
  deriving DecidableEq, Repr

/-- The wait field of a command (R20, R62). -/
structure QWait where
  sem : BitVec 8
  thr : BitVec 12
  consume : Bool
  deriving DecidableEq, Repr

/-- The post field of a command (R20, R62). -/
structure QPost where
  sem : BitVec 8
  inc : BitVec 8
  deriving DecidableEq, Repr

/-- The wait, the post and the SCOPE that every command carries (R62, R136). -/
structure Head where
  wait : Option QWait
  post : Option QPost
  scope : Scope
  deriving DecidableEq, Repr

/-- The traffic class of a collective-engine send, with its stream or deadline register (R285, R297). -/
inductive CeClass where
  | sch (stream : BitVec 8)
  | off (deadline : SReg)
  | blk
  deriving DecidableEq, Repr

/-- The levels that `cancel.L` names by an id (R343). -/
inductive Level where
  | launch | graph | step | job
  deriving DecidableEq, Repr

/-- The phase domains that a flip names (R45, R168): inside a handler the steering flip is the supervisor bank's. -/
inductive Dom where
  | steering | vector
  deriving DecidableEq, Repr

/-- Where a command starts: an engine of the tile, or one of the copy unit's five channels (R69, R131, R426). -/
inductive Site where
  | mu | vu | ce
  | ch (c : Fin 5)
  deriving DecidableEq, Repr

/-- A party whose access another tile's stash may serve (R119). -/
inductive Requester where
  | suLoad (t : TileId) (k : Nat)
  | suStore (t : TileId) (k : Nat)
  | vuLoad (t : TileId) (k : Nat)
  | vuStore (t : TileId) (k : Nat)
  | engine (t : TileId) (u : Site) (k : Nat)
  | rmw (t : TileId) (c : Fin 5) (k : Nat)
  deriving DecidableEq, Repr

/-- The expectation that a window's grant carries (R294). KIND 0 stands for 0 or 2 in a `crecv` window. -/
structure Expect where
  kind : BitVec 3
  fmtd : BitVec 21
  count : BitVec 24
  deriving DecidableEq, Repr

/-- A data packet: its header flit's fields (R295) and the bytes of its data flits (R282). `nth` stands in the framing, outside
the flits: the window of its link and TAG that the packet's message matched, counted from 0 (R294; log 99). -/
structure Packet where
  srank : W32
  count : BitVec 24
  fmtd : BitVec 21
  kind : BitVec 3
  tag : BitVec 8
  pkt : W32
  msg : W64
  nth : Nat
  data : List Byte
  deriving DecidableEq, Repr

/-- What credits of a TAG come with (R294, R296): a window's expectation, or the landing of as many packets of the message whose
MSG is named. -/
inductive Granted where
  | window (e : Expect)
  | landed (msg : W64)
  deriving DecidableEq, Repr

/-- What arrives over a link beside the control packets that have steps of their own (R282, R283, R285): a data packet, a peer's
write to this package's memory, or an acknowledgement of every packet before a sequence number. -/
inductive Arrival where
  | data (p : Packet)
  | write (pa : W64) (bytes : List Byte)
  | ack (upTo : Nat)
  deriving DecidableEq, Repr

/-- A packet as it arrives (R283): its link sequence number, which an acknowledgement does not use (log 100), what it carries, and the
CRC-32C of its framing. -/
structure Incoming where
  seq : Nat
  what : Arrival
  crc : W32
  deriving DecidableEq, Repr

/-- What the host does through BAR2 or BAR0 (R403): an access of `n` bytes at an offset of the aperture, or the read of a dword of the
register window. -/
inductive HostAcc where
  | bar0 (off : Nat)
  | read (off : Nat) (n : Nat)
  | write (off : Nat) (bytes : List Byte)
  deriving DecidableEq, Repr

/-- Registers and control blocks whose write only stores (R82, R85, R87, R331, R403). -/
inductive RegTarget where
  | msga | msgb | apbase
  | upload (off : Nat)
  | queueCb (q : BitVec 12) (dword : BitVec 3)
  | poolCb (p : BitVec 8) (dword : BitVec 3)
  | levelCfg (l : Level) (id : BitVec 16)
  | slot (l : LinkId) (entry : BitVec 10)
  deriving DecidableEq, Repr

/-- A faced register as the debugger names it (R175). -/
inductive DbgReg where
  | s (i : SReg) | sup (i : SReg) | mb (i : MIx) | td (i : TdIx) | ctl (c : Ctl)
  | v (i : VReg) | p (i : PReg) | k (i : PReg)
  deriving DecidableEq, Repr

/-- Where an uncorrected or corrected error lies (R78, R409): a 64-byte block of DRAM, an aligned 8-byte word of a stash, a
word of the operand cache, a word of another SRAM of a tile by its SRAM index, an aligned 8-byte word of a line that an L2 slice
holds. -/
inductive ErrSite where
  | dram (block : Nat)
  | stash (t : TileId) (word : Nat)
  | opcache (t : TileId)
  | sram (t : TileId) (index : Nat)
  | l2 (word : Nat)
  deriving DecidableEq, Repr

/-- What a word that encodes nothing was met as (R67, R68): a steering word, a vector word, a command with its reason. -/
inductive BadWord where
  | su (w : W32)
  | vu (w : W64)
  | cmd (w : W32) (reason : BitVec 4)
  deriving DecidableEq, Repr

/-- What a re-plan replaces (R377): an island's curve record, or a die's low-rail voltage in millivolts. -/
inductive Replan where
  | island (t : TileId) (curve : BitVec 128)
  | low (d : DieId) (mv : Nat)
  deriving DecidableEq, Repr

/-- The instructions and steps, in the order of the opcode table but for nine steps; each line names the rule of its row. -/
inductive Instr where
  | add (d a b : SReg)  -- R180
  | sub (d a b : SReg)  -- R180
  | mul (d a b : SReg)  -- R180
  | mulh (d a b : SReg)  -- R180
  | mulhu (d a b : SReg)  -- R180
  | div (d a b : SReg)  -- R181
  | divu (d a b : SReg)  -- R181
  | rem (d a b : SReg)  -- R181
  | remu (d a b : SReg)  -- R181
  | and (d a b : SReg)  -- R180
  | or (d a b : SReg)  -- R180
  | xor (d a b : SReg)  -- R180
  | andn (d a b : SReg)  -- R180
  | shl (d a b : SReg)  -- R180
  | shr (d a b : SReg)  -- R180
  | sra (d a b : SReg)  -- R180
  | min (d a b : SReg)  -- R180
  | max (d a b : SReg)  -- R180
  | minu (d a b : SReg)  -- R180
  | maxu (d a b : SReg)  -- R180
  | seq (d a b : SReg)  -- R182
  | sne (d a b : SReg)  -- R182
  | slt (d a b : SReg)  -- R182
  | sltu (d a b : SReg)  -- R182
  | sel (d a b : SReg)  -- R182
  | clz (d a : SReg)  -- R182
  | ctz (d a : SReg)  -- R182
  | popc (d a : SReg)  -- R182
  | mov (d : SReg) (m : MIx)  -- R177
  | ctlRd (d : SReg) (c : Ctl)  -- R177
  | ctlWr (c : Ctl) (a : SReg)  -- R177
  | probe (d : SReg) (p : Prb)  -- R177
  | flip  -- R168
  | nop  -- R313
  | retire  -- R350
  | eret  -- R383
  | eretAbort  -- R383
  | pwrRel  -- R366
  | jr (a : SReg)  -- R312
  | callr (d a : SReg)  -- R312
  | tlbiAll  -- R108
  | tlbiAsid (a : SReg)  -- R108
  | tlbiVa (a b : SReg)  -- R108
  | fenceT  -- R276
  | fenceQ  -- R276
  | fenceD  -- R276
  | fenceP  -- R276
  | fenceS  -- R276
  | barInit (a b : SReg)  -- R324
  | barWait (a b : SReg)  -- R327
  | barWaitSink (a b : SReg)  -- R328
  | waita (d a b : SReg)  -- R321
  | addi (d a : SReg) (imm : BitVec 12)  -- R183
  | andi (d a : SReg) (imm : BitVec 12)  -- R183
  | ori (d a : SReg) (imm : BitVec 12)  -- R183
  | xori (d a : SReg) (imm : BitVec 12)  -- R183
  | shli (d a : SReg) (n : BitVec 6)  -- R183
  | shri (d a : SReg) (n : BitVec 6)  -- R183
  | srai (d a : SReg) (n : BitVec 6)  -- R183
  | slti (d a : SReg) (imm : BitVec 12)  -- R183
  | sltui (d a : SReg) (imm : BitVec 12)  -- R183
  | bfx (d a : SReg) (lo wd1 : BitVec 6)  -- R184
  | bfxs (d a : SReg) (lo wd1 : BitVec 6)  -- R184
  | bfi (d a : SReg) (lo wd1 : BitVec 6)  -- R184
  | trap (imm : BitVec 12)  -- R383
  | gearLo  -- R359
  | gearHi  -- R359
  | pwrAcq (c : BitVec 3)  -- R365
  | pwrReq (d a : SReg) (pv : Bool) (n : BitVec 6)  -- R370
  | ldB (d a : SReg) (off : BitVec 12)  -- R187
  | ldBu (d a : SReg) (off : BitVec 12)  -- R187
  | ldH (d a : SReg) (off : BitVec 12)  -- R187
  | ldHu (d a : SReg) (off : BitVec 12)  -- R187
  | ldW (d a : SReg) (off : BitVec 12)  -- R187
  | ldWu (d a : SReg) (off : BitVec 12)  -- R187
  | ldD (d a : SReg) (off : BitVec 12)  -- R187
  | tdLoad (n : TdIx) (a : SReg) (off : BitVec 12)  -- R209
  | stB (src a : SReg) (off : BitVec 12)  -- R187
  | stH (src a : SReg) (off : BitVec 12)  -- R187
  | stW (src a : SReg) (off : BitVec 12)  -- R187
  | stD (src a : SReg) (off : BitVec 12)  -- R187
  | qdrop (d a : SReg) (q : BitVec 4)  -- R320
  | beq (a b : SReg) (off : BitVec 12)  -- R310
  | bne (a b : SReg) (off : BitVec 12)  -- R310
  | blt (a b : SReg) (off : BitVec 12)  -- R310
  | bge (a b : SReg) (off : BitVec 12)  -- R310
  | bltu (a b : SReg) (off : BitVec 12)  -- R310
  | bgeu (a b : SReg) (off : BitVec 12)  -- R310
  | li (d : SReg) (imm : W32)  -- R185
  | lhi (d a : SReg) (imm : W32)  -- R185
  | jal (d : SReg) (imm : W32)  -- R311
  | semPost (n : BitVec 8) (v : BitVec 24)  -- R315
  | semPostTile (a : SReg) (n : BitVec 8) (v : BitVec 24)  -- R317
  | semSet (n : BitVec 8) (v : BitVec 24)  -- R315
  | semRd (d : SReg) (n : BitVec 8)  -- R316
  | spawn (d a : SReg) (pool : BitVec 8)  -- R344
  | publish (c a : SReg)  -- R345
  | yield (d : SReg)  -- R348
  | cancelTask (a : SReg)  -- R349
  | cancel (l : Level) (a : SReg)  -- R349
  | poolGet (d : SReg) (pool : BitVec 8)  -- R346
  | poolPut (a : SReg) (pool : BitVec 8)  -- R346
  | tideLoad (a : SReg) (n1 : BitVec 8)  -- R352
  | tideGo (a : SReg) (post : Option (BitVec 8))  -- R352
  | tideRd (d : SReg) (sel : Bool)  -- R356
  | mma (h : Head) (acc : BitVec 3) (tda tdb : TdIx) (sat ta z : Bool)  -- R259
  | mmaSp (h : Head) (acc : BitVec 3) (tda tdb : TdIx) (sat ta z : Bool)  -- R259
  | wload (h : Head) (wb : BitVec 3) (tdb : TdIx)  -- R254
  | wloadT (h : Head) (wb : BitVec 3) (tdb : TdIx) (sparse : Bool)  -- R254
  | aclr (h : Head) (acc : BitVec 3)  -- R263
  | ainit (h : Head) (acc : BitVec 3) (tds : TdIx)  -- R264
  | adrain (h : Head) (acc : BitVec 3) (tdd : TdIx) (trans clear : Bool)  -- R265
  | adrainMx (h : Head) (acc : BitVec 3) (tdd : TdIx) (trans clear : Bool)  -- R266
  | fenceOc (h : Head)  -- R258
  | cp (h : Head) (tdd tds : TdIx) (slot : Option (BitVec 3))  -- R139
  | cpAccF32 (h : Head) (tdd tds : TdIx) (slot : Option (BitVec 3))  -- R140
  | cpAccBf16 (h : Head) (tdd tds : TdIx)  -- R140
  | cpAccI32 (h : Head) (tdd tds : TdIx)  -- R140
  | cpMc (h : Head) (tdd tds : TdIx) (x : SReg) (mask : BitVec 16)  -- R143
  | gather (h : Head) (tdd tdt tdl : TdIx) (strict : Bool)  -- R147
  | scatter (h : Head) (tdt tds tdl : TdIx) (strict : Bool)  -- R147
  | scatterAccF32 (h : Head) (tdt tds tdl : TdIx) (strict : Bool)  -- R147
  | scatterAccBf16 (h : Head) (tdt tds tdl : TdIx) (strict : Bool)  -- R147
  | scatterAccI32 (h : Head) (tdt tds tdl : TdIx) (strict : Bool)  -- R147
  | fill (h : Head) (tdd : TdIx) (x : SReg)  -- R144
  | atomAdd (h : Head) (ret : Option MIx) (x y : SReg)  -- R151
  | atomAddthr (h : Head) (ret : Option MIx) (x y z : SReg)  -- R152
  | atomSwap (h : Head) (ret : Option MIx) (x y : SReg)  -- R151
  | atomCas (h : Head) (ret : Option MIx) (x y z : SReg)  -- R151
  | atomMin (h : Head) (ret : Option MIx) (x y : SReg)  -- R151
  | atomMax (h : Head) (ret : Option MIx) (x y : SReg)  -- R151
  | atomArrive (h : Head) (ret : Option MIx) (x : SReg)  -- R325
  | note (h : Head) (x y : SReg)  -- R156
  | chain (h : Head) (w : BitVec 2) (x : SReg)  -- R160
  | stashMap (h : Head) (td : TdIx) (zero : Bool) (soff : BitVec 10)  -- R113
  | stashUnmap (h : Head) (td : TdIx)  -- R121
  | stashWb (h : Head) (td : TdIx)  -- R120
  | offload (h : Head) (tdd tds : TdIx) (x : SReg)  -- R145
  | csend (h : Head) (c : CeClass) (link : LinkId) (tag : BitVec 8) (tds : TdIx)  -- R299
  | crecv (h : Head) (link : LinkId) (tag : BitVec 8) (tdd : TdIx) (rc : BitVec 6)  -- R300
  | cstep (h : Head) (c : CeClass) (link : LinkId) (tag : BitVec 8) (tdd tdk tds : TdIx) (rc : BitVec 6)  -- R301
  | carm (h : Head) (c : CeClass) (link : LinkId) (tag : BitVec 8) (tds : TdIx) (rc : BitVec 6) (y : SReg)  -- R299
  | crcSet (h : Head) (rc : BitVec 6) (x : SReg) (die : DieId)  -- R304
  | crcRd (h : Head) (m : MIx) (rc : BitVec 6) (die : DieId) (fleet : Bool)  -- R304
  | cslot (h : Head) (link : LinkId) (x : SReg) (first count1 : BitVec 10) (commit : Bool)  -- R305
  | cef (h : Head) (c : CeClass) (link : LinkId) (tag : BitVec 8) (tds tdr tdw : TdIx)  -- R303
  | vrun (h : Head) (imm : W32)  -- R211
  | vadd (ty : VTy) (rm : RMode) (sat : Bool) (d a b : VReg) (pm : PReg)  -- R230
  | vsub (ty : VTy) (rm : RMode) (sat : Bool) (d a b : VReg) (pm : PReg)  -- R230
  | vmul (ty : VTy) (rm : RMode) (sat : Bool) (d a b : VReg) (pm : PReg)  -- R230
  | vfma (ty : VTy) (rm : RMode) (sat : Bool) (d a b c : VReg) (pm : PReg)  -- R230
  | vmin (ty : VTy) (d a b : VReg) (pm : PReg)  -- R230
  | vmax (ty : VTy) (d a b : VReg) (pm : PReg)  -- R230
  | vand (ty : VTy) (d a b : VReg) (pm : PReg)  -- R231
  | vor (ty : VTy) (d a b : VReg) (pm : PReg)  -- R231
  | vxor (ty : VTy) (d a b : VReg) (pm : PReg)  -- R231
  | vshl (ty : VTy) (d a b : VReg) (pm : PReg)  -- R231
  | vshr (ty : VTy) (d a b : VReg) (pm : PReg)  -- R231
  | vsra (ty : VTy) (d a b : VReg) (pm : PReg)  -- R231
  | vcmpEq (ty : VTy) (d : PReg) (a b : VReg) (pm : PReg)  -- R232
  | vcmpLt (ty : VTy) (d : PReg) (a b : VReg) (pm : PReg)  -- R232
  | vcmpLe (ty : VTy) (d : PReg) (a b : VReg) (pm : PReg)  -- R232
  | vsel (ty : VTy) (d a b : VReg) (pc pm : PReg)  -- R233
  | vcvt (ty src : VTy) (rm : RMode) (sat : Bool) (d a : VReg) (pm : PReg)  -- R234
  | vpack (ty : VTy) (rm : RMode) (sat : Bool) (d a b : VReg) (pm : PReg)  -- R235
  | vperm (ty : VTy) (d a b : VReg) (pm : PReg)  -- R236
  | vredSum (ty : VTy) (rm : RMode) (d a : VReg) (pm : PReg)  -- R238
  | vredMax (ty : VTy) (d a : VReg) (pm : PReg)  -- R238
  | vredMin (ty : VTy) (d a : VReg) (pm : PReg)  -- R238
  | vbcast (ty : VTy) (d : VReg) (pm : PReg) (imm : W32)  -- R237
  | vslideUp (ty : VTy) (d a : VReg) (pm : PReg) (n : W32)  -- R237
  | vslideDn (ty : VTy) (d a : VReg) (pm : PReg) (n : W32)  -- R237
  | vld (conv : Conv) (v : VReg) (kb pm : PReg) (off : W32)  -- R239
  | vst (conv : Conv) (v : VReg) (kb pm : PReg) (off : W32)  -- R239
  | vqmark  -- R223
  | vloop (src : VSrc) (dist count : BitVec 16)  -- R218
  | vend  -- R213
  | vflip  -- R168
  | kli (d : PReg) (imm : W32)  -- R246
  | kadd (d a : PReg) (src : VSrc) (n : BitVec 6) (imm : BitVec 24)  -- R246
  | kld (d a : PReg) (off : W32)  -- R246
  | kmov (d : PReg) (src : VSrc)  -- R246
  | plen (d : PReg) (src : VSrc) (imm : W32)  -- R247
  | plenS (d : PReg) (src : VSrc) (imm : W32)  -- R247
  | pand (d a b : PReg)  -- R246
  | por (d a b : PReg)  -- R246
  | pnot (d a : PReg)  -- R246
  | vnop  -- R246
  | vtip (d a : VReg) (tbl pm : PReg)  -- R243
  | vtipX (d a : VReg) (tbl pm : PReg)  -- R243
  | vupd (d a b : VReg) (kc pm : PReg)  -- R244
  | vldx (conv : Conv) (v a : VReg) (kc pm : PReg)  -- R241
  | vstx (conv : Conv) (v a : VReg) (kc pm : PReg)  -- R241
  | debugHaltRequest (p : PortId) (t : TileId) (on : Bool)  -- R394
  | wordEncodingNothing (w : BadWord)  -- R67
  | engineAccessLands (t : TileId) (u : Site) (k : Nat)  -- R132
  | semPostTileLands (k : Nat)  -- R317
  | queuedPush (t : TileId)  -- R70
  | commandStart (t : TileId) (u : Site)  -- R426
  | commandCompletion (t : TileId) (u : Site) (k : Nat)  -- R73
  | flipExchange (t : TileId) (d : Dom)  -- R168
  | slowWriteLands (t : TileId)  -- R164
  | suLoadLands (t : TileId) (k : Nat)  -- R189
  | suStoreLands (t : TileId) (k : Nat)  -- R190
  | vectorQueueSend (t : TileId) (store : Bool)  -- R221
  | vuLoadLands (t : TileId) (k : Nat)  -- R217
  | vuStoreLands (t : TileId) (k : Nat)  -- R221
  | mailboxOutsideWrite (t : TileId) (ks : List Nat)  -- R166
  | stashFillComplete (t : TileId) (line : BitVec 14)  -- R116
  | stashShadowing (t : TileId) (line : BitVec 14)  -- R122
  | granuleShadowCopy (g : Nat)  -- R390
  | remoteStashAccess (r : Requester)  -- R119
  | rmwAtMemoryPoint (t : TileId) (c : Fin 5) (k : Nat)  -- R84
  | lineMove (line : Nat)  -- R83
  | walkerRecordLoad (t : TileId) (w : Fin 4)  -- R160
  | trapEntry (t : TileId)  -- R381
  | cePacketLand (l : LinkId)  -- R296
  | windowGrant (l : LinkId) (tag : BitVec 8) (g : Granted) (credits : Nat)  -- R294
  | linkPacketStart (l : LinkId)  -- R286
  | packetReceive (l : LinkId) (p : Incoming) (crcOk : Bool)  -- R283
  | linkReplay (l : LinkId) (seq : Nat)  -- R283
  | linkTrain (l : LinkId) (lanes : BitVec 2)  -- R281
  | laneFailure (l : LinkId) (eight : Bool)  -- R48
  | fleetTimeExchange (ahead : Bool) (err : W64)  -- R288
  | slotTableCommit (l : LinkId)  -- R290
  | dispatchRound (d : DieId)  -- R338
  | taskQueuePush (k : Nat)  -- R86
  | poolEnable (p : BitVec 8)  -- R88
  | memberLaunch (t : TileId)  -- R335
  | restore (t : TileId)  -- R388
  | memberComplete (t : TileId)  -- R350
  | joinPushRetry (q : BitVec 12)  -- R342
  | tideDispatch (d : DieId)  -- R354
  | tideCreditArrival (l : LinkId) (n : BitVec 16)  -- R354
  | preempt (t : TileId)  -- R384
  | timer (t : TileId)  -- R378
  | sample (t : TileId)  -- R375
  | waitaWake (t : TileId)  -- R322
  | waitaPeriodicReread (t : TileId)  -- R322
  | barWaitSinkRelease (t : TileId)  -- R328
  | clockResume (t : TileId)  -- R360
  | rampVoltageStep (t : TileId)  -- R371
  | rampSettleEnd (t : TileId)  -- R371
  | replan (r : Replan)  -- R377
  | arbiterGrant (d : DieId)  -- R364
  | thermal (stack : Fin 8) (level : BitVec 2)  -- R79
  | sramScrubPass (fixed : Option ErrSite)  -- R409
  | packageReset (tfail : BitVec 128) (imageOk : Bool)  -- R407
  | hostPortTrain (p : PortId) (lanes : BitVec 5)  -- R402
  | hostApertureAccess (p : PortId) (a : HostAcc)  -- R403
  | hlockRead (p : PortId) (n : BitVec 5)  -- R404
  | hlockWrite (p : PortId) (n : BitVec 5) (v : W64)  -- R404
  | seize (p : PortId)  -- R392
  | resume (p : PortId)  -- R393
  | post (p : PortId)  -- R405
  | mail (p : PortId)  -- R405
  | intr (p : PortId)  -- R405
  | submit (p : PortId)  -- R405
  | attest (p : PortId)  -- R408
  | linkown (p : PortId)  -- R405
  | debugModeSet (p : PortId) (t : TileId) (on : Bool)  -- R394
  | debugRecordSet (p : PortId) (t : TileId) (on : Bool)  -- R394
  | debugRegisterWrite (p : PortId) (t : TileId) (r : DbgReg) (hidden : Bool) (v : W4096)  -- R175
  | debugStop (p : PortId) (t : TileId) (n : W64)  -- R398
  | debugReverseStep (p : PortId) (t : TileId)  -- R399
  | debugForwardStep (p : PortId) (t : TileId)  -- R399
  | proofTake (t : TileId)  -- R395
  | registerWrite (p : PortId) (r : RegTarget) (v : W64)  -- R82
  | rotationQuantum  -- R340
  | seizeAccessRecord  -- R392
  | seizeWrite  -- R392
  | seizeDone  -- R393
  | lossOfPower  -- R90
  | uncorrectedError (e : ErrSite)  -- R409
  deriving DecidableEq, Repr

end Sys2Proof
end

