-- ==== Sys2Proof/Config.lean ====
section
/-! DEFINITION. What the configuration image and an implementation fix (plain data), and the free values: constants
with no body, of which nothing can be proved. -/

namespace Sys2Proof

/-- The values that the configuration image gives (R6, log 4). Addresses are physical; lengths are in bytes. -/
structure CfgImage where
  rootBase : Nat
  tvec : W64
  handlerLen : Nat
  dceil : W64
  srseed : W64
  levelBase : Nat
  overflowBase : Nat
  contextBase : Nat
  contextDir : Nat
  mirror : Nat
  logSize : Nat
  homes : List (TileId × List (BitVec 12))
  budget : Nat
  launchClass : BitVec 3
  timerPeriod : Nat
  recDefault : Bool
  curves : List (BitVec 128)
  owners : List (BitVec 12)
  master : Bool
  deriving DecidableEq, Repr, Inhabited

/-- One turn of the schedule: the model's own account of which agent moves next. -/
inductive Turn where
  | su (t : TileId)
  | vu (t : TileId)
  | tick (t : TileId)
  | event (i : Instr)
  | fleet (ns : Nat)
  | fabric
  | hostMem (a : Nat) (b : Byte)
  deriving DecidableEq, Repr, Inhabited

namespace Config

/-- The next turn when the schedule is empty (log 3). -/
opaque freeTurn : Nat → Turn

/-- A free choice of one bit: old or new translation (R101), cached or fresh operand word (R257), an abandoned write
that lands or not (R383). -/
opaque freeBit : Nat → Bool

/-- The SM3 digest of a byte string, as a number (R407, R408). -/
opaque sm3 : List Byte → BitVec 256

/-- The SM2 signature by the device key over a digest (R408). -/
opaque sm2 : BitVec 256 → BitVec 512

/-- Bits [63:0] of an event's DATA or a register field that the spec names and gives no value. -/
opaque freeWord : Nat → BitVec 64

/-- The bytes of a part of an image whose inner layout the spec leaves to the implementation (R385, log 66), by the write and the
place of the byte. -/
opaque freeByte : Nat → Nat → BitVec 8

/-- floor(log2 0), where R266 asks for it: the spec states no value (log 92). -/
opaque log2OfZero : Int

/-- The values of another configuration image, which the host has installed before a reset (R407, log 15). -/
opaque freeCfg : Nat → CfgImage

end Config

end Sys2Proof
end

