-- ==== Sys2Proof/Machine/State.lean ====
section
/-! DEFINITION. The state of one FJ-128 package as plain data, the machine right after reset, and the reasons a step
can stop. A member is all that a context image holds (R385); a tile is the hardware that a member runs on. -/

namespace Sys2Proof.Machine

/-- Finite maps from numbers, sparse: keys strictly rising, no entry equal to the default of the map's use. -/
abbrev SMap (α : Type) := List (Nat × α)

/-- A faced register: both faces and the W bit (R162, R168). -/
structure Faced (n : Nat) where
  vis : BitVec n
  hid : BitVec n
  w : Bool
  deriving DecidableEq, Repr

/-- A faced register that holds 0 in both faces with W clear (R170). -/
def Faced.zero (n : Nat) : Faced n := ⟨0#n, 0#n, false⟩

/-- The faced registers of the steering domain and of the supervisor bank (R162). `ctl` is indexed by `Ctl.index`. -/
structure SFaces where
  s : Vector (Faced 64) 64
  sup : Vector (Faced 64) 64
  mb : Vector (Faced 64) 16
  td : Vector (Faced 512) 64
  ctl : Vector (Faced 64) 12
  deriving DecidableEq, Repr

/-- The faced registers of the vector domain (R162). -/
structure VFaces where
  v : Vector (Faced 4096) 32
  p : Vector (Faced 256) 8
  k : Vector (Faced 64) 8
  deriving DecidableEq, Repr

/-- A slow writer of bounded time (R164): its number in issue order, the bits it still covers, their values, the cycle at whose end it lands. -/
structure SlowWrite where
  id : Nat
  ref : DbgReg
  mask : W4096
  val : W4096
  due : Nat
  deriving DecidableEq, Repr

/-- Where an access of a tile goes (R114): its own stash at an offset, or a physical address with
the memory type of its leaf (R97). -/
inductive Target where
  | own (off : Nat)
  | pa (a : Nat) (mt : BitVec 2)
  deriving DecidableEq, Repr

/-- A trap or fault report: the fields of TCAUSE (R379) and TVAL, with its KIND and REASON. -/
structure Report where
  code : BitVec 8
  seq : W32
  chan : BitVec 4
  cls : BitVec 2
  kind : BitVec 2
  reason : BitVec 8
  tval : W64
  deriving DecidableEq, Repr

/-- How a steering load's bytes become a register value (R187, R209). -/
inductive LoadKind where
  | signed
  | unsigned
  | desc (word : W32)
  deriving DecidableEq, Repr

/-- A steering load or `td.load` that has not landed (R189), or a result of a task instruction that has not. `fwd` are
the bytes the forwarding table supplied; `got` the value once it has been read, with the cycle at whose end it lands. -/
structure SuLoad where
  id : Nat
  dst : DbgReg
  live : Bool
  va : W64
  n : Nat
  kind : LoadKind
  fwd : List (Option Byte)
  tgt : Target
  port : Option Nat
  got : Option (W512 × Bool × Nat)
  deriving DecidableEq, Repr

/-- A steering store in the forwarding table (R191). `id` numbers stores in program order; `due` is the cycle at whose
end it lands, for a READY line of the own stash; `fresh` until the end of its issue cycle, before its port has taken it (R129). -/
structure SuStore where
  id : Nat
  asid : BitVec 12
  va : W64
  n : Nat
  data : W64
  tgt : Target
  due : Option Nat
  fresh : Bool
  deriving DecidableEq, Repr

/-- What the steering unit waits on: nothing; a condition of an instruction that has issued (queue space, a fence, a full
forwarding table: R70, R191, R276, R343); the accesses issued before a `tlbi`, each tile's below its mark (R108); a word (R321, R327);
the arbiter (R365, R367); the drain before a trap (R173) or a return (R383); the end of the member (R350). -/
inductive SuWait where
  | no
  | again (i : Instr)
  | drain (i : Instr) (marks : List Nat)
  | waita (d : SReg) (z : W64) (va : W64) (tgt : Target) (woken : Bool)
  | barWait (g : W64) (va : W64) (tgt : Target) (sink woken : Bool)
  | acq (c : BitVec 3)
  | trap (r : Report) (tpc : W64)
  | eret (abort : Bool)
  | retired
  deriving DecidableEq, Repr

/-- A command in a queue or an engine, with the values its push captured (R70, R71). `marks` is the number of stores
that had issued before the push (R273); `since` the cycle at which its wait was first tested and did not pass. -/
structure Cmd where
  op : Instr
  wait : Option QWait
  post : Option QPost
  scope : Scope
  seq : W64
  x : W64
  y : W64
  z : W64
  d0 : W512
  d1 : W512
  d2 : W512
  asid : BitVec 12
  rank : W32
  marks : Nat
  since : Option Nat
  deriving DecidableEq, Repr

/-- A matrix-unit command that runs (R249): the start cycle, the next of its `total` groups, rows or columns, whether it is
halted, the cycle at whose end it completes once its last step has been done, whether it owns its slot (R142), whether
the checks and translations of its start have passed (`begun`), and its place in a sparse stream (R255). -/
structure MuRun where
  cmd : Cmd
  start : Nat
  next : Nat
  halted : Bool
  noEffect : Bool
  doneAt : Option Nat
  owns : Bool
  begun : Bool
  total : Nat
  pos : Nat
  deriving DecidableEq, Repr

/-- The stage of one copy-unit access in flight (R132, R135): a read; a write of a value, to the copy of one tile of a
`cp.mc`; a read-modify-write; a return that has not landed in its mailbox. -/
inductive Stage where
  | read
  | write (v : Nat) (j : Option (Fin 16))
  | rmw (v : W64)
  | ret (id : Nat)
  deriving DecidableEq, Repr

/-- One access of a copy-unit command in flight: the `cnt` units from `elem` on, which share words at their destination (R128).
`parked` holds the reason of a failed access (R103, R422), `own` tells that the pending bits of its words are its own (R129). -/
structure Flight where
  elem : Nat
  row : Nat
  cnt : Nat
  stage : Stage
  parked : Option Report
  own : Bool
  deriving DecidableEq, Repr

/-- A copy-unit command started and not completed (R132): the next element of the row, the list entry and the index read for
it, whether the command has left the head, its copy errors with the first one's address (R150), a walker record's
address and next address, the slot it owns (R142), whether its start has passed (`begun`), and the granules that a
`stash.map` has translated (R113). -/
structure CuRun where
  cmd : Cmd
  next : Nat
  entry : Nat
  index : Option Nat
  issued : Bool
  flights : List Flight
  errs : Nat
  errAddr : W64
  halted : Option Report
  noEffect : Bool
  started : Nat
  recAddr : Option W64
  recNext : W64
  slot : Option (BitVec 3)
  begun : Bool
  gran : List (Nat × BitVec 2)
  deriving DecidableEq, Repr

/-- A channel of the copy unit (R131). For a walker, `loadAt` is the address of the record to load, `pending` a loaded
record whose command has not started, with its address and next address; `seq`, `asid` and `marks` are those of its
`chain` command. -/
structure Channel where
  runs : List CuRun
  loadAt : Option W64
  pending : Option (Cmd × W64 × W64)
  seq : W64
  asid : BitVec 12
  marks : Nat
  fault : Option Report
  deriving DecidableEq, Repr

/-- A vector access by lane: the lane, its virtual address and where it goes. -/
structure LaneAcc where
  lane : Nat
  va : W64
  tgt : Target
  deriving DecidableEq, Repr

/-- What a vector memory entry does (R216, R239, R241, R244, R246). -/
inductive VKind where
  | load (conv : Conv)
  | kload
  | store (conv : Conv)
  | update (g h : W4096)
  deriving DecidableEq, Repr

/-- An entry of the vector load or store queue, or one that has been sent and has not landed (R221). `rest` are the lanes it
has still to read and `codes` what the others brought, `busy` the number of cycles that the entry holds the port (R242),
`writes` the bytes it has still to write, `due` the cycle at whose end its part on READY lines of the own stash lands, `hit`
whether one of its words has been dropped and reported (R421), `arr` the number of accesses that had issued when it was sent
(R116). -/
structure VEntry where
  id : Nat
  kind : VKind
  dst : DbgReg
  mask : W4096
  lanes : List LaneAcc
  rest : List LaneAcc
  codes : List (Nat × Nat)
  data : W4096
  writes : List (Target × W64 × List Byte)
  issued : Nat
  busy : Nat
  sent : Option Nat
  read : Bool
  due : Option Nat
  hit : Bool
  seq : W64
  arr : Nat
  deriving DecidableEq, Repr

/-- An open hardware loop (R218). -/
structure Loop where
  remaining : Nat
  first : W64
  last : W64
  deriving DecidableEq, Repr

/-- The vector unit (R211 to R223): the running block, its faces aside. `marks` are the marks of `vqmark`: the ids of
the entries older than each; `left` are the stores that have landed in this cycle (R223). -/
structure Vu where
  cmd : Option Cmd
  vpc : W64
  loops : List Loop
  halted : Option Report
  vending : Bool
  lq : List VEntry
  sq : List VEntry
  marks : List Nat
  sendL : Nat
  sendS : Nat
  ready : Nat
  flip : Bool
  left : List Nat
  deriving DecidableEq, Repr

/-- Fill state of a stash line (R115). -/
inductive Fill where
  | empty | filling | ready
  deriving DecidableEq, Repr

/-- A stash line of a live range (R115): `poison` has a bit for each 64-byte unit. -/
structure Line where
  fill : Fill
  d : Bool
  i : Bool
  poison : BitVec 4
  deriving DecidableEq, Repr

/-- The state of a mapping-table entry (R112). -/
inductive MapState where
  | free | mapping | live | closing
  deriving DecidableEq, Repr

/-- An entry of the stash mapping table with the physical addresses of its granules (R112); `gone` is the number of lines that
`stash.unmap` has released (R121). -/
structure MapEntry where
  asid : BitVec 12
  st : MapState
  mode : Bool
  lsize : BitVec 4
  soff : BitVec 10
  vbase : BitVec 43
  gran : List Nat
  gone : Nat
  deriving DecidableEq, Repr

/-- The stash (R112 to R117, R129): the table, the lines, the bytes, the pending words of debug mode, and
the words that an uncorrected error poisoned (R409). -/
structure Stash where
  map : Vector MapEntry 64
  lines : SMap Line
  bytes : SMap Byte
  pend : List Nat
  bad : List Nat
  deriving DecidableEq, Repr

/-- The tag of a weight panel (R252). -/
structure PanelTag where
  gen : W32
  asid : BitVec 12
  tdx : BitVec 6
  km1 : BitVec 13
  nm1 : BitVec 8
  sp : Bool
  valid : Bool
  dfmt : BitVec 31
  deriving DecidableEq, Repr

/-- A weight panel: its tag, the codes of its elements by k * 256 + n, and its scale codes (R252 to R255). -/
structure Panel where
  tag : PanelTag
  elems : SMap (BitVec 32)
  scales : SMap Byte
  deriving DecidableEq, Repr

/-- A table header (R224). -/
structure Table where
  lo : W32
  hi : W32
  nseg : Nat
  org : Nat
  inv : W32
  v : Bool
  deriving DecidableEq, Repr

/-- Who posted (R401): the fields PCL, PTILE and PSEQ. -/
structure Poster where
  pcl : BitVec 4
  ptile : BitVec 7
  pseq : W32
  deriving DecidableEq, Repr

/-- One post: the semaphore's value before and after it, the poster, and the tile cycle (R401). -/
structure PostRec where
  sem : BitVec 8
  before : Nat
  after : Nat
  by_ : Poster
  cycle : Nat
  deriving DecidableEq, Repr

/-- An outside write to a mailbox that has not landed (R166), with its place in the order of one cycle; `id` is the
access that waits for it. With `fleet` it brings fleet time, read as it lands (R304). -/
structure MbWrite where
  mb : MIx
  val : W64
  fleet : Bool
  rank : Nat
  id : Nat
  deriving DecidableEq, Repr

/-- The semaphores (R73, R314, R318): values, promises and reservations of the local ones, the posts applied, and the external
ones that have saturated in this cycle (R319). -/
structure Sems where
  val : Vector (BitVec 24) 256
  p : Vector (BitVec 24) 256
  q : Vector (BitVec 24) 256
  posts : List PostRec
  sat : List (BitVec 8)
  deriving DecidableEq, Repr

/-- The steering unit (R50, R168 to R191, R309, R362). `semRds` are the `sem.rd` of the current cycle (R316). `full` is the
entry of the forwarding table whose leaving a store at issue waits for (R191). Stores below `record` stand in the record of a freeze
and no longer in the forwarding table (R392). `mbRank` is the place of the latest outside mailbox write of this cycle (R166). `hfirst`
is the number of the handler's first access and `hcause` the CODE of its entry (R105, R383). -/
structure Su where
  pc : W64
  inHandler : Bool
  ready : Nat
  wait : SuWait
  flip : Bool
  slow : List SlowWrite
  loads : List SuLoad
  stores : List SuStore
  semRds : List (DbgReg × BitVec 8)
  full : Option Nat
  record : Nat
  mbRank : Nat
  hfirst : Nat
  hcause : BitVec 8
  nextId : Nat
  win : List (Nat × Nat)
  vwin : List (Nat × Nat)
  deriving DecidableEq, Repr

/-- The probe counters (R169, R178). `phaseSup` counts the flips of the supervisor bank (R45). -/
structure Counters where
  pseq : W64
  phaseS : W64
  phaseV : W64
  phaseSup : W64
  flipwait : W64
  cycle : Nat
  retired : W64
  smpMem : W64
  smpIssue : W64
  smpBusy : W64
  smpSeq : W64
  nfCount : W64
  deriving DecidableEq, Repr

/-- The four command queues (R69). -/
structure Queues where
  mu : List Cmd
  cu : List Cmd
  vu : List Cmd
  ce : List Cmd
  deriving DecidableEq, Repr

/-- The code store and its section bounds (R50, R51, R53, R335, R381). -/
structure Code where
  scb : W64
  scl : Nat
  vcb : W64
  vend : Nat
  hbase : W64
  hlen : Nat
  bytes : SMap Byte
  deriving DecidableEq, Repr

/-- The reports that wait for a steering boundary (R380). An engine fault of the vector unit carries the number of its
instruction (R421), any other one 0. -/
structure Reports where
  preempt : Bool
  deferred : List (Nat × Report)
  waw : List MIx
  vector : List Report
  engine : List (Nat × Report)
  cancel : Option W64
  hostMsg : List W64
  timer : Bool
  deriving DecidableEq, Repr

/-- The dirty flags of a member's image (R385): of the sections of the steering and the vector registers, of table memory and of the
code store, the 64 KiB granules of accumulator memory and the weight panels with a dirty part. The two sections that are one part
each change in every cycle; a stash line's flag is its D and I bits. -/
structure Dirty where
  steer : Bool
  vector : Bool
  tables : Bool
  code : Bool
  acc : List Nat
  wb : List Nat
  deriving DecidableEq, Repr

/-- Who a member is (R334, R335, R337, R386): its record, the record's address, its index and its gang. -/
structure Ident where
  record : W512
  recAddr : W64
  index : Nat
  gang : Nat
  cls : Option (BitVec 3)
  deriving DecidableEq, Repr

/-- A member: all that a context image holds (R385). `rel` are the commands that have completed and whose post waits for older
steering stores (R273), with the class of the poster. -/
structure Member where
  su : Su
  f : SFaces
  vf : VFaces
  code : Code
  ctr : Counters
  sems : Sems
  q : Queues
  mu : Option MuRun
  ch : Vector Channel 5
  rel : List (Cmd × BitVec 4)
  vu : Vu
  stash : Stash
  acc : SMap W32
  wb : Vector Panel 8
  tbl : Vector Table 8
  rows : SMap W32
  vbank : Vector W32 128
  dbank : Vector W32 128
  rep : Reports
  mbq : List MbWrite
  dirty : Dirty
  id : Ident
  deriving DecidableEq, Repr

/-- A cached translation (R100): its ASID, the virtual page and its size in bits, and the leaf entry. -/
structure TlbEntry where
  cls : BitVec 2
  asid : BitVec 12
  page : Nat
  span : Nat
  entry : W64
  deriving DecidableEq, Repr

/-- A word that an `mma` read into the operand cache (R257): its tag, the word, and the sequence number of that `mma`. -/
structure OcWord where
  asid : BitVec 12
  tdx : BitVec 6
  gen : W32
  word : Nat
  data : W64
  seq : W64
  deriving DecidableEq, Repr

/-- What a tile is doing (R336, R338, R384, R394). -/
inductive TileSt where
  | idle
  | claimed
  | running
  | stopped
  deriving DecidableEq, Repr

/-- What the regulator controller of an island is doing (R371, R377). -/
inductive Reg where
  | idle
  | stepUp
  | stepDown
  | settle (point : Nat)
  deriving DecidableEq, Repr

/-- A tile's island (R368 to R372): the curve record in force, one that a re-plan will install, the point of the
running clock, the rail in millivolts, the target, the regulator's activity with the fleet time at which its step or settle is
over, an armed arrival post, and whether the clock is held for a re-plan (R377). -/
structure Island where
  curve : BitVec 128
  nextCurve : Option (BitVec 128)
  point : Nat
  mv : Nat
  target : Nat
  reg : Reg
  until_ : W64
  armed : Option (BitVec 6)
  held : Bool
  deriving DecidableEq, Repr

/-- A wait record (R401). -/
structure WaitRec where
  time : W64
  waited : W32
  by_ : Poster
  sem : BitVec 8
  wseq : W64
  deriving DecidableEq, Repr

/-- A record of the replay log (R397) with the tile cycle at which it took effect. -/
inductive LogRec where
  | mailbox (i : MIx) (v : W64) (rank : Nat)
  | post (n : BitVec 8) (v : Nat) (by_ : Poster)
  | completion (seq : W64)
  | read (va : W64) (bytes : List Byte)
  | remoteWrite (a : Nat) (bytes : List Byte)
  | value (v : W64)
  | grant (c : Option (BitVec 3))
  deriving DecidableEq, Repr

/-- A proof (R395): the counts of its header and the member as it stood. -/
structure Proof where
  retired : W64
  cycle : Nat
  fleet : W64
  pos : Nat
  img : Member
  deriving DecidableEq, Repr

/-- HST of the debug control word (R394). -/
inductive Hst where
  | running | liveHead | replayHalt | replaying
  deriving DecidableEq, Repr

/-- What a recording member leaves (R395 to R397): its proofs, its replay log, and `hist`, the member at each boundary, by
RETIRED: re-execution from a proof and the log comes to these states (R398). `base` is the number of records that the log has given
up (R396). -/
structure Trace where
  proofs : List Proof
  log : List (Nat × LogRec)
  hist : List (W64 × Member)
  base : Nat
  deriving DecidableEq, Repr

/-- The status of a debugger's request (R396, R399). -/
inductive DbgStatus where
  | ok | noproof | replay
  deriving DecidableEq, Repr

/-- A tile's debug block (R394 to R401). `goal` is the count of a stop that waits for the live member to halt; `dmReq` and `recReq`
are changes of DM and REC that take effect at the next boundary. While HST is 2 the live head stands in the slot that `replaySlot`
names. -/
structure Dbg where
  hst : Hst
  hreq : Bool
  recording : Bool
  dm : Bool
  waits : List WaitRec
  trace : Trace
  goal : Option W64
  status : DbgStatus
  dmReq : Option Bool
  recReq : Option Bool
  deriving DecidableEq, Repr

/-- A tile (R39, R357 to R367): the resident member and the hardware that stays when members come and go. `smp` counts the
cycles of the interval (R376); `drop` is a grant that returns at the end of the cycle (R366); `sampled` and `timed` are the numbers
of the last sample interval and timer period that have been acted on (R375, R378). -/
structure Tile where
  st : TileSt
  m : Member
  tlb : List TlbEntry
  oc : List OcWord
  isl : Island
  fast : Bool
  gated : Bool
  grant : Option (BitVec 3)
  sunk : Bool
  reassigned : Bool
  drop : Bool
  smp : Nat × Nat × Nat × Nat
  sampled : Nat
  timed : Nat
  dbg : Dbg
  deriving DecidableEq, Repr

/-- The owner of a registered stash line (R118, R387): a tile's stash line, or the line in a saved slot. -/
inductive Owner where
  | tile (t : TileId) (line : Nat)
  | slot (k : Nat) (line : Nat)
  deriving DecidableEq, Repr

/-- A `waita` or barrier wait registered on a word (R111, R322). -/
structure Waiter where
  tile : TileId
  pa : Nat
  deriving DecidableEq, Repr

/-- A record in the event recorder (R90). -/
structure Event where
  data : BitVec 128
  code : Half
  src : Half
  seq : W32
  time : W64
  deriving DecidableEq, Repr

/-- A grant received from the peer and not yet matched (R294). -/
structure Grant where
  tag : BitVec 8
  expect : Expect
  credits : Nat
  deriving DecidableEq, Repr

/-- A control packet that a link sends (R282, R294, R354, R288). -/
inductive CtlPacket where
  | grant (tag : BitVec 8) (e : Expect) (credits : Nat)
  | credit (tag : BitVec 8) (msg : W64)
  | ack (upTo : Nat)
  | tide (n : Nat)
  | replay (seq : Nat)
  | time (t : W64)
  deriving DecidableEq, Repr

/-- A packet on a link (R282, R283): its link sequence number, and what it carries; a data packet with its CRC-32C. Acknowledgements and
replay requests have no sequence number (log 100). -/
inductive Frame where
  | data (seq : Nat) (p : Packet) (crc : W32)
  | ctl (seq : Nat) (c : CtlPacket)
  | bare (c : CtlPacket)
  deriving DecidableEq, Repr

/-- One peer link (R281 to R290). `lanes` is the width code of R408: 0 down, 1 x4, 2 x8, 3 x16; `training` holds from a retrain
that R283 asks for until the link has trained. `commit` is the fleet time at which a shadow table to commit was written, `out`
what has been sent, `recv` the packets accepted and not landed, `fails` the packet last asked for again with the number of times
in succession, `slotUse` the flits sent in a slot. `opened` counts the windows opened per TAG and `matchedN` the messages matched
(R294). -/
structure Link where
  lanes : BitVec 2
  training : Bool
  owner : BitVec 12
  active : SMap Half
  shadow : SMap Half
  commit : Option W64
  msg : W64
  sendSeq : Nat
  recvSeq : Nat
  replay : List Frame
  out : List Frame
  ctl : List CtlPacket
  recv : List Packet
  grants : List Grant
  fails : Nat × Nat
  slotUse : Nat × Nat
  opened : SMap Nat
  matchedN : SMap Nat
  deriving DecidableEq, Repr

/-- The send half of a collective-engine command (R294, R299, R303): `ord` is the start order of its message, `nth` the window
that it matched, `pkt` the next packet to form, `landed` the packets that the peer has reported. -/
structure Send where
  ord : Nat
  nth : Nat
  fired : Bool
  matched : Bool
  credits : Nat
  pkt : Nat
  msg : Option W64
  landed : Nat
  deriving DecidableEq, Repr

/-- The receive half (R294, R300, R301): which window of its link and TAG it opened, and the elements landed so far. -/
structure Recv where
  nth : Nat
  landed : Nat
  done : Bool
  deriving DecidableEq, Repr

/-- A started collective-engine command (R292, R307). `home` is the pushing tile, or the slot of a saved member; `order`
the start order of the command (R286); `admitted` says that the link let it start (R284); `progress` how far a command that is no
send or receive has come, or 1 for a `carm` whose trigger has passed. -/
structure CeRun where
  home : Owner
  cmd : Cmd
  order : Nat
  send : Option Send
  recv : Option Recv
  progress : Nat
  halted : Option Report
  noEffect : Bool
  admitted : Bool
  errs : Nat
  errAddr : W64
  deriving DecidableEq, Repr

/-- The state of a tide table (R352). -/
inductive TideSt where
  | idle | loaded | running | done
  deriving DecidableEq, Repr

/-- A die's tide table (R351 to R356). `cyc` is the fabric cycle after the last that the table has acted in. -/
structure Tide where
  st : TideSt
  job : BitVec 12
  entries : List W512
  head : Nat
  credits : Nat
  free : Nat
  fbase : W32
  ebase : W32
  cfg : W64
  asid : BitVec 12
  finished : List Nat
  post : Option (TileId × BitVec 8)
  slackIn : W64
  slackSlot : W64
  slackCredit : W64
  cyc : Nat
  deriving DecidableEq, Repr

/-- A choice of a dispatcher (R338, R397): the fleet time, the queue, the ring slot of the record and the first tile of the
block. -/
structure Choice where
  time : W64
  queue : BitVec 12
  slot : Nat
  tile : TileId
  deriving DecidableEq, Repr

/-- The units that the tiles of a die share (R41): receive counters (R293), started collective commands (R292), the
current arbiter (R364), the tide table, the low rail with the fleet time at which its step is over (R357, R377), the
fabric cycle after that of the last dispatch round (R338, R428), the log of the dispatcher's choices (R397), and the tide credits
held while the package is seized (R419). -/
structure Die where
  rc : Vector W32 64
  ce : List CeRun
  ceOrder : Nat
  fifo : List TileId
  tide : Tide
  lowMv : Nat
  lowTarget : Nat
  lowUntil : W64
  tlb : List TlbEntry
  round : Nat
  choices : List Choice
  heldCredits : Nat
  deriving DecidableEq, Repr

/-- One host port (R402, R403, R405). `copies` counts the granules that have left by it (R389), `work` is a message that has not
been performed, with its type and operands, and `wr` the pieces of BAR2 writes that have not landed (R405, R406). -/
structure Port where
  lanes : Nat
  msga : W64
  msgb : W64
  msgdb : W64
  busy : Bool
  status : BitVec 4
  apbase : W64
  vec0 : Nat
  vec1 : Nat
  out : List (List Byte)
  abort : Bool
  copies : Nat
  work : Option (W64 × W64 × W64)
  wr : List (Nat × List Byte)
  deriving DecidableEq, Repr

/-- A saved member in a slot of the context area (R385, R386): the tile it was saved from, the posts and the mailbox
writes held for it, a number that orders the saves, and its proofs (R396). -/
structure Slot where
  img : Member
  from_ : TileId
  posts : List (BitVec 8 × Nat × Poster)
  mbs : List MbWrite
  stamp : Nat
  restored : Bool
  trace : Trace
  deriving DecidableEq, Repr

/-- A gang (R337, R350): its record, the address it was taken from, the physical address of the original record (log 29),
its size, the members completed, its context key, the fleet time of its residency. -/
structure Gang where
  id : Nat
  record : W512
  recAddr : W64
  orig : Nat
  size : Nat
  done : Nat
  key : Option Nat
  since : W64
  deriving DecidableEq, Repr

/-- A freeze (R392, R393). -/
inductive Freeze where
  | none
  | stopping
  | writing
  | holding
  | done
  deriving DecidableEq, Repr

/-- The package image (R392). -/
structure PkgImage where
  rcs : List (Vector W32 64)
  slots : List (SMap Half × SMap Half)
  tides : List Tide
  bars : List (Nat × Nat)
  joins : List (Nat × W64 × BitVec 12)
  qcb : SMap W512
  pcb : SMap W512
  ces : List (List CeRun)
  deriving DecidableEq, Repr

/-- The state of a freeze (R392, R393): the stage, the fleet time of SEIZE, the accesses recorded at 15 us, the bytes of
granules written, whether a port narrowed or was lost, the package image, and the stashes of the stopped members as their images
were written to the mirror. -/
structure Seize where
  st : Freeze
  t0 : W64
  accs : Option (List Requester)
  bytes : Nat
  late : Bool
  pimg : Option PkgImage
  imgs : Option (List (TileId × Stash × Nat))
  deriving DecidableEq, Repr

/-- A shelf (R79, R88): the two thermal limits entered. -/
structure Shelf where
  hot : Bool
  capped : Bool
  deriving DecidableEq, Repr

/-- Firmware and configuration identity (R407, R408), the versions that the shelf's non-volatile cells hold, below which an
image is rejected, and whether both images were accepted. -/
structure Firmware where
  fwver : W32
  cfgver : W32
  fwMin : W32
  cfgMin : W32
  fwDigest : BitVec 256
  cfgDigest : BitVec 256
  valid : Bool
  deriving DecidableEq, Repr

/-- A record on its way to a queue (R86, R342), with the physical address of its original (log 29). -/
structure PushReq where
  record : W512
  queue : BitVec 12
  orig : Nat
  deriving DecidableEq, Repr

/-- A post on its way between tiles (R317). -/
structure TilePost where
  src : TileId
  dst : TileId
  job : BitVec 12
  sem : BitVec 8
  inc : Nat
  deriving DecidableEq, Repr

/-- Memory-side registrations and control blocks (R85, R87, R111, R118, R324, R342). A join registration is the word's
index, the record's physical address and its ASID. `held` are pushes that a queue refused. `orig` gives the original
record of each ring slot (log 29), `setup` the pools whose EN has risen and whose free stack is not built yet (R88). `poison` are
the poisoned 64-byte blocks of DRAM (R78), `bad` the 8-byte words that an uncorrected error of an L2 slice poisoned (R409). -/
structure MemSide where
  poison : List Nat
  l2 : List Nat
  dir : SMap Owner
  bars : List (Nat × Nat)
  joins : List (Nat × W64 × BitVec 12)
  held : List PushReq
  orig : SMap Nat
  waiters : List Waiter
  qcb : SMap W512
  pcb : SMap W512
  sbit : List Nat
  tbit : List Nat
  setup : List Nat
  bad : List Nat
  deriving DecidableEq, Repr

/-- What has happened in the current fabric cycle, as far as the order within one cycle is fixed: the queues popped (R86), the
place of the latest event's source (R90), the tile of the latest collective start (R292) and of the latest arbiter request
(R364) of a die, the stage of each die's receive counters with the latest start order (R293), the tile of the latest request of a
granule ceiling (R391), the locks that port 1 has read (R404), whether a message of port 1 has been performed (R406), whether
each die's tide table has made its tests (R354), and the ports whose waiting work has been tried. -/
structure Fab where
  pops : List Nat
  event : Nat
  starts : Vector Nat 2
  requests : Vector Nat 2
  counts : Vector (Nat × Nat) 2
  ceil : Nat
  locks : List Nat
  message : Bool
  tides : Vector Bool 2
  tried : List Nat
  deriving DecidableEq, Repr

/-- The steering of fleet time (R288): the nanoseconds that the master is ahead (below 0: behind) and that are still to be slewed,
the count of thousands of nanoseconds in the last of which one was slewed, and the counts of the exchange times and of the rotation
quanta (R340) that have been acted on. -/
structure FleetSync where
  due : Int
  slewed : Nat
  exchanged : Nat
  rotated : Nat
  deriving DecidableEq, Repr

/-- The whole package. `closing` is the tile whose cycle is at its end: its waits are tested and no post lands before the
next cycle (R74). -/
structure State where
  cfg : CfgImage
  sched : List Turn
  free : Nat
  cur : TileId
  tiles : Vector Tile 128
  mem : SMap Byte
  mirror : SMap Byte
  ms : MemSide
  shelves : Vector Shelf 8
  events : SMap Event
  eventsMirror : SMap Event
  eventSeq : W32
  fleet : W64
  fleetErr : Bool
  fleetSync : FleetSync
  fabric : Nat
  fab : Fab
  closing : Option TileId
  links : Vector Link 18
  dies : Vector Die 2
  ports : Vector Port 2
  upload : SMap Byte
  hlock : Vector (Option PortId) 32
  ceilReq : W32
  seize : Seize
  slots : SMap Slot
  gangs : List Gang
  nextGang : Nat
  contQ : List Nat
  pushes : List PushReq
  tposts : List TilePost
  tfail : BitVec 128
  fw : Firmware
  powered : Bool
  deriving DecidableEq, Repr

/-! ### Outcomes -/

/-- Faults that stop the machine. -/
inductive Fault where
  /-- Raised by the step that answers a loss of power or a step after it: an unpowered module takes no step until the
  host restores its power by a package reset. Safe: the spec gives an unpowered module no step. -/
  | unpowered
  deriving DecidableEq, Repr

/-- Refusals. -/
inductive Refusal where
  /-- Raised by an arm of the dispatch whose instruction has no meaning yet. Safe. -/
  | notModelled (mnemonic : String)
  deriving DecidableEq, Repr

/-! ### Reset -/

/-- The steering domain and the supervisor bank at 0 (R170). -/
def SFaces.reset : SFaces where
  s := Vector.replicate 64 (Faced.zero 64)
  sup := Vector.replicate 64 (Faced.zero 64)
  mb := Vector.replicate 16 (Faced.zero 64)
  td := Vector.replicate 64 (Faced.zero 512)
  ctl := Vector.replicate 12 (Faced.zero 64)

/-- The vector domain at 0, with `p0` all ones (R162, R170). -/
def VFaces.reset : VFaces where
  v := Vector.replicate 32 (Faced.zero 4096)
  p := (Vector.replicate 8 (Faced.zero 256)).set 0 ⟨BitVec.allOnes 256, BitVec.allOnes 256, false⟩
  k := Vector.replicate 8 (Faced.zero 64)

/-- A free entry of the mapping table (R112). -/
def MapEntry.reset : MapEntry := ⟨0, .free, false, 0, 0, 0, [], 0⟩

/-- The stash at launch: every entry free (R112). -/
def Stash.reset : Stash := ⟨Vector.replicate 64 MapEntry.reset, [], [], [], []⟩

/-- A panel with VALID = 0 (R251, R252). -/
def Panel.reset : Panel := ⟨⟨0, 0, 0, 0, 0, false, false, 0⟩, [], []⟩

/-- A table index that has no record (R224). -/
def Table.reset : Table := ⟨0, 0, 0, 0, 0, false⟩

/-- A channel that runs nothing (R131). -/
def Channel.reset : Channel := ⟨[], none, none, 0, 0, 0, none⟩

/-- The vector unit with no block and empty queues (R212, R221). -/
def Vu.reset : Vu := ⟨none, 0, [], none, false, [], [], [], 0, 0, 0, false, []⟩

/-- The steering unit at the start of a launch. -/
def Su.reset : Su := ⟨0, false, 0, .no, false, [], [], [], [], none, 0, 0, 0, 0, 0, [], []⟩

/-- The probe counters at launch (R178). -/
def Counters.reset : Counters := ⟨0, 0, 0, 0, 0, 0, 0, 0, 0, 0, 0, 0⟩

/-- Semaphores at 0 (R73, R335). -/
def Sems.reset : Sems := ⟨Vector.replicate 256 0, Vector.replicate 256 0, Vector.replicate 256 0, [], []⟩

/-- No report pending. -/
def Reports.reset : Reports := ⟨false, [], [], [], [], none, [], false⟩

/-- Every flag set, as a launch leaves them (R385). -/
def Dirty.all : Dirty := ⟨true, true, true, true, List.range 16, List.range 8⟩

/-- Every flag clear, as a restore leaves them (R385). -/
def Dirty.clean : Dirty := ⟨false, false, false, false, [], []⟩

/-- A member before any launch (log 18). -/
def Member.reset : Member where
  su := Su.reset
  f := SFaces.reset
  vf := VFaces.reset
  code := ⟨0, 0, 0, 0, 0, 0, []⟩
  ctr := Counters.reset
  sems := Sems.reset
  q := ⟨[], [], [], []⟩
  mu := none
  ch := Vector.replicate 5 Channel.reset
  rel := []
  vu := Vu.reset
  stash := Stash.reset
  acc := []
  wb := Vector.replicate 8 Panel.reset
  tbl := Vector.replicate 8 Table.reset
  rows := []
  vbank := Vector.replicate 128 1
  dbank := Vector.replicate 128 1
  rep := Reports.reset
  mbq := []
  dirty := Dirty.all
  id := ⟨0, 0, 0, 0, none⟩

/-- A tile's island at `op10` with its rail at the curve (log 17). -/
def Island.reset : Island := ⟨0, none, 10, 620, 10, .idle, 0, none, false⟩

/-- No proof, no log. -/
def Trace.reset : Trace := ⟨[], [], [], 0⟩

/-- The debug block at reset (R394): DM and HREQ 0, REC the configuration's. -/
def Dbg.reset : Dbg := ⟨.running, false, false, false, [], Trace.reset, none, .ok, none, none⟩

/-- An idle tile (R336), on its fast rail, holding no grant (log 17). -/
def Tile.reset : Tile where
  st := .idle
  m := Member.reset
  tlb := []
  oc := []
  isl := Island.reset
  fast := true
  gated := false
  grant := none
  sunk := false
  reassigned := false
  drop := false
  smp := (0, 0, 0, 0)
  sampled := 0
  timed := 0
  dbg := Dbg.reset

/-- A link at reset: slot tables 0 (R289), every count 0 (R295), owned by ASID 0 (R284), at full width (log 12). -/
def Link.reset : Link := ⟨3, false, 0, [], [], none, 0, 0, 0, [], [], [], [], [], (0, 0), (0, 0), [], []⟩

/-- A tide table that no job has loaded (R352). -/
def Tide.reset : Tide := ⟨.idle, 0, [], 0, 0, 0, 0, 0, 0, 0, [], none, 0, 0, 0, 0⟩

/-- A die after package reset: receive counters 0 (R293), an empty arbiter, the low rail at its nominal voltage (R357). -/
def Die.reset : Die := ⟨Vector.replicate 64 0, [], 0, [], Tide.reset, 460, 460, 0, [], 0, [], 0⟩

/-- A host port at x16 (log 13). -/
def Port.reset : Port := ⟨16, 0, 0, 0, false, 0, 0, 0, 0, [], false, 0, none, []⟩

/-- The configuration image of the modelled package (log 4). -/
def cfgReset : CfgImage where
  rootBase := 0x10000
  tvec := 0
  handlerLen := 0
  dceil := 1024
  srseed := 0
  levelBase := 0x100000
  overflowBase := 0x1000000
  contextBase := 0x10000000
  contextDir := 0x2000000
  mirror := 0
  logSize := 0x100000
  homes := []
  budget := 640
  launchClass := 5
  timerPeriod := 0
  recDefault := false
  curves := []
  owners := []
  master := true

/-- Memory-side registrations at reset: none (R112; log 6, log 8, log 9, log 14); control blocks at their Reset column,
0, and cfg values 0 (R85, R87; log 4). -/
def MemSide.reset : MemSide := ⟨[], [], [], [], [], [], [], [], [], [], [], [], [], []⟩

/-- A fabric cycle in which nothing has happened yet. -/
def Fab.reset : Fab :=
  ⟨[], 0, Vector.replicate 2 0, Vector.replicate 2 0, Vector.replicate 2 (0, 0), 0, [], false, Vector.replicate 2 false, []⟩

/-- The machine right after reset: every tile idle, memory with nothing listed. -/
def State.reset : State where
  cfg := cfgReset
  sched := []
  free := 0
  cur := 0
  tiles := Vector.replicate 128 Tile.reset
  mem := []
  mirror := []
  ms := MemSide.reset
  shelves := Vector.replicate 8 ⟨false, false⟩
  events := []
  eventsMirror := []
  eventSeq := 0
  fleet := 0
  fleetErr := false
  fleetSync := ⟨0, 0, 0, 0⟩
  fabric := 0
  fab := Fab.reset
  closing := none
  links := Vector.replicate 18 Link.reset
  dies := Vector.replicate 2 Die.reset
  ports := Vector.replicate 2 Port.reset
  upload := []
  hlock := Vector.replicate 32 none
  ceilReq := 1024
  seize := ⟨.none, 0, none, 0, false, none, none⟩
  slots := []
  gangs := []
  nextGang := 1
  contQ := []
  pushes := []
  tposts := []
  tfail := 0
  fw := ⟨0, 0, 0, 0, 0, 0, true⟩
  powered := true

end Sys2Proof.Machine
end

