-- ==== Sys2Proof/WellFormed.lean ====
section
/-! DEFINITION. Well-formed instructions: the limits of the encodings that the types of Syntax do not already hold. -/

namespace Sys2Proof

/-- The 16-bit element types (R215). -/
def VTy.is16 : VTy → Bool
  | .bf16 | .f16 | .i16 | .u16 => true
  | .f32 | .i32 | .u32 => false

/-- The integer element types (R229). -/
def VTy.isInt : VTy → Bool
  | .i32 | .u32 | .i16 | .u16 => true
  | .f32 | .bf16 | .f16 => false

/-- N(T): the elements of a vector register (R228). -/
def VTy.count (t : VTy) : Nat := if t.is16 then 256 else 128

/-- "any for float; 000 for int" of the RM column of R229. -/
def rmOk (t : VTy) (rm : RMode) : Bool := !t.isInt || rm == .rne

/-- `vcvt`: the source type differs, and RM is 000 when both types are int (R229). -/
def vcvtOk (t src : VTy) (rm : RMode) : Bool := t != src && (!(t.isInt && src.isInt) || rm == .rne)

/-- An immediate that only an immediate source may hold (R246, R247). -/
def immOk (src : VSrc) (z : Bool) : Bool := src == .imm || z

/-- A well-formed instruction is one that its encoding can hold. The steps that no word encodes are well-formed. -/
def Instr.wf : Instr → Bool
  | .bfx _ _ lo wd1 | .bfxs _ _ lo wd1 | .bfi _ _ lo wd1 => lo.toNat + wd1.toNat ≤ 63
  | .semPostTile _ n _ => 192 ≤ n.toNat
  | .tideGo _ (some n) => 192 ≤ n.toNat
  | .cpMc _ _ _ _ mask => mask != 0#16
  | .crcRd _ _ rc _ fleet => !fleet || rc == 0#6
  | .cslot _ _ _ first count1 _ => first.toNat + count1.toNat + 1 ≤ 1024
  | .vrun h _ => h.scope == .tile
  | .vadd t rm _ _ _ _ _ | .vsub t rm _ _ _ _ _ | .vmul t rm _ _ _ _ _ => rmOk t rm
  | .vfma t _ _ _ _ _ _ _ => !t.isInt
  | .vand t _ _ _ _ | .vor t _ _ _ _ | .vxor t _ _ _ _ | .vshl t _ _ _ _ | .vshr t _ _ _ _
  | .vsra t _ _ _ _ => t.isInt
  | .vcvt t src rm _ _ _ _ => vcvtOk t src rm
  | .vpack t rm _ _ _ _ _ => t.is16 && rmOk t rm
  | .vredSum t rm _ _ _ => rm != .sr && rmOk t rm
  | .vbcast t _ _ imm => !t.is16 || imm.toNat < 65536
  | .vslideUp t _ _ _ n | .vslideDn t _ _ _ n => n.toNat < t.count
  | .vloop src _ count => immOk src (count == 0#16)
  | .kadd _ _ src _ imm => immOk src (imm == 0#24)
  | .kmov _ src => src != .imm
  | .plen _ src imm | .plenS _ src imm => immOk src (imm == 0#32)
  | _ => true

/-- An instruction that a word encodes (R54 to R66); the others are the steps of the opcode table that no word encodes. -/
def Instr.hasWord : Instr → Bool
  | .debugHaltRequest .. | .wordEncodingNothing .. | .engineAccessLands .. | .semPostTileLands .. | .queuedPush ..
  | .commandStart .. | .commandCompletion .. | .flipExchange .. | .slowWriteLands .. | .suLoadLands ..
  | .suStoreLands .. | .vectorQueueSend .. | .vuLoadLands .. | .vuStoreLands .. | .mailboxOutsideWrite ..
  | .stashFillComplete .. | .stashShadowing .. | .granuleShadowCopy .. | .remoteStashAccess .. | .rmwAtMemoryPoint ..
  | .lineMove .. | .walkerRecordLoad .. | .trapEntry .. | .cePacketLand .. | .windowGrant .. | .linkPacketStart ..
  | .packetReceive .. | .linkReplay .. | .linkTrain .. | .laneFailure .. | .fleetTimeExchange ..
  | .slotTableCommit .. | .dispatchRound .. | .taskQueuePush .. | .poolEnable .. | .memberLaunch .. | .restore ..
  | .memberComplete .. | .joinPushRetry .. | .tideDispatch .. | .tideCreditArrival .. | .preempt .. | .timer ..
  | .sample .. | .waitaWake .. | .waitaPeriodicReread .. | .barWaitSinkRelease .. | .clockResume ..
  | .rampVoltageStep .. | .rampSettleEnd .. | .replan .. | .arbiterGrant .. | .thermal .. | .sramScrubPass ..
  | .packageReset .. | .hostPortTrain .. | .hostApertureAccess .. | .hlockRead .. | .hlockWrite .. | .seize ..
  | .resume .. | .post .. | .mail .. | .intr .. | .submit .. | .attest .. | .linkown .. | .debugModeSet ..
  | .debugRecordSet .. | .debugRegisterWrite .. | .debugStop .. | .debugReverseStep .. | .debugForwardStep ..
  | .proofTake .. | .registerWrite .. | .rotationQuantum | .seizeAccessRecord | .seizeWrite | .seizeDone
  | .lossOfPower | .uncorrectedError .. => false
  | _ => true

end Sys2Proof
end

