-- ==== Sys2Proof/Decode.lean ====
section
/-! DEFINITION. Decoding of steering words, commands and vector words (R54 to R68), and the encoder after it. -/

namespace Sys2Proof

/-- What a decoder answers: an instruction with its length in bytes, bytes that end too soon, a word that encodes
nothing (R67), or a command with the reason of R68. -/
inductive Decoded where
  | ok (i : Instr) (len : Nat)
  | short
  | noWord
  | badCmd (reason : BitVec 4)
  deriving DecidableEq, Repr

/-! ### Codes -/

/-- Control register numbers (R58). -/
def Ctl.num : Ctl → BitVec 6
  | .gear => 0x00 | .opreq => 0x01 | .rank => 0x02 | .taskid => 0x03 | .jobid => 0x04
  | .asid => 0x20 | .tvec => 0x21 | .tcause => 0x22 | .tpc => 0x23 | .tval => 0x24 | .dceil => 0x25 | .srseed => 0x26

/-- The control register of a number (R58). -/
def Ctl.ofNum (n : BitVec 6) : Option Ctl :=
  match n.toNat with
  | 0x00 => some .gear | 0x01 => some .opreq | 0x02 => some .rank | 0x03 => some .taskid | 0x04 => some .jobid
  | 0x20 => some .asid | 0x21 => some .tvec | 0x22 => some .tcause | 0x23 => some .tpc | 0x24 => some .tval
  | 0x25 => some .dceil | 0x26 => some .srseed
  | _ => none

/-- Probe register numbers (R58). -/
def Prb.num : Prb → BitVec 6
  | .cycle => 0 | .retired => 1 | .phaseS => 2 | .phaseV => 3 | .flipwait => 4
  | .smpMem => 5 | .smpIssue => 6 | .smpBusy => 7 | .smpSeq => 8 | .nfCount => 9
  | .slackIn => 10 | .slackCredit => 11 | .slackSlot => 12 | .pseq => 13

/-- The probe register of a number (R58). -/
def Prb.ofNum (n : BitVec 6) : Option Prb :=
  match n.toNat with
  | 0 => some .cycle | 1 => some .retired | 2 => some .phaseS | 3 => some .phaseV | 4 => some .flipwait
  | 5 => some .smpMem | 6 => some .smpIssue | 7 => some .smpBusy | 8 => some .smpSeq | 9 => some .nfCount
  | 10 => some .slackIn | 11 => some .slackCredit | 12 => some .slackSlot | 13 => some .pseq
  | _ => none

/-- TYPE codes (R65). -/
def VTy.code : VTy → BitVec 3
  | .f32 => 0 | .bf16 => 1 | .f16 => 2 | .i32 => 3 | .u32 => 4 | .i16 => 5 | .u16 => 6

/-- The element type of a TYPE code (R65). -/
def VTy.ofCode (c : BitVec 3) : Option VTy :=
  match c.toNat with
  | 0 => some .f32 | 1 => some .bf16 | 2 => some .f16 | 3 => some .i32 | 4 => some .u32 | 5 => some .i16
  | 6 => some .u16 | _ => none

/-- RM codes (R65). -/
def RMode.code : RMode → BitVec 3
  | .rne => 0 | .rz => 1 | .ru => 2 | .rd => 3 | .sr => 4

/-- The rounding mode of an RM code (R65). -/
def RMode.ofCode (c : BitVec 3) : Option RMode :=
  match c.toNat with
  | 0 => some .rne | 1 => some .rz | 2 => some .ru | 3 => some .rd | 4 => some .sr | _ => none

/-- CONV codes (R65). -/
def Conv.code : Conv → BitVec 2
  | .b32 => 0 | .bf16 => 1 | .f16 => 2

/-- The conversion of a CONV code (R65). -/
def Conv.ofCode (c : BitVec 2) : Option Conv :=
  match c.toNat with
  | 0 => some .b32 | 1 => some .bf16 | 2 => some .f16 | _ => none

/-- SCOPE codes (R136). -/
def Scope.code : Scope → BitVec 3
  | .tile => 0 | .quadrant => 1 | .die => 2 | .package => 3 | .system => 4

/-- The scope of a SCOPE code (R136). -/
def Scope.ofCode (c : BitVec 3) : Option Scope :=
  match c.toNat with
  | 0 => some .tile | 1 => some .quadrant | 2 => some .die | 3 => some .package | 4 => some .system | _ => none

/-- LEVEL codes of `cancel.L` other than 0 (R343). -/
def Level.code : Level → BitVec 3
  | .launch => 1 | .graph => 2 | .step => 3 | .job => 4

/-- A link number 0 to 17 (R42); a larger number reads as link 0 and is refused by the decoder. -/
def linkOf (n : BitVec 5) : LinkId := if h : n.toNat < 18 then ⟨n.toNat, h⟩ else 0

/-- The die of one bit. -/
def dieOf (b : BitVec 1) : DieId := if b = 1#1 then 1 else 0

/-! ### One-word steering instructions (R55, R59, R60) -/

/-- SA `alu` minors (R60). -/
def decodeAlu (sd sa sb min : BitVec 6) : Option Instr :=
  match min.toNat with
  | 0x00 => some (.add sd sa sb) | 0x01 => some (.sub sd sa sb) | 0x02 => some (.mul sd sa sb)
  | 0x03 => some (.mulh sd sa sb) | 0x04 => some (.mulhu sd sa sb) | 0x05 => some (.div sd sa sb)
  | 0x06 => some (.divu sd sa sb) | 0x07 => some (.rem sd sa sb) | 0x08 => some (.remu sd sa sb)
  | 0x09 => some (.and sd sa sb) | 0x0A => some (.or sd sa sb) | 0x0B => some (.xor sd sa sb)
  | 0x0C => some (.andn sd sa sb) | 0x0D => some (.shl sd sa sb) | 0x0E => some (.shr sd sa sb)
  | 0x0F => some (.sra sd sa sb) | 0x10 => some (.min sd sa sb) | 0x11 => some (.max sd sa sb)
  | 0x12 => some (.minu sd sa sb) | 0x13 => some (.maxu sd sa sb)
  | _ => none

/-- Answers only when a reserved field is 0 (R67). -/
def need (b : Bool) (i : Instr) : Option Instr := if b then some i else none

/-- SA `cmp` minors (R60, R182). -/
def decodeCmp (sd sa sb min : BitVec 6) : Option Instr :=
  match min.toNat with
  | 0 => some (.seq sd sa sb) | 1 => some (.sne sd sa sb) | 2 => some (.slt sd sa sb) | 3 => some (.sltu sd sa sb)
  | 4 => some (.sel sd sa sb)
  | 5 => need (sb == 0) (.clz sd sa) | 6 => need (sb == 0) (.ctz sd sa) | 7 => need (sb == 0) (.popc sd sa)
  | _ => none

/-- SA `sys` minors (R60, R107, R177, R312, R313, R343, R366, R383). -/
def decodeSys (sd sa sb min : BitVec 6) : Option Instr :=
  match min.toNat with
  | 0x00 => need (sb == 0 && sa.extractLsb' 4 2 == 0) (.mov sd (sa.extractLsb' 0 4))
  | 0x01 => if sb == 0 then (Ctl.ofNum sa).map (Instr.ctlRd sd) else none
  | 0x02 => if sb == 0 then (Ctl.ofNum sd).map (fun c => Instr.ctlWr c sa) else none
  | 0x03 => if sb == 0 then (Prb.ofNum sa).map (Instr.probe sd) else none
  | 0x04 => need (sd == 0 && sa == 0 && sb == 0) .flip
  | 0x05 => need (sd == 0 && sa == 0 && sb == 0) .nop
  | 0x06 => need (sd == 0 && sa == 0 && sb == 0) .retire
  | 0x07 => if sa == 0 && sb == 0 then (if sd == 0 then some .eret else need (sd == 1) .eretAbort) else none
  | 0x08 => need (sd == 0 && sa == 0 && sb == 0) .pwrRel
  | 0x09 => need (sd == 0 && sb == 0) (.jr sa)
  | 0x0A => need (sb == 0) (.callr sd sa)
  | 0x0B =>
    match sd.toNat with
    | 0 => need (sa == 0 && sb == 0) .tlbiAll
    | 1 => need (sb == 0) (.tlbiAsid sa)
    | 2 => some (.tlbiVa sa sb)
    | _ => none
  | _ => none

/-- SA `sync` minors (R60, R276, R321, R324, R327). -/
def decodeSync (sd sa sb min : BitVec 6) : Option Instr :=
  match min.toNat with
  | 0 => need (sd == 0 && sa == 0 && sb == 0) .fenceT
  | 1 => need (sd == 0 && sa == 0 && sb == 0) .fenceQ
  | 2 => need (sd == 0 && sa == 0 && sb == 0) .fenceD
  | 3 => need (sd == 0 && sa == 0 && sb == 0) .fenceP
  | 4 => need (sd == 0 && sa == 0 && sb == 0) .fenceS
  | 5 => need (sd == 0) (.barInit sa sb)
  | 6 => need (sd == 0) (.barWait sa sb)
  | 7 => need (sd == 0) (.barWaitSink sa sb)
  | 8 => some (.waita sd sa sb)
  | _ => none

/-- One-word majors (R59), for a word whose length code is 00. -/
def decodeSu1 (w : W32) : Option Instr :=
  let sd := w.extractLsb' 18 6
  let sa := w.extractLsb' 12 6
  let sb := w.extractLsb' 6 6
  let min := w.extractLsb' 0 6
  let imm := w.extractLsb' 0 12
  match (w.extractLsb' 24 6).toNat with
  | 0x01 => decodeAlu sd sa sb min
  | 0x02 => decodeCmp sd sa sb min
  | 0x03 => decodeSys sd sa sb min
  | 0x04 => decodeSync sd sa sb min
  | 0x08 => some (.addi sd sa imm) | 0x09 => some (.andi sd sa imm)
  | 0x0A => some (.ori sd sa imm) | 0x0B => some (.xori sd sa imm)
  | 0x0C => need (sb == 0) (.shli sd sa min) | 0x0D => need (sb == 0) (.shri sd sa min)
  | 0x0E => need (sb == 0) (.srai sd sa min)
  | 0x0F => some (.slti sd sa imm) | 0x10 => some (.sltui sd sa imm)
  | 0x11 => need (sb.toNat + min.toNat ≤ 63) (.bfx sd sa sb min)
  | 0x12 => need (sb.toNat + min.toNat ≤ 63) (.bfxs sd sa sb min)
  | 0x13 => need (sb.toNat + min.toNat ≤ 63) (.bfi sd sa sb min)
  | 0x14 => need (sd == 0 && sa == 0) (.trap imm)
  | 0x15 =>
    if sd == 0 && sa == 0 then
      match imm.toNat with
      | 0 => some .gearLo
      | 1 => some .gearHi
      | _ => none
    else none
  | 0x16 => need (sd == 0 && sa == 0 && w.extractLsb' 3 9 == 0) (.pwrAcq (w.extractLsb' 0 3))
  | 0x17 => need (w.extractLsb' 6 5 == 0) (.pwrReq sd sa (w.getLsbD 11) min)
  | 0x18 => some (.ldB sd sa imm) | 0x19 => some (.ldBu sd sa imm) | 0x1A => some (.ldH sd sa imm)
  | 0x1B => some (.ldHu sd sa imm) | 0x1C => some (.ldW sd sa imm) | 0x1D => some (.ldWu sd sa imm)
  | 0x1E => some (.ldD sd sa imm) | 0x1F => some (.tdLoad sd sa imm)
  | 0x20 => some (.stB sd sa imm) | 0x21 => some (.stH sd sa imm) | 0x22 => some (.stW sd sa imm)
  | 0x23 => some (.stD sd sa imm)
  | 0x24 => need (w.extractLsb' 4 8 == 0) (.qdrop sd sa (w.extractLsb' 0 4))
  | 0x28 => some (.beq sd sa imm) | 0x29 => some (.bne sd sa imm) | 0x2A => some (.blt sd sa imm)
  | 0x2B => some (.bge sd sa imm) | 0x2C => some (.bltu sd sa imm) | 0x2D => some (.bgeu sd sa imm)
  | _ => none

/-! ### Two-word steering instructions (R61, R185, R311, R314, R343) -/

/-- Semaphore instructions, major 0x03 (R314). -/
def decodeSem (sd sa min : BitVec 6) (x : W32) : Option Instr :=
  let n := x.extractLsb' 24 8
  let v := x.extractLsb' 0 24
  match min.toNat with
  | 0 =>
    if sd == 0 then need (sa == 0) (.semPost n v)
    else need (sd == 1 && decide (192 ≤ n.toNat)) (.semPostTile sa n v)
  | 1 => need (sd == 0 && sa == 0) (.semSet n v)
  | 2 => need (sa == 0 && v == 0) (.semRd sd n)
  | _ => none

/-- Task instructions, major 0x04 (R343). -/
def decodeTask (sd sa min : BitVec 6) (x : W32) : Option Instr :=
  let pool := x.extractLsb' 0 8
  let poolOnly := x.extractLsb' 8 24 == 0
  match min.toNat with
  | 0 => need poolOnly (.spawn sd sa pool)
  | 1 => need (x == 0) (.publish sd sa)
  | 2 => need (sa == 0 && x == 0) (.yield sd)
  | 3 =>
    if sd == 0 then
      match x.toNat with
      | 0 => some (.cancelTask sa)
      | 1 => some (.cancel .launch sa)
      | 2 => some (.cancel .graph sa)
      | 3 => some (.cancel .step sa)
      | 4 => some (.cancel .job sa)
      | _ => none
    else none
  | 4 => need (sa == 0 && poolOnly) (.poolGet sd pool)
  | 5 => need (sd == 0 && poolOnly) (.poolPut sa pool)
  | _ => none

/-- Tide instructions, major 0x05 (R343, R352). Without PV the field N is unused and must be 0. -/
def decodeTide (sd sa min : BitVec 6) (x : W32) : Option Instr :=
  match min.toNat with
  | 0 => need (sd == 0 && x.extractLsb' 8 24 == 0) (.tideLoad sa (x.extractLsb' 0 8))
  | 1 =>
    let n := x.extractLsb' 24 8
    if sd == 0 && x.extractLsb' 0 23 == 0 then
      (if x.getLsbD 23 then need (decide (192 ≤ n.toNat)) (.tideGo sa (some n)) else need (n == 0) (.tideGo sa none))
    else none
  | 2 => need (sa == 0 && x.extractLsb' 1 31 == 0) (.tideRd sd (x.getLsbD 0))
  | _ => none

/-- Two-word majors (R61), for a first word whose length code is 01. -/
def decodeSl (w x : W32) : Option Instr :=
  let sd := w.extractLsb' 18 6
  let sa := w.extractLsb' 12 6
  let min := w.extractLsb' 6 6
  if w.extractLsb' 0 6 == 0 then
    match (w.extractLsb' 24 6).toNat with
    | 0x00 => need (min == 0 && sa == 0) (.li sd x)
    | 0x01 => need (min == 0) (.lhi sd sa x)
    | 0x02 => need (min == 0 && sa == 0) (.jal sd x)
    | 0x03 => decodeSem sd sa min x
    | 0x04 => decodeTask sd sa min x
    | 0x05 => decodeTide sd sa min x
    | _ => none
  else none

/-! ### Commands (R62, R63, R68) -/

/-- The fields of a command's four words (R62). -/
structure CmdFields where
  maj : BitVec 6
  min : BitVec 6
  opa : BitVec 6
  opb : BitVec 6
  opc : BitVec 6
  we : Bool
  wd : Bool
  wsem : BitVec 8
  wthr : BitVec 12
  resv1 : BitVec 10
  pe : Bool
  psem : BitVec 8
  pinc : BitVec 8
  selx : BitVec 6
  sely : BitVec 6
  resv2 : BitVec 3
  imm : W32
  deriving DecidableEq, Repr

/-- The fields of four words (R62). -/
def CmdFields.ofWords (w0 w1 w2 w3 : W32) : CmdFields where
  maj := w0.extractLsb' 24 6
  min := w0.extractLsb' 18 6
  opa := w0.extractLsb' 12 6
  opb := w0.extractLsb' 6 6
  opc := w0.extractLsb' 0 6
  we := w1.getLsbD 31
  wd := w1.getLsbD 30
  wsem := w1.extractLsb' 22 8
  wthr := w1.extractLsb' 10 12
  resv1 := w1.extractLsb' 0 10
  pe := w2.getLsbD 31
  psem := w2.extractLsb' 23 8
  pinc := w2.extractLsb' 15 8
  selx := w2.extractLsb' 9 6
  sely := w2.extractLsb' 3 6
  resv2 := w2.extractLsb' 0 3
  imm := w3

/-- A command read without its checks, beside the outcome of each check of R68: the reserved fields of its own row are
0 (reason 2), its index operands exist (reason 4), its encoded limits hold (reason 5). -/
structure CmdCand where
  resv : Bool
  idx : Bool
  lim : Bool
  instr : Instr
  deriving DecidableEq, Repr

/-- The wait field (R62). -/
def CmdFields.wait (f : CmdFields) : Option QWait :=
  if f.we then some { sem := f.wsem, thr := f.wthr, consume := f.wd } else none

/-- The post field (R62). -/
def CmdFields.post (f : CmdFields) : Option QPost := if f.pe then some { sem := f.psem, inc := f.pinc } else none

/-- The SCOPE of IMM[31:29], tile where it is unassigned (the command is then refused). -/
def CmdFields.scope (f : CmdFields) : Scope := (Scope.ofCode (f.imm.extractLsb' 29 3)).getD .tile

/-- SCOPE holds an assigned code (R136). -/
def CmdFields.scopeOk (f : CmdFields) : Bool := (Scope.ofCode (f.imm.extractLsb' 29 3)).isSome

/-- The common head of a command with a SCOPE field. -/
def CmdFields.head (f : CmdFields) : Head := { wait := f.wait, post := f.post, scope := f.scope }

/-- The RET operand of the atomics (R137): 0, or 16 + N. -/
def retOf (opa : BitVec 6) : Option MIx := if opa == 0 then none else some (opa.extractLsb' 0 4)

/-- RET is 0 or 16 to 31. -/
def retOk (opa : BitVec 6) : Bool := opa == 0 || opa.extractLsb' 4 2 == 1#2

/-- OPA names one of eight slots or panels (R250). -/
def eightOk (opa : BitVec 6) : Bool := opa.extractLsb' 3 3 == 0

/-- The matrix-unit commands (R250). -/
def candMu (f : CmdFields) : Option CmdCand :=
  let h := f.head
  let n := f.opa.extractLsb' 0 3
  let noSel := f.selx == 0 && f.sely == 0
  let lo29 := f.imm.extractLsb' 0 29
  let ok := eightOk f.opa
  if f.min == 0 then
    match f.maj.toNat with
    | 0x00 => some ⟨noSel && f.imm.extractLsb' 3 26 == 0, ok, f.scopeOk,
        .mma h n f.opb f.opc (f.imm.getLsbD 2) (f.imm.getLsbD 1) (f.imm.getLsbD 0)⟩
    | 0x01 => some ⟨noSel && f.imm.extractLsb' 3 26 == 0, ok, f.scopeOk,
        .mmaSp h n f.opb f.opc (f.imm.getLsbD 2) (f.imm.getLsbD 1) (f.imm.getLsbD 0)⟩
    | 0x02 => some ⟨noSel && f.opc == 0 && lo29 == 0, ok, f.scopeOk, .wload h n f.opb⟩
    | 0x03 => some ⟨noSel && f.opc == 0 && f.imm.extractLsb' 1 28 == 0, ok, f.scopeOk,
        .wloadT h n f.opb (f.imm.getLsbD 0)⟩
    | 0x04 => some ⟨noSel && f.opb == 0 && f.opc == 0 && lo29 == 0, ok, f.scopeOk, .aclr h n⟩
    | 0x05 => some ⟨noSel && f.opc == 0 && lo29 == 0, ok, f.scopeOk, .ainit h n f.opb⟩
    | 0x06 => some ⟨noSel && f.opc == 0 && f.imm.extractLsb' 2 27 == 0, ok, f.scopeOk,
        .adrain h n f.opb (f.imm.getLsbD 1) (f.imm.getLsbD 0)⟩
    | 0x07 => some ⟨noSel && f.opc == 0 && f.imm.extractLsb' 2 27 == 0, ok, f.scopeOk,
        .adrainMx h n f.opb (f.imm.getLsbD 1) (f.imm.getLsbD 0)⟩
    | 0x08 => some ⟨noSel && f.opa == 0 && f.opb == 0 && f.opc == 0 && lo29 == 0, true, f.scopeOk, .fenceOc h⟩
    | _ => none
  else none

/-- The A and SLOT fields of `cp` and `cp.acc.f32` (R137, R141). -/
def slotOf (f : CmdFields) : Option (BitVec 3) := if f.imm.getLsbD 3 then some (f.imm.extractLsb' 0 3) else none

/-- Without A the SLOT field names nothing and is reserved. -/
def slotResv (f : CmdFields) : Bool := f.imm.extractLsb' 4 25 == 0 && (f.imm.getLsbD 3 || f.imm.extractLsb' 0 3 == 0)

/-- `cp.acc.bf16` and `cp.acc.i32`: A is named by R141 (reason 5), every other bit is reserved. -/
def noSlotResv (f : CmdFields) : Bool := f.imm.extractLsb' 4 25 == 0 && f.imm.extractLsb' 0 3 == 0

/-- The atomics (R137, R151): MIN selects the operation. -/
def candAtom (f : CmdFields) : Option CmdCand :=
  let h := f.head
  let r := retOf f.opa
  let rok := retOk f.opa
  let base := f.opc == 0 && f.imm.extractLsb' 0 29 == 0
  match f.min.toNat with
  | 0 => some ⟨base && f.opb == 0, rok, f.scopeOk, .atomAdd h r f.selx f.sely⟩
  | 1 => some ⟨base, rok, f.scopeOk, .atomAddthr h r f.selx f.sely f.opb⟩
  | 2 => some ⟨base && f.opb == 0, rok, f.scopeOk, .atomSwap h r f.selx f.sely⟩
  | 3 => some ⟨base, rok, f.scopeOk, .atomCas h r f.selx f.sely f.opb⟩
  | 4 => some ⟨base && f.opb == 0, rok, f.scopeOk, .atomMin h r f.selx f.sely⟩
  | 5 => some ⟨base && f.opb == 0, rok, f.scopeOk, .atomMax h r f.selx f.sely⟩
  | 6 => some ⟨base && f.opb == 0 && f.sely == 0, rok, f.scopeOk, .atomArrive h r f.selx⟩
  | _ => none

/-- The copy-unit commands (R137). -/
def candCu (f : CmdFields) : Option CmdCand :=
  let h := f.head
  let noSel := f.selx == 0 && f.sely == 0
  let lo29 := f.imm.extractLsb' 0 29
  let strict := f.imm.getLsbD 0
  let strictResv := noSel && f.imm.extractLsb' 1 28 == 0
  match f.maj.toNat, f.min.toNat with
  | 0x10, 0 => some ⟨noSel && f.opc == 0 && slotResv f, true, f.scopeOk, .cp h f.opa f.opb (slotOf f)⟩
  | 0x11, 0 => some ⟨noSel && f.opc == 0 && slotResv f, true, f.scopeOk, .cpAccF32 h f.opa f.opb (slotOf f)⟩
  | 0x11, 1 => some ⟨noSel && f.opc == 0 && noSlotResv f, true, f.scopeOk && !f.imm.getLsbD 3, .cpAccBf16 h f.opa f.opb⟩
  | 0x11, 2 => some ⟨noSel && f.opc == 0 && noSlotResv f, true, f.scopeOk && !f.imm.getLsbD 3, .cpAccI32 h f.opa f.opb⟩
  | 0x12, 0 => some ⟨f.opc == 0 && f.sely == 0 && f.imm.extractLsb' 16 13 == 0, true,
      f.scopeOk && f.imm.extractLsb' 0 16 != 0, .cpMc h f.opa f.opb f.selx (f.imm.extractLsb' 0 16)⟩
  | 0x13, 0 => some ⟨strictResv, true, f.scopeOk, .gather h f.opa f.opb f.opc strict⟩
  | 0x14, 0 => some ⟨strictResv, true, f.scopeOk, .scatter h f.opa f.opb f.opc strict⟩
  | 0x15, 0 => some ⟨strictResv, true, f.scopeOk, .scatterAccF32 h f.opa f.opb f.opc strict⟩
  | 0x15, 1 => some ⟨strictResv, true, f.scopeOk, .scatterAccBf16 h f.opa f.opb f.opc strict⟩
  | 0x15, 2 => some ⟨strictResv, true, f.scopeOk, .scatterAccI32 h f.opa f.opb f.opc strict⟩
  | 0x16, 0 => some ⟨f.opb == 0 && f.opc == 0 && f.sely == 0 && lo29 == 0, true, f.scopeOk, .fill h f.opa f.selx⟩
  | 0x17, _ => candAtom f
  | 0x18, 0 => some ⟨f.opa == 0 && f.opb == 0 && f.opc == 0 && lo29 == 0, true, f.scopeOk, .note h f.selx f.sely⟩
  | 0x19, 0 => some ⟨f.opb == 0 && f.opc == 0 && f.sely == 0 && lo29 == 0, f.opa.extractLsb' 2 4 == 0, f.scopeOk,
      .chain h (f.opa.extractLsb' 0 2) f.selx⟩
  | 0x1A, 0 => some ⟨noSel && f.opb == 0 && f.opc == 0 && f.imm.extractLsb' 11 18 == 0, true, f.scopeOk,
      .stashMap h f.opa (f.imm.getLsbD 10) (f.imm.extractLsb' 0 10)⟩
  | 0x1B, 0 => some ⟨noSel && f.opb == 0 && f.opc == 0 && lo29 == 0, true, f.scopeOk, .stashUnmap h f.opa⟩
  | 0x1C, 0 => some ⟨noSel && f.opb == 0 && f.opc == 0 && lo29 == 0, true, f.scopeOk, .stashWb h f.opa⟩
  | 0x1D, 0 => some ⟨f.opc == 0 && f.sely == 0 && lo29 == 0, true, f.scopeOk, .offload h f.opa f.opb f.selx⟩
  | _, _ => none

/-- The LINK field of the collective-engine IMM word (R297). -/
def CmdFields.link (f : CmdFields) : BitVec 5 := f.imm.extractLsb' 22 5

/-- The CLASS, STREAM and SELX fields (R297). -/
def CmdFields.ceClass (f : CmdFields) : CeClass :=
  match (f.imm.extractLsb' 27 2).toNat with
  | 0 => .sch (f.imm.extractLsb' 0 8)
  | 1 => .off f.selx
  | _ => .blk

/-- STREAM is 0 unless CLASS is 0, and SELX is 0 unless CLASS is 1 (R297). -/
def CmdFields.ceClassResv (f : CmdFields) : Bool :=
  (f.imm.extractLsb' 27 2 == 0#2 || f.imm.extractLsb' 0 8 == 0) && (f.imm.extractLsb' 27 2 == 1#2 || f.selx == 0)

/-- CLASS is not 3 (R297). -/
def CmdFields.ceClassOk (f : CmdFields) : Bool := f.imm.extractLsb' 27 2 != 3#2

/-- The collective-engine commands (R297). -/
def candCe (f : CmdFields) : Option CmdCand :=
  let h := f.head
  let l := linkOf f.link
  let lok := decide (f.link.toNat < 18)
  let tag := f.imm.extractLsb' 14 8
  let rc := f.imm.extractLsb' 8 6
  let c := f.ceClass
  let cres := f.ceClassResv
  let lim := f.scopeOk && f.ceClassOk
  let first := f.imm.extractLsb' 11 10
  let count1 := f.imm.extractLsb' 1 10
  if f.min == 0 then
    match f.maj.toNat with
    | 0x20 => some ⟨cres && f.opb == 0 && f.opc == 0 && f.sely == 0 && rc == 0, lok, lim, .csend h c l tag f.opa⟩
    | 0x21 => some ⟨f.opb == 0 && f.opc == 0 && f.selx == 0 && f.sely == 0 && f.imm.extractLsb' 27 2 == 0
        && f.imm.extractLsb' 0 8 == 0, lok, f.scopeOk, .crecv h l tag f.opa rc⟩
    | 0x22 => some ⟨cres && f.sely == 0, lok, lim, .cstep h c l tag f.opa f.opb f.opc rc⟩
    | 0x23 => some ⟨cres && f.opb == 0 && f.opc == 0, lok, lim, .carm h c l tag f.opa rc f.sely⟩
    | 0x24 => some ⟨f.opb == 0 && f.opc == 0 && f.sely == 0 && f.imm.extractLsb' 23 6 == 0
        && f.imm.extractLsb' 0 22 == 0, true, f.scopeOk, .crcSet h f.opa f.selx (dieOf (f.imm.extractLsb' 22 1))⟩
    | 0x25 => some ⟨f.opc == 0 && f.selx == 0 && f.sely == 0 && f.imm.extractLsb' 23 6 == 0
        && f.imm.extractLsb' 1 21 == 0 && (!f.imm.getLsbD 0 || f.opb == 0), f.opa.extractLsb' 4 2 == 1#2, f.scopeOk,
        .crcRd h (f.opa.extractLsb' 0 4) f.opb (dieOf (f.imm.extractLsb' 22 1)) (f.imm.getLsbD 0)⟩
    | 0x26 => some ⟨f.opa == 0 && f.opb == 0 && f.opc == 0 && f.sely == 0 && f.imm.extractLsb' 27 2 == 0
        && f.imm.extractLsb' 0 1 == 0, lok, f.scopeOk && decide (first.toNat + count1.toNat + 1 ≤ 1024),
        .cslot h l f.selx first count1 (f.imm.getLsbD 21)⟩
    | 0x27 => some ⟨cres && f.sely == 0 && rc == 0, lok, lim, .cef h c l tag f.opa f.opb f.opc⟩
    | _ => none
  else none

/-- `vrun` (R211): IMM is the block's offset, so the command has no SCOPE. -/
def candVu (f : CmdFields) : Option CmdCand :=
  if f.maj == 0x30 && f.min == 0 then
    some ⟨f.opa == 0 && f.opb == 0 && f.opc == 0 && f.selx == 0 && f.sely == 0, true, true,
      .vrun { wait := f.wait, post := f.post, scope := .tile } f.imm⟩
  else none

/-- The command's candidate by its major (R63). -/
def candCmd (f : CmdFields) : Option CmdCand :=
  match (f.maj.extractLsb' 4 2).toNat with
  | 0 => candMu f
  | 1 => candCu f
  | 2 => candCe f
  | _ => candVu f

/-- A wait or post field is nonzero while its enable is 0 (R62, R68). -/
def CmdFields.headOk (f : CmdFields) : Bool :=
  (f.we || (!f.wd && f.wsem == 0 && f.wthr == 0)) && (f.pe || (f.psem == 0 && f.pinc == 0))

/-- The checks of R68 that need only the words. Where several fail at once the lowest reason is reported
(DEDUCED, log 20). -/
def decodeCmd (w0 w1 w2 w3 : W32) : Decoded :=
  let f := CmdFields.ofWords w0 w1 w2 w3
  match candCmd f with
  | none => .badCmd 1
  | some c =>
    if !(c.resv && f.resv1 == 0 && f.resv2 == 0) then .badCmd 2
    else if !f.headOk then .badCmd 3
    else if !c.idx then .badCmd 4
    else if !c.lim then .badCmd 5
    else .ok c.instr 16

/-- The first word of a steering instruction decides its length (R54); `ws` are the words that follow it. -/
def decodeSuWords (w : W32) (ws : List W32) : Decoded :=
  match (w.extractLsb' 30 2).toNat with
  | 0 => match decodeSu1 w with | some i => .ok i 4 | none => .noWord
  | 1 =>
    match ws with
    | x :: _ => match decodeSl w x with | some i => .ok i 8 | none => .noWord
    | _ => .short
  | 2 =>
    match ws with
    | x :: y :: z :: _ => decodeCmd w x y z
    | _ => .short
  | _ => .noWord

/-! ### Vector words (R64 to R66) -/

/-- The source field S of a VL word (R246): SRC, XB and MI. -/
def VSrc.ofFields (src : BitVec 2) (xb : BitVec 3) (mi : BitVec 4) : Option VSrc :=
  match src.toNat with
  | 0 => if mi == 0 then some (.k xb) else none
  | 1 => if xb == 0 then some (.m mi) else none
  | 2 => if xb == 0 && mi == 0 then some .imm else none
  | _ => none

/-- VA words (R229), before the limits of WellFormed. -/
def decodeVa (w : W64) (ty : VTy) (rm : RMode) (sat : Bool) : Option Instr :=
  let vd := w.extractLsb' 48 5
  let va := w.extractLsb' 43 5
  let vb := w.extractLsb' 38 5
  let vc := w.extractLsb' 33 5
  let pm := w.extractLsb' 30 3
  let pd := w.extractLsb' 48 3
  let plain := rm == .rne && !sat
  match (w.extractLsb' 53 8).toNat with
  | 0x01 => need (vc == 0) (.vadd ty rm sat vd va vb pm)
  | 0x02 => need (vc == 0) (.vsub ty rm sat vd va vb pm)
  | 0x03 => need (vc == 0) (.vmul ty rm sat vd va vb pm)
  | 0x04 => some (.vfma ty rm sat vd va vb vc pm)
  | 0x05 => need (plain && vc == 0) (.vmin ty vd va vb pm)
  | 0x06 => need (plain && vc == 0) (.vmax ty vd va vb pm)
  | 0x07 => need (plain && vc == 0) (.vand ty vd va vb pm)
  | 0x08 => need (plain && vc == 0) (.vor ty vd va vb pm)
  | 0x09 => need (plain && vc == 0) (.vxor ty vd va vb pm)
  | 0x0A => need (plain && vc == 0) (.vshl ty vd va vb pm)
  | 0x0B => need (plain && vc == 0) (.vshr ty vd va vb pm)
  | 0x0C => need (plain && vc == 0) (.vsra ty vd va vb pm)
  | 0x10 => need (plain && vc == 0 && w.extractLsb' 51 2 == 0) (.vcmpEq ty pd va vb pm)
  | 0x11 => need (plain && vc == 0 && w.extractLsb' 51 2 == 0) (.vcmpLt ty pd va vb pm)
  | 0x12 => need (plain && vc == 0 && w.extractLsb' 51 2 == 0) (.vcmpLe ty pd va vb pm)
  | 0x13 => need (plain && w.extractLsb' 36 2 == 0) (.vsel ty vd va vb (w.extractLsb' 33 3) pm)
  | 0x18 =>
    if w.extractLsb' 36 2 == 0 && vb == 0 then
      (VTy.ofCode (w.extractLsb' 33 3)).map (fun s => Instr.vcvt ty s rm sat vd va pm)
    else none
  | 0x19 => need (vc == 0) (.vpack ty rm sat vd va vb pm)
  | 0x1A => need (plain && vc == 0) (.vperm ty vd va vb pm)
  | 0x20 => need (vc == 0 && vb == 0 && !sat) (.vredSum ty rm vd va pm)
  | 0x21 => need (vc == 0 && vb == 0 && plain) (.vredMax ty vd va pm)
  | 0x22 => need (vc == 0 && vb == 0 && plain) (.vredMin ty vd va pm)
  | _ => none

/-- VI words (R237), before the limits of WellFormed. -/
def decodeVi (w : W64) (ty : VTy) : Option Instr :=
  let vd := w.extractLsb' 48 5
  let va := w.extractLsb' 43 5
  let pm := w.extractLsb' 40 3
  let imm := w.extractLsb' 0 32
  match (w.extractLsb' 53 8).toNat with
  | 1 => need (va == 0) (.vbcast ty vd pm imm)
  | 2 => some (.vslideUp ty vd va pm imm)
  | 3 => some (.vslideDn ty vd va pm imm)
  | _ => none

/-- VM words (R223, R239). -/
def decodeVm (w : W64) : Option Instr :=
  let vt := w.extractLsb' 48 5
  let kb := w.extractLsb' 45 3
  let pm := w.extractLsb' 42 3
  let off := w.extractLsb' 0 32
  if w.extractLsb' 32 8 == 0 then
    match (w.extractLsb' 53 8).toNat with
    | 1 => (Conv.ofCode (w.extractLsb' 40 2)).map (fun c => Instr.vld c vt kb pm off)
    | 2 => (Conv.ofCode (w.extractLsb' 40 2)).map (fun c => Instr.vst c vt kb pm off)
    | 3 => need (vt == 0 && kb == 0 && pm == 0 && w.extractLsb' 40 2 == 0 && off == 0) .vqmark
    | _ => none
  else none

/-- VL words (R246), before the limits of WellFormed. -/
def decodeVl (w : W64) (src : VSrc) : Option Instr :=
  let xd := w.extractLsb' 50 3
  let xa := w.extractLsb' 47 3
  let xb := w.extractLsb' 44 3
  let imm := w.extractLsb' 0 32
  let src0 := w.extractLsb' 42 2 == 0
  let bare := src0 && xb == 0
  match (w.extractLsb' 53 8).toNat with
  | 0x01 => need (xd == 0 && xa == 0) (.vloop src (w.extractLsb' 16 16) (w.extractLsb' 0 16))
  | 0x02 => need (bare && xd == 0 && xa == 0 && imm == 0) .vend
  | 0x03 => need (bare && xd == 0 && xa == 0 && imm == 0) .vflip
  | 0x04 => need (src == .imm && xa == 0) (.kli xd imm)
  | 0x05 => need (w.extractLsb' 30 2 == 0) (.kadd xd xa src (w.extractLsb' 24 6) (w.extractLsb' 0 24))
  | 0x06 => need bare (.kld xd xa imm)
  | 0x07 => need (xa == 0 && imm == 0) (.kmov xd src)
  | 0x08 => if xa == 0 then some (.plen xd src imm) else need (xa == 1) (.plenS xd src imm)
  | 0x09 => need (src0 && imm == 0) (.pand xd xa xb)
  | 0x0A => need (src0 && imm == 0) (.por xd xa xb)
  | 0x0B => need (bare && imm == 0) (.pnot xd xa)
  | 0x0C => need (bare && xd == 0 && xa == 0 && imm == 0) .vnop
  | _ => none

/-- VX words (R241, R243, R244). -/
def decodeVx (w : W64) : Option Instr :=
  let vd := w.extractLsb' 48 5
  let va := w.extractLsb' 43 5
  let vb := w.extractLsb' 38 5
  let vc := w.extractLsb' 33 5
  let kc := w.extractLsb' 33 3
  let pm := w.extractLsb' 30 3
  let tbl := w.extractLsb' 27 3
  if w.extractLsb' 0 24 == 0 && w.extractLsb' 24 3 == 0 then
    match (w.extractLsb' 53 8).toNat with
    | 1 =>
      if vb == 0 then (if vc == 0 then some (.vtip vd va tbl pm) else need (vc == 1) (.vtipX vd va tbl pm)) else none
    | 2 => need (w.extractLsb' 36 2 == 0 && tbl == 0) (.vupd vd va vb kc pm)
    | 3 =>
      if w.extractLsb' 36 2 == 0 && vb == 0 && !tbl.getLsbD 2 then
        (Conv.ofCode (tbl.extractLsb' 0 2)).map (fun c => Instr.vldx c vd va kc pm)
      else none
    | 4 =>
      if w.extractLsb' 36 2 == 0 && vb == 0 && !tbl.getLsbD 2 then
        (Conv.ofCode (tbl.extractLsb' 0 2)).map (fun c => Instr.vstx c vd va kc pm)
      else none
    | _ => none
  else none

/-- A vector word by its format (R64), before the limits of WellFormed. -/
def decodeVuCand (w : W64) : Option Instr :=
  match (w.extractLsb' 61 3).toNat with
  | 0 =>
    if w.extractLsb' 0 23 == 0 then
      match VTy.ofCode (w.extractLsb' 27 3), RMode.ofCode (w.extractLsb' 24 3) with
      | some ty, some rm => decodeVa w ty rm (w.getLsbD 23)
      | _, _ => none
    else none
  | 1 =>
    if w.extractLsb' 32 5 == 0 then
      match VTy.ofCode (w.extractLsb' 37 3) with
      | some ty => decodeVi w ty
      | none => none
    else none
  | 2 => decodeVm w
  | 3 =>
    if w.extractLsb' 32 6 == 0 then
      match VSrc.ofFields (w.extractLsb' 42 2) (w.extractLsb' 44 3) (w.extractLsb' 38 4) with
      | some src => decodeVl w src
      | none => none
    else none
  | 4 => decodeVx w
  | _ => none

/-- A vector word (R66, R67). -/
def decodeVu (w : W64) : Option Instr :=
  match decodeVuCand w with
  | some i => if i.wf then some i else none
  | none => none

/-! ### Bytes -/

/-- Little-endian bytes as a number (R7). -/
def natOfBytes : List Byte → Nat
  | [] => 0
  | b :: bs => b.toNat + 256 * natOfBytes bs

/-- The `n` low bytes of a number, little-endian (R7). -/
def bytesOfNat : Nat → Nat → List Byte
  | 0, _ => []
  | n + 1, v => BitVec.ofNat 8 v :: bytesOfNat n (v / 256)

/-- The 32-bit words that a list of bytes begins with; trailing bytes that fill no word are dropped. -/
def wordsOfBytes : List Byte → List W32
  | a :: b :: c :: d :: rest => (d ++ c ++ b ++ a : BitVec 32) :: wordsOfBytes rest
  | _ => []

/-- The steering decoder over bytes (R54, R67, R68). -/
def decodeSu (bs : List Byte) : Decoded :=
  match wordsOfBytes bs with
  | w :: ws => decodeSuWords w ws
  | [] => .short

/-- The vector decoder over bytes (R64, R67). -/
def decodeVec (bs : List Byte) : Decoded :=
  match wordsOfBytes bs with
  | lo :: hi :: _ => match decodeVu (hi ++ lo : BitVec 64) with | some i => .ok i 8 | none => .noWord
  | _ => .short

/-- The instruction of a decoder's answer. -/
def Decoded.instr? : Decoded → Option Instr
  | .ok i _ => some i
  | .short | .noWord | .badCmd _ => none

/-- The instruction that this decoder reads from the bits of an opcode-table row. Rows of 32 and 128 bits are steering
words; a row of 64 bits is a vector word where the vector decoder knows it, else a two-word steering instruction. -/
def decodeTableWord (nbits w : Nat) : Option Instr :=
  let bs := bytesOfNat 16 (w % 2 ^ nbits)
  if nbits = 64 then
    match decodeVu (BitVec.ofNat 64 w) with
    | some i => some i
    | none => (decodeSu bs).instr?
  else (decodeSu bs).instr?

/-! ### The encoder (R55, R61 to R66) -/

/-- An SA word (R55). -/
def mkSa (maj sd sa sb min : BitVec 6) : W32 := (0#2 ++ maj ++ sd ++ sa ++ sb ++ min : BitVec 32)

/-- An SI or SB word (R55). -/
def mkSi (maj sd sa : BitVec 6) (imm : BitVec 12) : W32 := (0#2 ++ maj ++ sd ++ sa ++ imm : BitVec 32)

/-- The first word of an SL instruction (R55). -/
def mkSl (maj sd sa min : BitVec 6) : W32 := (1#2 ++ maj ++ sd ++ sa ++ min ++ 0#6 : BitVec 32)

/-- A bit of a Boolean. -/
def bit1 (b : Bool) : BitVec 1 := BitVec.ofBool b

/-- The words of an instruction: steering words, a vector word, or none for a step that no word encodes. -/
inductive Encoding where
  | su (ws : List W32)
  | vu (w : W64)
  | none
  deriving DecidableEq, Repr

/-- Word 1 of a command (R62). -/
def encWait : Option QWait → W32
  | some q => (1#1 ++ bit1 q.consume ++ q.sem ++ q.thr ++ 0#10 : BitVec 32)
  | none => 0

/-- Word 2 of a command (R62). -/
def encPost (p : Option QPost) (x y : SReg) : W32 :=
  match p with
  | some q => (1#1 ++ q.sem ++ q.inc ++ x ++ y ++ 0#3 : BitVec 32)
  | none => (0#1 ++ 0#8 ++ 0#8 ++ x ++ y ++ 0#3 : BitVec 32)

/-- The four words of a command (R62). -/
def encSc (maj min opa opb opc : BitVec 6) (h : Head) (x y : SReg) (imm : W32) : Encoding :=
  .su [(2#2 ++ maj ++ min ++ opa ++ opb ++ opc : BitVec 32), encWait h.wait, encPost h.post x y, imm]

/-- An IMM word with SCOPE above 29 bits (R136). -/
def encImm (h : Head) (lo : BitVec 29) : W32 := (h.scope.code ++ lo : BitVec 32)

/-- A slot or panel in a 6-bit operand (R250). -/
def encEight (n : BitVec 3) : BitVec 6 := (0#3 ++ n : BitVec 6)

/-- A mailbox number in a 6-bit operand, with the two bits above it. -/
def encMbox (hi : BitVec 2) (m : MIx) : BitVec 6 := (hi ++ m : BitVec 6)

/-- A walker number in a 6-bit operand (R159). -/
def encWalker (w : BitVec 2) : BitVec 6 := (0#4 ++ w : BitVec 6)

/-- Three flags at the foot of IMM. -/
def encFlags (a b c : Bool) : BitVec 29 := (0#26 ++ bit1 a ++ bit1 b ++ bit1 c : BitVec 29)

/-- The tile mask of `cp.mc` (R137). -/
def encMask (mask : BitVec 16) : BitVec 29 := (0#13 ++ mask : BitVec 29)

/-- The Z and SOFF fields of `stash.map` (R157). -/
def encSoff (zero : Bool) (soff : BitVec 10) : BitVec 29 := (0#18 ++ bit1 zero ++ soff : BitVec 29)

/-- A matrix-unit command: no scalar register (R250). -/
def encMu (maj : BitVec 6) (opa : BitVec 3) (opb opc : BitVec 6) (h : Head) (lo : BitVec 29) : Encoding :=
  encSc maj 0 (encEight opa) opb opc h 0 0 (encImm h lo)

/-- The A and SLOT bits of `cp` and `cp.acc.f32` (R137). -/
def encSlot : Option (BitVec 3) → BitVec 29
  | some n => (0#25 ++ 1#1 ++ n : BitVec 29)
  | none => 0

/-- The RET operand (R137). -/
def encRet : Option MIx → BitVec 6
  | some m => encMbox 1 m
  | none => 0

/-- The LINK field. -/
def encLink (l : LinkId) : BitVec 5 := BitVec.ofNat 5 l.val

/-- The DIE bit. -/
def encDie (d : DieId) : BitVec 1 := if d = 1 then 1#1 else 0#1

/-- CLASS, LINK, TAG, RC and STREAM in their places (R297). -/
def encCeLow (cls : BitVec 2) (l : LinkId) (tag : BitVec 8) (rc : BitVec 6) (s : BitVec 8) : BitVec 29 :=
  (cls ++ encLink l ++ tag ++ rc ++ s : BitVec 29)

/-- CLASS, LINK, TAG, RC and STREAM of a collective-engine command (R297). -/
def encCeImm (c : CeClass) (l : LinkId) (tag : BitVec 8) (rc : BitVec 6) : BitVec 29 :=
  match c with
  | .sch s => encCeLow 0 l tag rc s
  | .off _ => encCeLow 1 l tag rc 0
  | .blk => encCeLow 2 l tag rc 0

/-- The DIE field of `crc.set` and `crc.rd`, and the F flag of the latter (R297). -/
def encDieLow (d : DieId) (fleet : Bool) : BitVec 29 := (0#6 ++ encDie d ++ 0#21 ++ bit1 fleet : BitVec 29)

/-- The fields of `cslot` (R297). -/
def encCslot (l : LinkId) (commit : Bool) (first count1 : BitVec 10) : BitVec 29 :=
  (0#2 ++ encLink l ++ bit1 commit ++ first ++ count1 ++ 0#1 : BitVec 29)

/-- SELX of a collective-engine send: the deadline register of class 1 (R297). -/
def CeClass.selx : CeClass → SReg
  | .off r => r
  | .sch _ | .blk => 0

/-- A VA word (R64). -/
def mkVa (opc : BitVec 8) (vd va vb vc : BitVec 5) (pm : PReg) (ty : VTy) (rm : RMode) (sat : Bool) : Encoding :=
  .vu (0#3 ++ opc ++ vd ++ va ++ vb ++ vc ++ pm ++ ty.code ++ rm.code ++ bit1 sat ++ 0#23 : BitVec 64)

/-- A VI word (R64). -/
def mkVi (opc : BitVec 8) (vd va : BitVec 5) (pm : PReg) (ty : VTy) (imm : W32) : Encoding :=
  .vu (1#3 ++ opc ++ vd ++ va ++ pm ++ ty.code ++ 0#5 ++ imm : BitVec 64)

/-- A VM word (R64). -/
def mkVm (opc : BitVec 8) (vt : BitVec 5) (kb pm : PReg) (conv : BitVec 2) (off : W32) : Encoding :=
  .vu (2#3 ++ opc ++ vt ++ kb ++ pm ++ conv ++ 0#8 ++ off : BitVec 64)

/-- A VL word (R64). -/
def mkVl (opc : BitVec 8) (xd xa xb : PReg) (src : BitVec 2) (mi : MIx) (imm : W32) : Encoding :=
  .vu (3#3 ++ opc ++ xd ++ xa ++ xb ++ src ++ mi ++ 0#6 ++ imm : BitVec 64)

/-- A VL word with a source S (R246). -/
def mkVls (opc : BitVec 8) (xd xa : PReg) (src : VSrc) (imm : W32) : Encoding :=
  match src with
  | .k r => mkVl opc xd xa r 0 0 imm
  | .m i => mkVl opc xd xa 0 1 i imm
  | .imm => mkVl opc xd xa 0 2 0 imm

/-- The immediate of `vloop` (R246). -/
def encLoop (dist count : BitVec 16) : W32 := (dist ++ count : BitVec 32)

/-- The immediate of `kadd` (R246). -/
def encKadd (n : BitVec 6) (imm : BitVec 24) : W32 := (0#2 ++ n ++ imm : BitVec 32)

/-- A VX word (R64). -/
def mkVx (opc : BitVec 8) (vd va vb vc : BitVec 5) (pm tbl : PReg) : Encoding :=
  .vu (4#3 ++ opc ++ vd ++ va ++ vb ++ vc ++ pm ++ tbl ++ 0#27 : BitVec 64)

/-- A predicate or block scalar in a 5-bit register field. -/
def wide (p : PReg) : BitVec 5 := (0#2 ++ p : BitVec 5)

/-- The element code of `vldx` and `vstx` in TBL (R241). -/
def encElem (c : Conv) : PReg := (0#1 ++ c.code : BitVec 3)

/-- The words of an instruction, from the encoding tables of R55 to R66 and of each instruction's reference. The
steps that no word encodes have none. -/
def encode : Instr → Encoding
  | .add d a b => .su [mkSa 0x01 d a b 0x00]
  | .sub d a b => .su [mkSa 0x01 d a b 0x01]
  | .mul d a b => .su [mkSa 0x01 d a b 0x02]
  | .mulh d a b => .su [mkSa 0x01 d a b 0x03]
  | .mulhu d a b => .su [mkSa 0x01 d a b 0x04]
  | .div d a b => .su [mkSa 0x01 d a b 0x05]
  | .divu d a b => .su [mkSa 0x01 d a b 0x06]
  | .rem d a b => .su [mkSa 0x01 d a b 0x07]
  | .remu d a b => .su [mkSa 0x01 d a b 0x08]
  | .and d a b => .su [mkSa 0x01 d a b 0x09]
  | .or d a b => .su [mkSa 0x01 d a b 0x0A]
  | .xor d a b => .su [mkSa 0x01 d a b 0x0B]
  | .andn d a b => .su [mkSa 0x01 d a b 0x0C]
  | .shl d a b => .su [mkSa 0x01 d a b 0x0D]
  | .shr d a b => .su [mkSa 0x01 d a b 0x0E]
  | .sra d a b => .su [mkSa 0x01 d a b 0x0F]
  | .min d a b => .su [mkSa 0x01 d a b 0x10]
  | .max d a b => .su [mkSa 0x01 d a b 0x11]
  | .minu d a b => .su [mkSa 0x01 d a b 0x12]
  | .maxu d a b => .su [mkSa 0x01 d a b 0x13]
  | .seq d a b => .su [mkSa 0x02 d a b 0x00]
  | .sne d a b => .su [mkSa 0x02 d a b 0x01]
  | .slt d a b => .su [mkSa 0x02 d a b 0x02]
  | .sltu d a b => .su [mkSa 0x02 d a b 0x03]
  | .sel d a b => .su [mkSa 0x02 d a b 0x04]
  | .clz d a => .su [mkSa 0x02 d a 0 0x05]
  | .ctz d a => .su [mkSa 0x02 d a 0 0x06]
  | .popc d a => .su [mkSa 0x02 d a 0 0x07]
  | .mov d m => .su [mkSa 0x03 d (encMbox 0 m) 0 0x00]
  | .ctlRd d c => .su [mkSa 0x03 d c.num 0 0x01]
  | .ctlWr c a => .su [mkSa 0x03 c.num a 0 0x02]
  | .probe d p => .su [mkSa 0x03 d p.num 0 0x03]
  | .flip => .su [mkSa 0x03 0 0 0 0x04]
  | .nop => .su [mkSa 0x03 0 0 0 0x05]
  | .retire => .su [mkSa 0x03 0 0 0 0x06]
  | .eret => .su [mkSa 0x03 0 0 0 0x07]
  | .eretAbort => .su [mkSa 0x03 1 0 0 0x07]
  | .pwrRel => .su [mkSa 0x03 0 0 0 0x08]
  | .jr a => .su [mkSa 0x03 0 a 0 0x09]
  | .callr d a => .su [mkSa 0x03 d a 0 0x0A]
  | .tlbiAll => .su [mkSa 0x03 0 0 0 0x0B]
  | .tlbiAsid a => .su [mkSa 0x03 1 a 0 0x0B]
  | .tlbiVa a b => .su [mkSa 0x03 2 a b 0x0B]
  | .fenceT => .su [mkSa 0x04 0 0 0 0x00]
  | .fenceQ => .su [mkSa 0x04 0 0 0 0x01]
  | .fenceD => .su [mkSa 0x04 0 0 0 0x02]
  | .fenceP => .su [mkSa 0x04 0 0 0 0x03]
  | .fenceS => .su [mkSa 0x04 0 0 0 0x04]
  | .barInit a b => .su [mkSa 0x04 0 a b 0x05]
  | .barWait a b => .su [mkSa 0x04 0 a b 0x06]
  | .barWaitSink a b => .su [mkSa 0x04 0 a b 0x07]
  | .waita d a b => .su [mkSa 0x04 d a b 0x08]
  | .addi d a imm => .su [mkSi 0x08 d a imm]
  | .andi d a imm => .su [mkSi 0x09 d a imm]
  | .ori d a imm => .su [mkSi 0x0A d a imm]
  | .xori d a imm => .su [mkSi 0x0B d a imm]
  | .slti d a imm => .su [mkSi 0x0F d a imm]
  | .sltui d a imm => .su [mkSi 0x10 d a imm]
  | .shli d a n => .su [mkSa 0x0C d a 0 n]
  | .shri d a n => .su [mkSa 0x0D d a 0 n]
  | .srai d a n => .su [mkSa 0x0E d a 0 n]
  | .bfx d a lo wd1 => .su [mkSa 0x11 d a lo wd1]
  | .bfxs d a lo wd1 => .su [mkSa 0x12 d a lo wd1]
  | .bfi d a lo wd1 => .su [mkSa 0x13 d a lo wd1]
  | .trap imm => .su [mkSi 0x14 0 0 imm]
  | .gearLo => .su [mkSi 0x15 0 0 0]
  | .gearHi => .su [mkSi 0x15 0 0 1]
  | .pwrAcq c => .su [mkSi 0x16 0 0 (0#9 ++ c : BitVec 12)]
  | .pwrReq d a pv n => .su [mkSi 0x17 d a (bit1 pv ++ 0#5 ++ n : BitVec 12)]
  | .ldB d a off => .su [mkSi 0x18 d a off]
  | .ldBu d a off => .su [mkSi 0x19 d a off]
  | .ldH d a off => .su [mkSi 0x1A d a off]
  | .ldHu d a off => .su [mkSi 0x1B d a off]
  | .ldW d a off => .su [mkSi 0x1C d a off]
  | .ldWu d a off => .su [mkSi 0x1D d a off]
  | .ldD d a off => .su [mkSi 0x1E d a off]
  | .tdLoad d a off => .su [mkSi 0x1F d a off]
  | .stB r a off => .su [mkSi 0x20 r a off]
  | .stH r a off => .su [mkSi 0x21 r a off]
  | .stW r a off => .su [mkSi 0x22 r a off]
  | .stD r a off => .su [mkSi 0x23 r a off]
  | .qdrop d a q => .su [mkSi 0x24 d a (0#8 ++ q : BitVec 12)]
  | .beq a b off => .su [mkSi 0x28 a b off]
  | .bne a b off => .su [mkSi 0x29 a b off]
  | .blt a b off => .su [mkSi 0x2A a b off]
  | .bge a b off => .su [mkSi 0x2B a b off]
  | .bltu a b off => .su [mkSi 0x2C a b off]
  | .bgeu a b off => .su [mkSi 0x2D a b off]
  | .li d imm => .su [mkSl 0x00 d 0 0, imm]
  | .lhi d a imm => .su [mkSl 0x01 d a 0, imm]
  | .jal d imm => .su [mkSl 0x02 d 0 0, imm]
  | .semPost n v => .su [mkSl 0x03 0 0 0, (n ++ v : BitVec 32)]
  | .semPostTile a n v => .su [mkSl 0x03 1 a 0, (n ++ v : BitVec 32)]
  | .semSet n v => .su [mkSl 0x03 0 0 1, (n ++ v : BitVec 32)]
  | .semRd d n => .su [mkSl 0x03 d 0 2, (n ++ 0#24 : BitVec 32)]
  | .spawn d a pool => .su [mkSl 0x04 d a 0, (0#24 ++ pool : BitVec 32)]
  | .publish c a => .su [mkSl 0x04 c a 1, 0]
  | .yield d => .su [mkSl 0x04 d 0 2, 0]
  | .cancelTask a => .su [mkSl 0x04 0 a 3, 0]
  | .cancel l a => .su [mkSl 0x04 0 a 3, (0#29 ++ l.code : BitVec 32)]
  | .poolGet d pool => .su [mkSl 0x04 d 0 4, (0#24 ++ pool : BitVec 32)]
  | .poolPut a pool => .su [mkSl 0x04 0 a 5, (0#24 ++ pool : BitVec 32)]
  | .tideLoad a n1 => .su [mkSl 0x05 0 a 0, (0#24 ++ n1 : BitVec 32)]
  | .tideGo a (some n) => .su [mkSl 0x05 0 a 1, (n ++ 1#1 ++ 0#23 : BitVec 32)]
  | .tideGo a none => .su [mkSl 0x05 0 a 1, 0]
  | .tideRd d sel => .su [mkSl 0x05 d 0 2, (0#31 ++ bit1 sel : BitVec 32)]
  | .mma h acc tda tdb sat ta z => encMu 0x00 acc tda tdb h (encFlags sat ta z)
  | .mmaSp h acc tda tdb sat ta z => encMu 0x01 acc tda tdb h (encFlags sat ta z)
  | .wload h wb tdb => encMu 0x02 wb tdb 0 h 0
  | .wloadT h wb tdb sparse => encMu 0x03 wb tdb 0 h (encFlags false false sparse)
  | .aclr h acc => encMu 0x04 acc 0 0 h 0
  | .ainit h acc tds => encMu 0x05 acc tds 0 h 0
  | .adrain h acc tdd tr clear => encMu 0x06 acc tdd 0 h (encFlags false tr clear)
  | .adrainMx h acc tdd tr clear => encMu 0x07 acc tdd 0 h (encFlags false tr clear)
  | .fenceOc h => encMu 0x08 0 0 0 h 0
  | .cp h d s slot => encSc 0x10 0 d s 0 h 0 0 (encImm h (encSlot slot))
  | .cpAccF32 h d s slot => encSc 0x11 0 d s 0 h 0 0 (encImm h (encSlot slot))
  | .cpAccBf16 h d s => encSc 0x11 1 d s 0 h 0 0 (encImm h 0)
  | .cpAccI32 h d s => encSc 0x11 2 d s 0 h 0 0 (encImm h 0)
  | .cpMc h d s x mask => encSc 0x12 0 d s 0 h x 0 (encImm h (encMask mask))
  | .gather h d t l strict => encSc 0x13 0 d t l h 0 0 (encImm h (encFlags false false strict))
  | .scatter h t s l strict => encSc 0x14 0 t s l h 0 0 (encImm h (encFlags false false strict))
  | .scatterAccF32 h t s l strict => encSc 0x15 0 t s l h 0 0 (encImm h (encFlags false false strict))
  | .scatterAccBf16 h t s l strict => encSc 0x15 1 t s l h 0 0 (encImm h (encFlags false false strict))
  | .scatterAccI32 h t s l strict => encSc 0x15 2 t s l h 0 0 (encImm h (encFlags false false strict))
  | .fill h d x => encSc 0x16 0 d 0 0 h x 0 (encImm h 0)
  | .atomAdd h r x y => encSc 0x17 0 (encRet r) 0 0 h x y (encImm h 0)
  | .atomAddthr h r x y z => encSc 0x17 1 (encRet r) z 0 h x y (encImm h 0)
  | .atomSwap h r x y => encSc 0x17 2 (encRet r) 0 0 h x y (encImm h 0)
  | .atomCas h r x y z => encSc 0x17 3 (encRet r) z 0 h x y (encImm h 0)
  | .atomMin h r x y => encSc 0x17 4 (encRet r) 0 0 h x y (encImm h 0)
  | .atomMax h r x y => encSc 0x17 5 (encRet r) 0 0 h x y (encImm h 0)
  | .atomArrive h r x => encSc 0x17 6 (encRet r) 0 0 h x 0 (encImm h 0)
  | .note h x y => encSc 0x18 0 0 0 0 h x y (encImm h 0)
  | .chain h w x => encSc 0x19 0 (encWalker w) 0 0 h x 0 (encImm h 0)
  | .stashMap h td zero soff => encSc 0x1A 0 td 0 0 h 0 0 (encImm h (encSoff zero soff))
  | .stashUnmap h td => encSc 0x1B 0 td 0 0 h 0 0 (encImm h 0)
  | .stashWb h td => encSc 0x1C 0 td 0 0 h 0 0 (encImm h 0)
  | .offload h d s x => encSc 0x1D 0 d s 0 h x 0 (encImm h 0)
  | .csend h c l tag s => encSc 0x20 0 s 0 0 h c.selx 0 (encImm h (encCeImm c l tag 0))
  | .crecv h l tag d rc => encSc 0x21 0 d 0 0 h 0 0 (encImm h (encCeLow 0 l tag rc 0))
  | .cstep h c l tag d k s rc => encSc 0x22 0 d k s h c.selx 0 (encImm h (encCeImm c l tag rc))
  | .carm h c l tag s rc y => encSc 0x23 0 s 0 0 h c.selx y (encImm h (encCeImm c l tag rc))
  | .crcSet h rc x die => encSc 0x24 0 rc 0 0 h x 0 (encImm h (encDieLow die false))
  | .crcRd h m rc die fleet =>
    encSc 0x25 0 (encMbox 1 m) rc 0 h 0 0 (encImm h (encDieLow die fleet))
  | .cslot h l x first count1 commit =>
    encSc 0x26 0 0 0 0 h x 0 (encImm h (encCslot l commit first count1))
  | .cef h c l tag s r w => encSc 0x27 0 s r w h c.selx 0 (encImm h (encCeImm c l tag 0))
  | .vrun h imm => encSc 0x30 0 0 0 0 h 0 0 imm
  | .vadd ty rm sat d a b pm => mkVa 1 d a b 0 pm ty rm sat
  | .vsub ty rm sat d a b pm => mkVa 2 d a b 0 pm ty rm sat
  | .vmul ty rm sat d a b pm => mkVa 3 d a b 0 pm ty rm sat
  | .vfma ty rm sat d a b c pm => mkVa 4 d a b c pm ty rm sat
  | .vmin ty d a b pm => mkVa 5 d a b 0 pm ty .rne false
  | .vmax ty d a b pm => mkVa 6 d a b 0 pm ty .rne false
  | .vand ty d a b pm => mkVa 7 d a b 0 pm ty .rne false
  | .vor ty d a b pm => mkVa 8 d a b 0 pm ty .rne false
  | .vxor ty d a b pm => mkVa 9 d a b 0 pm ty .rne false
  | .vshl ty d a b pm => mkVa 10 d a b 0 pm ty .rne false
  | .vshr ty d a b pm => mkVa 11 d a b 0 pm ty .rne false
  | .vsra ty d a b pm => mkVa 12 d a b 0 pm ty .rne false
  | .vcmpEq ty d a b pm => mkVa 0x10 (wide d) a b 0 pm ty .rne false
  | .vcmpLt ty d a b pm => mkVa 0x11 (wide d) a b 0 pm ty .rne false
  | .vcmpLe ty d a b pm => mkVa 0x12 (wide d) a b 0 pm ty .rne false
  | .vsel ty d a b pc pm => mkVa 0x13 d a b (wide pc) pm ty .rne false
  | .vcvt ty src rm sat d a pm => mkVa 0x18 d a 0 (wide src.code) pm ty rm sat
  | .vpack ty rm sat d a b pm => mkVa 0x19 d a b 0 pm ty rm sat
  | .vperm ty d a b pm => mkVa 0x1A d a b 0 pm ty .rne false
  | .vredSum ty rm d a pm => mkVa 0x20 d a 0 0 pm ty rm false
  | .vredMax ty d a pm => mkVa 0x21 d a 0 0 pm ty .rne false
  | .vredMin ty d a pm => mkVa 0x22 d a 0 0 pm ty .rne false
  | .vbcast ty d pm imm => mkVi 1 d 0 pm ty imm
  | .vslideUp ty d a pm n => mkVi 2 d a pm ty n
  | .vslideDn ty d a pm n => mkVi 3 d a pm ty n
  | .vld conv v kb pm off => mkVm 1 v kb pm conv.code off
  | .vst conv v kb pm off => mkVm 2 v kb pm conv.code off
  | .vqmark => mkVm 3 0 0 0 0 0
  | .vloop src dist count => mkVls 0x01 0 0 src (encLoop dist count)
  | .vend => mkVl 0x02 0 0 0 0 0 0
  | .vflip => mkVl 0x03 0 0 0 0 0 0
  | .kli d imm => mkVls 0x04 d 0 .imm imm
  | .kadd d a src n imm => mkVls 0x05 d a src (encKadd n imm)
  | .kld d a off => mkVl 0x06 d a 0 0 0 off
  | .kmov d src => mkVls 0x07 d 0 src 0
  | .plen d src imm => mkVls 0x08 d 0 src imm
  | .plenS d src imm => mkVls 0x08 d 1 src imm
  | .pand d a b => mkVl 0x09 d a b 0 0 0
  | .por d a b => mkVl 0x0A d a b 0 0 0
  | .pnot d a => mkVl 0x0B d a 0 0 0 0
  | .vnop => mkVl 0x0C 0 0 0 0 0 0
  | .vtip d a tbl pm => mkVx 1 d a 0 0 pm tbl
  | .vtipX d a tbl pm => mkVx 1 d a 0 1 pm tbl
  | .vupd d a b kc pm => mkVx 2 d a b (wide kc) pm 0
  | .vldx conv v a kc pm => mkVx 3 v a 0 (wide kc) pm (encElem conv)
  | .vstx conv v a kc pm => mkVx 4 v a 0 (wide kc) pm (encElem conv)
  | _ => .none

/-- The bytes of an encoding, little-endian, the first word at the lowest address (R7). -/
def Encoding.bytes : Encoding → List Byte
  | .su ws => ws.flatMap (fun w => bytesOfNat 4 w.toNat)
  | .vu w => bytesOfNat 8 w.toNat
  | .none => []

/-- What the decoders read from the bytes of an encoding. -/
def Encoding.decoded (e : Encoding) : Option Instr :=
  match e with
  | .su _ => (decodeSu e.bytes).instr?
  | .vu _ => (decodeVec e.bytes).instr?
  | .none => Option.none

end Sys2Proof
end

