-- ==== Sys2Proof/Machine/Base.lean ====
section
/-! DEFINITION. The plain operations under everything else: sparse maps, bytes in a map, the tiles of the package, faced
registers by name. -/

namespace Sys2Proof.Machine

/-! ### Sparse maps -/

/-- A register file changed entry by entry. -/
def vmap {α β : Type} {n : Nat} (v : Vector α n) (f : α → β) : Vector β n := Vector.ofFn (fun i => f v[i])

/-- The value at a key; `d` where the key is not listed. -/
def SMap.get {α : Type} (d : α) : SMap α → Nat → α
  | [], _ => d
  | (k, v) :: m, a => if k = a then v else SMap.get d m a

/-- The entries of a map without a key. -/
def SMap.erase {α : Type} : SMap α → Nat → SMap α
  | [], _ => []
  | (k, v) :: m, a => if k = a then m else (k, v) :: SMap.erase m a

/-- A map with a key listed at its place. -/
def SMap.insert {α : Type} : SMap α → Nat → α → SMap α
  | [], a, x => [(a, x)]
  | (k, v) :: m, a, x =>
    if a < k then (a, x) :: (k, v) :: m
    else if a = k then (a, x) :: m
    else (k, v) :: SMap.insert m a x

/-- Writes a key in canonical form: the default is not listed. -/
def SMap.set {α : Type} [DecidableEq α] (d : α) (m : SMap α) (a : Nat) (x : α) : SMap α :=
  if x = d then SMap.erase m a else SMap.insert m a x

/-- Canonical form above a bound: keys strictly rising, none below `lo`, no entry equal to the default. -/
def SMap.wfFrom {α : Type} [DecidableEq α] (d : α) : Nat → SMap α → Bool
  | _, [] => true
  | lo, (k, v) :: m => decide (lo ≤ k) && decide (v ≠ d) && SMap.wfFrom d (k + 1) m

/-- Canonical form. -/
def SMap.wf {α : Type} [DecidableEq α] (d : α) (m : SMap α) : Bool := SMap.wfFrom d 0 m

/-- What a byte of memory that is not listed reads as (log 5, log 7). -/
def blankByte : Byte := 0#8

/-- One byte of a byte map. -/
def byteAt (m : SMap Byte) (a : Nat) : Byte := SMap.get blankByte m a

/-- `n` bytes from an address, little-endian order (R7). -/
def bytesAt (m : SMap Byte) (a : Nat) : Nat → List Byte
  | 0 => []
  | n + 1 => byteAt m a :: bytesAt m (a + 1) n

/-- Writes bytes from an address. -/
def putBytes (m : SMap Byte) (a : Nat) : List Byte → SMap Byte
  | [] => m
  | b :: bs => putBytes (SMap.set blankByte m a b) (a + 1) bs

/-- The memory's canonical form: addresses strictly rising, no byte listed that reads as an unlisted one. -/
abbrev Memory.wf (m : SMap Byte) : Prop := SMap.wf blankByte m = true

/-- A number of `n` bytes at an address, little-endian (R7). -/
def numAt (m : SMap Byte) (a n : Nat) : Nat := natOfBytes (bytesAt m a n)

/-! ### Tiles -/

/-- A tile of the package. -/
def State.tile (s : State) (t : TileId) : Tile := s.tiles[t.val]

/-- The package with one tile replaced. -/
def State.setTile (s : State) (t : TileId) (x : Tile) : State := { s with tiles := s.tiles.set t.val x }

/-- The package with one tile changed. -/
def State.modTile (s : State) (t : TileId) (f : Tile → Tile) : State := s.setTile t (f (s.tile t))

/-- The member on a tile. -/
def State.mem_ (s : State) (t : TileId) : Member := (s.tile t).m

/-- The package with the member of one tile changed. -/
def State.modM (s : State) (t : TileId) (f : Member → Member) : State :=
  s.modTile t (fun x => { x with m := f x.m })

/-- Appends a record to the replay log of a recording tile (R397). -/
def State.logReplay (s : State) (t : TileId) (r : LogRec) : State :=
  s.modTile t (fun x =>
    if x.dbg.recording then { x with dbg := { x.dbg with trace := { x.dbg.trace with log := x.dbg.trace.log ++ [(x.m.ctr.cycle, r)] } } } else x)

/-- A die (R37: bit 6 of the tile id). -/
def dieOfTile (t : TileId) : DieId := if t.val < 64 then 0 else 1

/-- The die beside a link (R42). -/
def dieOfLink (l : LinkId) : DieId := if l.val < 9 then 0 else 1

/-- The package with one die changed. -/
def State.modDie (s : State) (d : DieId) (f : Die → Die) : State :=
  { s with dies := s.dies.set d.val (f s.dies[d.val]) }

/-- The package with one link changed. -/
def State.modLink (s : State) (l : LinkId) (f : Link → Link) : State :=
  { s with links := s.links.set l.val (f s.links[l.val]) }

/-- The package with one port changed. -/
def State.modPort (s : State) (p : PortId) (f : Port → Port) : State :=
  { s with ports := s.ports.set p.val (f s.ports[p.val]) }

/-- The package image is written or to be restored: the shared units stand still (R392, R393). -/
def State.frozen (s : State) : Bool := s.seize.st == .writing || s.seize.st == .holding || s.seize.st == .done

/-- A fresh number for a free value. -/
def State.tickFree (s : State) : Nat × State := (s.free, { s with free := s.free + 1 })

/-- A free bit (log 3). -/
def State.freeBit (s : State) : Bool × State := (Config.freeBit s.free, { s with free := s.free + 1 })

/-! ### Register numbers -/

/-- The place of a scalar or descriptor register. -/
def r6 (r : BitVec 6) : Fin 64 := ⟨r.toNat, by have := r.isLt; omega⟩
/-- The place of a vector register. -/
def r5 (r : BitVec 5) : Fin 32 := ⟨r.toNat, by have := r.isLt; omega⟩
/-- The place of a mailbox. -/
def r4 (r : BitVec 4) : Fin 16 := ⟨r.toNat, by have := r.isLt; omega⟩
/-- The place of a predicate, block scalar, slot, panel or table. -/
def r3 (r : BitVec 3) : Fin 8 := ⟨r.toNat, by have := r.isLt; omega⟩
/-- The place of a semaphore. -/
def r8 (r : BitVec 8) : Fin 256 := ⟨r.toNat, by have := r.isLt; omega⟩

/-! ### Faced registers -/

/-- A write to a hidden face (R164): the bits of `mask` take those of `v`; where W was clear the other bits are those of
the visible face. -/
def Faced.write {n : Nat} (f : Faced n) (mask v : BitVec n) : Faced n :=
  { f with hid := ((if f.w then f.hid else f.vis) &&& ~~~mask) ||| (v &&& mask), w := true }

/-- A write of the whole register (R164). -/
def Faced.put {n : Nat} (f : Faced n) (v : BitVec n) : Faced n := { f with hid := v, w := true }

/-- The exchange of a flip (R168). -/
def Faced.flip {n : Nat} (f : Faced n) : Faced n := if f.w then ⟨f.hid, f.vis, false⟩ else f

/-- Both faces at one value with W clear (R170). -/
def Faced.both {n : Nat} (v : BitVec n) : Faced n := ⟨v, v, false⟩

/-- The registers of the supervisor bank among the control registers (R162). -/
def ctlSup : Ctl → Bool
  | .tcause | .tpc | .tval => true
  | .gear | .opreq | .rank | .taskid | .jobid | .asid | .tvec | .dceil | .srseed => false

/-- The phase domains of the faced registers (R45). -/
inductive Bank where
  | steering | supervisor | vector
  deriving DecidableEq, Repr

/-- The domain of a register (R162). -/
def bankOf : DbgReg → Bank
  | .s _ | .mb _ | .td _ => .steering
  | .sup _ => .supervisor
  | .ctl c => if ctlSup c then .supervisor else .steering
  | .v _ | .p _ | .k _ => .vector

/-- The width of a register (R162). -/
def widthOf : DbgReg → Nat
  | .s _ | .sup _ | .mb _ | .ctl _ | .k _ => 64
  | .td _ => 512
  | .v _ => 4096
  | .p _ => 256

/-- `s0` and `p0`: writes are discarded (R162). -/
def isConst : DbgReg → Bool
  | .s i | .sup i => i == 0
  | .p i => i == 0
  | .mb _ | .td _ | .ctl _ | .v _ | .k _ => false

/-- Applies a change of faces to one register of the steering or supervisor banks. -/
def SFaces.mod (f : SFaces) (r : DbgReg) (g : (n : Nat) → Faced n → Faced n) : SFaces :=
  match r with
  | .s i => { f with s := f.s.set (r6 i).val (g 64 f.s[(r6 i).val]) }
  | .sup i => { f with sup := f.sup.set (r6 i).val (g 64 f.sup[(r6 i).val]) }
  | .mb i => { f with mb := f.mb.set (r4 i).val (g 64 f.mb[(r4 i).val]) }
  | .td i => { f with td := f.td.set (r6 i).val (g 512 f.td[(r6 i).val]) }
  | .ctl c => { f with ctl := f.ctl.set c.index.val (g 64 f.ctl[c.index.val]) }
  | .v _ | .p _ | .k _ => f

/-- Applies a change of faces to one register of the vector domain. -/
def VFaces.mod (f : VFaces) (r : DbgReg) (g : (n : Nat) → Faced n → Faced n) : VFaces :=
  match r with
  | .v i => { f with v := f.v.set (r5 i).val (g 4096 f.v[(r5 i).val]) }
  | .p i => { f with p := f.p.set (r3 i).val (g 256 f.p[(r3 i).val]) }
  | .k i => { f with k := f.k.set (r3 i).val (g 64 f.k[(r3 i).val]) }
  | .s _ | .sup _ | .mb _ | .td _ | .ctl _ => f

/-- The section of a register's bank is dirty (R385). -/
def Dirty.reg (x : Dirty) (b : Bank) : Dirty :=
  match b with
  | .steering | .supervisor => { x with steer := true }
  | .vector => { x with vector := true }

/-- A number joins a list that has it at most once. -/
def addOnce (l : List Nat) (k : Nat) : List Nat := if l.contains k then l else l ++ [k]

/-- Writes an accumulator element by its key (R141); its 64 KiB granule is dirty (R385). -/
def Member.accPut (m : Member) (k : Nat) (v : W32) : Member :=
  { m with acc := SMap.set 0 m.acc k v, dirty := { m.dirty with acc := addOnce m.dirty.acc (k / 16384) } }

/-- Applies a change of faces to one register of a member; `s0` and `p0` stay as they are (R162). -/
def Member.modReg (m : Member) (r : DbgReg) (g : (n : Nat) → Faced n → Faced n) : Member :=
  if isConst r then m else { m with f := m.f.mod r g, vf := m.vf.mod r g, dirty := m.dirty.reg (bankOf r) }

/-- Writes the bits of `mask` to a register's hidden face (R164). -/
def Member.writeReg (m : Member) (r : DbgReg) (mask v : W4096) : Member :=
  m.modReg r (fun n f => Faced.write f (mask.setWidth n) (v.setWidth n))

/-- The visible face of a register, as 4,096 bits. -/
def Member.visReg (m : Member) : DbgReg → W4096
  | .s i => if i == 0 then 0 else (m.f.s[(r6 i).val]).vis.setWidth 4096
  | .sup i => if i == 0 then 0 else (m.f.sup[(r6 i).val]).vis.setWidth 4096
  | .mb i => (m.f.mb[(r4 i).val]).vis.setWidth 4096
  | .td i => (m.f.td[(r6 i).val]).vis.setWidth 4096
  | .ctl c => (m.f.ctl[c.index.val]).vis.setWidth 4096
  | .v i => (m.vf.v[(r5 i).val]).vis
  | .p i => if i == 0 then (BitVec.allOnes 256).setWidth 4096 else (m.vf.p[(r3 i).val]).vis.setWidth 4096
  | .k i => (m.vf.k[(r3 i).val]).vis.setWidth 4096

/-- vis of a control register. -/
def Member.ctl (m : Member) (c : Ctl) : W64 := (m.f.ctl[c.index.val]).vis

/-- vis of a scalar register name: the supervisor bank's inside a handler (R174); `s0` reads 0 (R162). -/
def Member.sreg (m : Member) (r : SReg) : W64 :=
  if r == 0 then 0
  else if m.su.inHandler then (m.f.sup[(r6 r).val]).vis
  else (m.f.s[(r6 r).val]).vis

/-- The register that a scalar name writes (R174). -/
def Member.sref (m : Member) (r : SReg) : DbgReg := if m.su.inHandler then .sup r else .s r

/-- vis of a mailbox. -/
def Member.mbox (m : Member) (i : MIx) : W64 := (m.f.mb[(r4 i).val]).vis

/-- vis of a descriptor entry. -/
def Member.tdesc (m : Member) (i : TdIx) : W512 := (m.f.td[(r6 i).val]).vis

/-- vis of a vector register. -/
def Member.vreg (m : Member) (i : VReg) : W4096 := (m.vf.v[(r5 i).val]).vis

/-- vis of a predicate; `p0` reads all ones (R162). -/
def Member.preg (m : Member) (i : PReg) : BitVec 256 := if i == 0 then BitVec.allOnes 256 else (m.vf.p[(r3 i).val]).vis

/-- vis of a block scalar. -/
def Member.kreg (m : Member) (i : PReg) : W64 := (m.vf.k[(r3 i).val]).vis

/-- The visible ASID (R93). -/
def Member.asid (m : Member) : BitVec 12 := (m.ctl .asid).setWidth 12

/-- The visible JOBID. -/
def Member.job (m : Member) : BitVec 12 := (m.ctl .jobid).setWidth 12

/-- A mask of the whole of a register. -/
def fullMask (r : DbgReg) : W4096 := (BitVec.allOnes (widthOf r)).setWidth 4096

/-- An element of a list changed by its place. -/
def listMod {α : Type} (l : List α) (k : Nat) (f : α → α) : List α := l.modify k f

/-- A list without the element at a place. -/
def listDrop {α : Type} (l : List α) (k : Nat) : List α := l.eraseIdx k

end Sys2Proof.Machine
end

