-- ==== Sys2Proof/Machine/Numeric.lean ====
section
/-! DEFINITION. Exact values, the element formats, conversion and rounding (R195 to R205, R230). A finite value is held
exactly as a sign, a natural number and a power of two; every operation is exact and rounds once. -/

namespace Sys2Proof.Machine

/-- An exact value: NaN, a signed infinity, a signed zero, or (-1)^neg * m * 2^e with m > 0. -/
inductive FVal where
  | nan
  | inf (neg : Bool)
  | zero (neg : Bool)
  | num (neg : Bool) (m : Nat) (e : Int)
  deriving DecidableEq, Repr

/-- What the top codes of a float format hold (R197). -/
inductive FClass where
  | ie | fn | fz
  deriving DecidableEq, Repr

/-- An element format (R195): a float of S, E and M bits with its bias, or an integer of w bits. -/
inductive NumFmt where
  | fp (s : Bool) (e m : Nat) (bias : Int) (c : FClass)
  | int (w : Nat) (signed : Bool)
  deriving DecidableEq, Repr

/-- IEEE binary32 (R196). -/
def fp32 : NumFmt := .fp true 8 23 127 .ie
/-- BF16 (R196). -/
def bf16 : NumFmt := .fp true 8 7 127 .ie
/-- IEEE binary16 (R196). -/
def fp16 : NumFmt := .fp true 5 10 15 .ie

/-- The width in bits of a format (R195). -/
def NumFmt.width : NumFmt → Nat
  | .fp s e m _ _ => s.toNat + e + m
  | .int w _ => w

/-- A value from an integer; 0 is +0. -/
def FVal.ofInt (n : Int) : FVal := if n = 0 then .zero false else .num (decide (n < 0)) n.natAbs 0

/-- A value from a sign, a natural number that may be 0, and a power of two. -/
def FVal.mk (neg : Bool) (m : Nat) (e : Int) : FVal := if m = 0 then .zero neg else .num neg m e

/-- The two's complement or unsigned reading of a code of w bits. -/
def intOfCode (w : Nat) (signed : Bool) (c : Nat) : Int :=
  let v := c % 2 ^ w
  if signed && decide (2 ^ w ≤ 2 * v) then (v : Int) - (2 ^ w : Nat) else (v : Int)

/-- The code of w bits of an integer, wrapped. -/
def codeOfInt (w : Nat) (n : Int) : Nat := (n % ((2 ^ w : Nat) : Int)).toNat

/-- The value of a code (R196, R197, R199, R201). -/
def valOf (f : NumFmt) (code : Nat) : FVal :=
  match f with
  | .int w sg => FVal.ofInt (intOfCode w sg code)
  | .fp s eb mb bias c =>
    let m := code % 2 ^ mb
    let e := code / 2 ^ mb % 2 ^ eb
    let neg := s && decide (code / 2 ^ (eb + mb) % 2 = 1)
    let top := decide (e = 2 ^ eb - 1)
    let finite :=
      if e = 0 then FVal.mk neg m (1 - bias - mb) else FVal.num neg (2 ^ mb + m) ((e : Int) - bias - mb)
    match c with
    | .ie => if top then (if m = 0 then .inf neg else .nan) else finite
    | .fn => if top && decide (m = 2 ^ mb - 1) then .nan else finite
    | .fz => finite

/-- The code of the largest finite value of a float format (R197). -/
def maxfinCode (e m : Nat) : FClass → Nat
  | .ie => (2 ^ e - 1) * 2 ^ m - 1
  | .fn => 2 ^ (e + m) - 2
  | .fz => 2 ^ (e + m) - 1

/-- The code that a NaN converts to (R202, nanout). -/
def nanCode (s : Bool) (e m : Nat) : FClass → Nat
  | .ie => if m = 0 then 0 else (2 ^ e - 1) * 2 ^ m + 2 ^ (m - 1)
  | .fn => 2 ^ (s.toNat + e + m) - 1
  | .fz => 0

/-- |x| = m * 2^e rounded to a multiple of 2^qe, as that multiple's count (R203). `r` is the 16 random bits of `sr`. DESIGN CHOICE
(log 93): a tie in a mini-float with M = 0, which has no mantissa bit to look at, goes to the even multiple. -/
def roundTo (mode : RMode) (r : Nat) (neg : Bool) (m : Nat) (e qe : Int) : Nat :=
  if qe ≤ e then m * 2 ^ (e - qe).toNat
  else
    let sh := (qe - e).toNat
    let t := m / 2 ^ sh
    let rem := m % 2 ^ sh
    let up :=
      match mode with
      | .rne => decide (2 ^ sh < 2 * rem) || (decide (2 * rem = 2 ^ sh) && decide (t % 2 = 1))
      | .rz => false
      | .ru => !neg && decide (rem ≠ 0)
      | .rd => neg && decide (rem ≠ 0)
      | .sr => decide (65536 ≤ rem * 65536 / 2 ^ sh + r)
    if up then t + 1 else t

/-- Whether a finite overflow goes away from zero under a mode (R202, ovf). -/
def ovfAway (mode : RMode) (neg : Bool) : Bool :=
  match mode with
  | .rne | .sr => true
  | .rz => false
  | .ru => !neg
  | .rd => neg

/-- ovf of R202: the magnitude code of an overflow, and whether it is the NaN code. -/
def ovfCode (s : Bool) (e m : Nat) (c : FClass) (mode : RMode) (sat neg infinite : Bool) : Nat :=
  let sg := if s && neg then 2 ^ (e + m) else 0
  let fin := sg + maxfinCode e m c
  if sat then fin
  else if infinite || ovfAway mode neg then
    match c with
    | .ie => sg + (2 ^ e - 1) * 2 ^ m
    | .fn => nanCode s e m .fn
    | .fz => fin
  else fin

/-- cvt(x, F, mode, sat) of R202; `r` supplies bits [31:16] of the stepped generator under `sr`. -/
def cvt (x : FVal) (f : NumFmt) (mode : RMode) (sat : Bool) (r : Nat := 0) : Nat :=
  match f with
  | .int w sg =>
    let lo : Int := if sg then -((2 ^ (w - 1) : Nat) : Int) else 0
    let hi : Int := if sg then ((2 ^ (w - 1) : Nat) : Int) - 1 else ((2 ^ w : Nat) : Int) - 1
    match x with
    | .nan => 0
    | .inf neg => codeOfInt w (if neg then lo else hi)
    | .zero _ => 0
    | .num neg m e =>
      let a := roundTo mode r neg m e 0
      let n : Int := if neg then -(a : Int) else a
      codeOfInt w (if sat then min (max n lo) hi else n)
  | .fp s eb mb bias c =>
    match x with
    | .nan => nanCode s eb mb c
    | .zero neg => if s && neg then 2 ^ (eb + mb) else 0
    | .inf neg => if !s && neg then 0 else ovfCode s eb mb c mode sat neg true
    | .num neg m e =>
      if !s && neg then 0
      else
        let lg : Int := (Nat.log2 m : Int) + e
        let qe : Int := max lg (1 - bias) - mb
        let n := roundTo mode r neg m e qe
        let code := ((qe + mb + bias - 1).toNat) * 2 ^ mb + n
        if maxfinCode eb mb c < code then ovfCode s eb mb c mode sat neg false
        else (if s && neg then 2 ^ (eb + mb) else 0) + code

/-- Negation. -/
def FVal.neg : FVal → FVal
  | .nan => .nan
  | .inf b => .inf !b
  | .zero b => .zero !b
  | .num b m e => .num (!b) m e

/-- Exact product times 2^k. -/
def FVal.scale (x : FVal) (k : Int) : FVal :=
  match x with
  | .num b m e => .num b m (e + k)
  | .nan | .inf _ | .zero _ => x

/-- Exact sum (R230): an exact zero sum of opposite signs is +0, or -0 where `rd` holds. -/
def FVal.add (a b : FVal) (rd : Bool := false) : FVal :=
  match a, b with
  | .nan, _ | _, .nan => .nan
  | .inf x, .inf y => if x == y then .inf x else .nan
  | .inf x, _ => .inf x
  | _, .inf y => .inf y
  | .zero x, .zero y => if x == y then .zero x else .zero rd
  | .zero _, y => y
  | x, .zero _ => x
  | .num x m e, .num y n f =>
    let g := min e f
    let p : Int := (if x then -1 else 1) * ((m * 2 ^ (e - g).toNat : Nat) : Int)
    let q : Int := (if y then -1 else 1) * ((n * 2 ^ (f - g).toNat : Nat) : Int)
    let t := p + q
    if t = 0 then .zero rd else .num (decide (t < 0)) t.natAbs g

/-- Exact product (R230): an infinity times a zero is invalid. -/
def FVal.mul (a b : FVal) : FVal :=
  match a, b with
  | .nan, _ | _, .nan => .nan
  | .inf _, .zero _ | .zero _, .inf _ => .nan
  | .inf x, .inf y | .inf x, .num y _ _ | .num x _ _, .inf y => .inf (x != y)
  | .zero x, .zero y | .zero x, .num y _ _ | .num x _ _, .zero y => .zero (x != y)
  | .num x m e, .num y n f => .num (x != y) (m * n) (e + f)

/-- Integer square root by trial of bits k-1 down to 0. -/
def isqrtFrom : Nat → Nat → Nat → Nat
  | 0, _, r => r
  | k + 1, x, r => if (r + 2 ^ k) * (r + 2 ^ k) ≤ x then isqrtFrom k x (r + 2 ^ k) else isqrtFrom k x r

/-- Square root with a sticky last bit: rounding it to at most 60 bits rounds the exact root. -/
def FVal.sqrt : FVal → FVal
  | .nan => .nan
  | .inf b => if b then .nan else .inf false
  | .zero b => .zero b
  | .num b m e =>
    if b then .nan
    else
      let s : Nat := 128 + (if e % 2 = 0 then 0 else 1)
      let x := m * 2 ^ s
      let r := isqrtFrom (Nat.log2 x / 2 + 1) x 0
      .num false (2 * r + (if r * r = x then 0 else 1)) ((e - (s : Int)) / 2 - 1)

/-- Quotient with a sticky last bit: rounding it to at most 60 bits rounds the exact quotient. -/
def FVal.div (a b : FVal) : FVal :=
  match a, b with
  | .nan, _ | _, .nan => .nan
  | .inf _, .inf _ | .zero _, .zero _ => .nan
  | .inf x, .zero y | .inf x, .num y _ _ => .inf (x != y)
  | .num x _ _, .zero y => .inf (x != y)
  | .zero x, .inf y | .zero x, .num y _ _ | .num x _ _, .inf y => .zero (x != y)
  | .num x m e, .num y n f =>
    let s := 64 + Nat.log2 n
    let q := m * 2 ^ s / n
    .num (x != y) (2 * q + (if m * 2 ^ s % n = 0 then 0 else 1)) (e - f - (s : Int) - 1)

/-- The order of finite values and infinities: a key that is negative, zero or positive as a - b is. -/
def FVal.cmpKey (a b : FVal) : Int :=
  match a, b with
  | .nan, _ | _, .nan => 0
  | .inf x, .inf y => (if x then -1 else 1) - (if y then -1 else 1)
  | .inf x, _ => if x then -1 else 1
  | _, .inf y => if y then 1 else -1
  | .zero _, .zero _ => 0
  | .zero _, .num y _ _ => if y then 1 else -1
  | .num x _ _, .zero _ => if x then -1 else 1
  | .num x m e, .num y n f =>
    let g := min e f
    (if x then -1 else 1) * ((m * 2 ^ (e - g).toNat : Nat) : Int)
      - (if y then -1 else 1) * ((n * 2 ^ (f - g).toNat : Nat) : Int)

/-- The value is NaN. -/
def FVal.isNan : FVal → Bool
  | .nan => true
  | .inf _ | .zero _ | .num _ _ _ => false

/-- The value is finite. -/
def FVal.isFinite : FVal → Bool
  | .zero _ | .num _ _ _ => true
  | .nan | .inf _ => false

/-- The sign of a value; NaN counts as positive. -/
def FVal.isNeg : FVal → Bool
  | .nan => false
  | .inf b | .zero b | .num b _ _ => b

/-- The smaller of two values, with -0 below +0 (R230). -/
def FVal.minv (a b : FVal) : FVal :=
  if a.isNan || b.isNan then .nan
  else
    let k := a.cmpKey b
    if k < 0 then a else if 0 < k then b else if a.isNeg then a else b

/-- The larger of two values, with -0 below +0 (R230). -/
def FVal.maxv (a b : FVal) : FVal :=
  if a.isNan || b.isNan then .nan
  else
    let k := a.cmpKey b
    if k < 0 then b else if 0 < k then a else if a.isNeg then b else a

/-- rnd to FP32 under `rne` (R35), as a code. -/
def rnd32 (x : FVal) : Nat := cvt x fp32 .rne false

/-- rnd to FP32 under `rne`, as a value. -/
def rv32 (x : FVal) : FVal := valOf fp32 (rnd32 x)

/-- The value of an FP32 code. -/
def v32 (c : W32) : FVal := valOf fp32 c.toNat

/-- One step of a generator (R204). -/
def genStep (x : W32) : W32 :=
  let a := x ^^^ (x <<< 13)
  let b := a ^^^ (a >>> 17)
  b ^^^ (b <<< 5)

/-- The hash h of R204. -/
def genHash (v0 : W32) : W32 :=
  let a := v0 ^^^ (v0 >>> 16)
  let b := a * 0x7FEB352D#32
  let c := b ^^^ (b >>> 15)
  let d := c * 0x846CA68B#32
  d ^^^ (d >>> 16)

/-- The state of lane i of a bank seeded from S (R204). -/
def genSeed (sd : W32) (i : Nat) : W32 :=
  let x := genHash (sd + BitVec.ofNat 32 (i + 1) * 0x9E3779B9#32)
  if x = 0 then 1 else x

/-- A bank seeded from S (R204). -/
def bankSeed (sd : W32) : Vector W32 128 := Vector.ofFn (fun i => genSeed sd i.val)

/-- The 16 bits of a stepped generator that `sr` adds (R203). -/
def genBits (x : W32) : Nat := (x >>> 16).toNat

/-- The element format of a vector TYPE (R65). -/
def vtyFmt : VTy → NumFmt
  | .f32 => fp32 | .bf16 => bf16 | .f16 => fp16
  | .i32 => .int 32 true | .u32 => .int 32 false | .i16 => .int 16 true | .u16 => .int 16 false

/-- The floor of a value as an integer; NaN and infinities give 0 (R227 clamps them beforehand). -/
def FVal.floor : FVal → Int
  | .nan | .inf _ | .zero _ => 0
  | .num b m e =>
    if 0 ≤ e then (if b then -1 else 1) * ((m * 2 ^ e.toNat : Nat) : Int)
    else
      let q := (m : Int) / ((2 ^ (-e).toNat : Nat) : Int)
      let up := decide (m % 2 ^ (-e).toNat ≠ 0)
      if b then -(q + (if up then 1 else 0)) else q

/-- floor(log2 |x|) of a finite nonzero value; 0 otherwise. -/
def FVal.log2 : FVal → Int
  | .num _ m e => (Nat.log2 m : Int) + e
  | .nan | .inf _ | .zero _ => 0

/-- The value 2^(x - 127) of an E8M0 scale as its exponent; 0xFF reads as 0x00 (R200, R201). -/
def e8m0 (b : Byte) : Int := if b = 0xFF#8 then -127 else (b.toNat : Int) - 127

end Sys2Proof.Machine
end

