-- ==== Sys2Proof/Machine/Operands.lean ====
section
/-! DEFINITION. Operand forms: addresses of loads and stores, the source of a VL word, lanes of vector registers, tensor
descriptors with their checks, element addresses and values (R187, R206 to R208, R215, R246). -/

namespace Sys2Proof.Machine

/-- The effective address of an SI memory operand (R187). -/
def siAddr (base : W64) (off : BitVec 12) : W64 := base + off.signExtend 64

/-- A branch target: own address + 4 * sx(OFF) (R57). -/
def relTarget {n : Nat} (pc : W64) (off : BitVec n) : W64 := pc + (off.signExtend 64 <<< 2)

/-- The source S of a VL word (R246). -/
def vsrc (m : Member) (src : VSrc) (imm : W64) : W64 :=
  match src with
  | .k r => m.kreg r
  | .m i => m.mbox i
  | .imm => imm

/-! ### Lanes -/

/-- lane32(v, i) (R35). -/
def lane32 (v : W4096) (i : Nat) : W32 := v.extractLsb' (32 * i) 32

/-- lane16(v, i) (R35). -/
def lane16 (v : W4096) (i : Nat) : Half := v.extractLsb' (16 * i) 16

/-- elem(x, e, T) as a code (R228). -/
def elemOf (ty : VTy) (v : W4096) (e : Nat) : Nat :=
  if ty.is16 then (lane16 v e).toNat else (lane32 v e).toNat

/-- act(p, e, T) (R215, R228). -/
def active (ty : VTy) (p : BitVec 256) (e : Nat) : Bool := if ty.is16 then p.getLsbD e else p.getLsbD (2 * e)

/-- The width of an element of T. -/
def vtyBits (ty : VTy) : Nat := if ty.is16 then 16 else 32

/-- A vector built from element codes by index, `w` bits each. -/
def packElems (w : Nat) (f : Nat → Nat) : Nat → Nat
  | 0 => 0
  | n + 1 => packElems w f n + (f n % 2 ^ w) * 2 ^ (w * n)

/-- A vector register from the codes of its elements. -/
def vecOf (ty : VTy) (f : Nat → Nat) : W4096 := BitVec.ofNat 4096 (packElems (vtyBits ty) f ty.count)

/-- The bits of the elements whose predicate is set (R164, R215). -/
def maskOf (ty : VTy) (p : BitVec 256) : W4096 :=
  BitVec.ofNat 4096 (packElems (vtyBits ty) (fun e => if active ty p e then 2 ^ (vtyBits ty) - 1 else 0) ty.count)

/-! ### Tensor descriptors -/

/-- A field of a record: `len` bits from `lo`. -/
def fld {n : Nat} (d : BitVec n) (lo len : Nat) : Nat := (d.extractLsb' lo len).toNat

/-- The element format of FMT and its mini-float fields (R195, R197). -/
def fmtOf (fmt s e m cls : Nat) (bias : Int) : Option NumFmt :=
  match fmt with
  | 0 => some fp32
  | 1 => some bf16
  | 2 => some fp16
  | 3 =>
    match cls with
    | 0 => some (.fp (decide (s = 1)) e m bias .ie)
    | 1 => some (.fp (decide (s = 1)) e m bias .fn)
    | 2 => some (.fp (decide (s = 1)) e m bias .fz)
    | _ => none
  | 4 => some (.int 4 true)
  | 5 => some (.int 8 true)
  | 6 => some (.int 16 true)
  | 7 => some (.int 32 true)
  | 8 => some (.int 8 false)
  | 9 => some (.int 32 false)
  | _ => none

/-- A descriptor read field by field (R206). Dimension d stands at place d of `ext` and `str`. -/
structure Td where
  fmtc : Nat
  fmt : NumFmt
  base : W64
  sbase : W64
  ndim : Nat
  ext : List Nat
  str : List Int
  scaled : Bool
  blkl : Nat
  round : RMode
  sat : Bool
  gen : W32
  seed : W32
  dfmt : BitVec 31
  deriving DecidableEq, Repr

/-- The format of the FMT fields at bits [409:389] of a descriptor, or of the same fields of a tag or header (R206). -/
def fmtOfBits (b : BitVec 21) : Option NumFmt :=
  fmtOf (fld b 0 4) (fld b 4 1) (fld b 5 3) (fld b 8 3) (fld b 11 2) ((b.extractLsb' 13 8).toInt)

/-- The fields of a descriptor (R206). -/
def tdOf (d : W512) : Td where
  fmtc := fld d 389 4
  fmt := (fmtOfBits (d.extractLsb' 389 21)).getD fp32
  base := (d.extractLsb' 0 55).setWidth 64
  sbase := (d.extractLsb' 64 55).setWidth 64
  ndim := fld d 384 2 + 1
  ext := [fld d 168 24, fld d 232 24, fld d 296 24, fld d 360 24]
  str := [(d.extractLsb' 128 40).toInt, (d.extractLsb' 192 40).toInt, (d.extractLsb' 256 40).toInt,
    (d.extractLsb' 320 40).toInt]
  scaled := fld d 410 2 == 1
  blkl := fld d 412 4
  round := (RMode.ofCode (d.extractLsb' 416 3)).getD .rne
  sat := d.getLsbD 419
  gen := d.extractLsb' 448 32
  seed := d.extractLsb' 480 32
  dfmt := d.extractLsb' 389 31

/-- The width of the elements in bits. -/
def Td.w (t : Td) : Nat := t.fmt.width

/-- The extent of dimension d; 1 above the dimensions. -/
def Td.extent (t : Td) (d : Nat) : Nat := if d < t.ndim then t.ext.getD d 1 else 1

/-- The stride of dimension d. -/
def Td.stride (t : Td) (d : Nat) : Int := if d < t.ndim then t.str.getD d 0 else 0

/-- Condition 1 of R208: reserved bits and fields that must be 0. -/
def tdReserved (d : W512) : Bool :=
  let fmt := fld d 389 4
  let nd := fld d 384 2
  fld d 420 28 == 0 && fld d 386 3 == 0 && fld d 119 9 == 0 && fld d 55 9 == 0
    && (fmt == 3 || (fld d 402 8 == 0 && fld d 400 2 == 0 && fld d 397 3 == 0 && fld d 394 3 == 0 && fld d 393 1 == 0))
    && (fld d 410 2 != 0 || (fld d 412 4 == 0 && fld d 64 55 == 0))
    && (decide (1 ≤ nd) || fld d 192 64 == 0) && (decide (2 ≤ nd) || fld d 256 64 == 0)
    && (decide (3 ≤ nd) || fld d 320 64 == 0)

/-- Conditions 2 to 7 of R208. -/
def tdLimits (d : W512) : Bool :=
  let t := tdOf d
  let scale := fld d 410 2
  let okCodes := (fmtOfBits (d.extractLsb' 389 21)).isSome && (RMode.ofCode (d.extractLsb' 416 3)).isSome
    && decide (scale ≤ 1)
  let okMf := t.fmtc != 3
    || (decide (1 ≤ fld d 394 3) && decide (fld d 393 1 + fld d 394 3 + fld d 397 3 ≤ 8))
  let dims := List.range t.ndim
  let okExt := dims.all (fun i => decide (1 ≤ t.ext.getD i 0))
  let by8 := t.w / 8
  let okAlign :=
    if 8 ≤ t.w then decide (t.base.toNat % by8 = 0) && dims.all (fun i => t.str.getD i 0 % (by8 : Int) == 0)
    else t.str.getD 0 0 == 0 && decide (t.ext.getD 0 0 * t.w % 8 = 0)
  let okScale := !t.scaled
    || ((t.fmtc == 3 || t.fmtc == 5) && decide (3 ≤ t.blkl) && decide (t.blkl ≤ 8)
        && decide (t.ext.getD 0 0 % 2 ^ t.blkl = 0))
  okCodes && okMf && okExt && okAlign && okScale

/-- R208 as R209 reports it: none where the descriptor is valid, else reason 2 or 5. -/
def tdCheck (d : W512) : Option (BitVec 8) := if !tdReserved d then some 2 else if !tdLimits d then some 5 else none

/-- The number of elements. -/
def Td.count (t : Td) : Nat := t.extent 0 * t.extent 1 * t.extent 2 * t.extent 3

/-- The index tuple of element k in row-major order, innermost fastest (R139). -/
def Td.tuple (t : Td) (k : Nat) : List Nat :=
  let e0 := t.extent 0
  let e1 := t.extent 1
  let e2 := t.extent 2
  [k % e0, k / e0 % e1, k / (e0 * e1) % e2, k / (e0 * e1 * e2)]

/-- The bit address of an index tuple relative to BASE (R207). -/
def Td.bitOff (t : Td) (ix : List Nat) : Int :=
  8 * ((ix.getD 0 0 : Int) * t.stride 0 + ix.getD 1 0 * t.stride 1 + ix.getD 2 0 * t.stride 2 + ix.getD 3 0 * t.stride 3)
    + (if t.w < 8 then (t.w * ix.getD 0 0 : Nat) else 0)

/-- ea: the byte address of an element (R138, R207). -/
def Td.ea (t : Td) (ix : List Nat) : W64 := t.base + BitVec.ofInt 64 (t.bitOff ix / 8)

/-- The bit of an element within its byte (R207). -/
def Td.bitIn (t : Td) (ix : List Nat) : Nat := (t.bitOff ix % 8).toNat

/-- Lowest byte of the span relative to BASE (R138). -/
def Td.spanLo (t : Td) : Int :=
  (List.range 4).foldl (fun a d => a + min 0 (((t.extent d : Int) - 1) * t.stride d)) 0

/-- Highest byte of the span relative to BASE (R138). -/
def Td.spanHi (t : Td) : Int :=
  (List.range 4).foldl (fun a d => a + max 0 (((t.extent d : Int) - 1) * t.stride d)) 0
    + (if t.w < 8 then ((t.extent 0 * t.w / 8 : Nat) : Int) - 1 else ((t.w / 8 : Nat) : Int) - 1)

/-- The spans of two descriptors do not intersect (R138). -/
def spansApart (a b : Td) : Bool :=
  let a0 := (a.base.toNat : Int)
  let b0 := (b.base.toNat : Int)
  decide (a0 + a.spanHi < b0 + b.spanLo) || decide (b0 + b.spanHi < a0 + a.spanLo)

/-- The address of an element's scale byte (R200). -/
def Td.scaleAddr (t : Td) (ix : List Nat) : W64 :=
  let e1 := t.extent 1
  let e2 := t.extent 2
  let row := (ix.getD 3 0 * e2 + ix.getD 2 0) * e1 + ix.getD 1 0
  t.sbase + BitVec.ofNat 64 (row * (t.extent 0 / 2 ^ t.blkl) + ix.getD 0 0 / 2 ^ t.blkl)

/-- The value of an element code with its block scale (R199, R200). -/
def scaledVal (f : NumFmt) (scaled : Bool) (code : Nat) (scale : Byte) : FVal :=
  if scaled then
    (match f with
    | .int 8 true => (valOf f code).scale (-6)
    | _ => valOf f code).scale (e8m0 scale)
  else valOf f code

/-- Equal numbers of dimensions and equal extents (R138). -/
def sameExtents (a b : Td) : Bool := a.ndim == b.ndim && (List.range a.ndim).all (fun d => a.extent d == b.extent d)

/-- The rate class of an operand format in half cycles per K index (R248): 1, 2, 4 or 16. -/
def rateHalves (f : NumFmt) : Nat := if f.width ≤ 4 then 1 else if f.width ≤ 8 then 2 else if f.width ≤ 16 then 4 else 16

/-! ### Commands (R69) -/

/-- The four command queues (R69). -/
inductive QId where
  | mu | cu | vu | ce
  deriving DecidableEq, Repr

/-- The wait, post and scope of a command, with its queue; none for every other instruction. -/
def cmdHead : Instr → Option (Head × QId)
  | .mma h .. | .mmaSp h .. | .wload h .. | .wloadT h .. | .aclr h .. | .ainit h .. | .adrain h .. | .adrainMx h ..
  | .fenceOc h => some (h, .mu)
  | .cp h .. | .cpAccF32 h .. | .cpAccBf16 h .. | .cpAccI32 h .. | .cpMc h .. | .gather h .. | .scatter h ..
  | .scatterAccF32 h .. | .scatterAccBf16 h .. | .scatterAccI32 h .. | .fill h .. | .atomAdd h .. | .atomAddthr h ..
  | .atomSwap h .. | .atomCas h .. | .atomMin h .. | .atomMax h .. | .atomArrive h .. | .note h .. | .chain h ..
  | .stashMap h .. | .stashUnmap h .. | .stashWb h .. | .offload h .. => some (h, .cu)
  | .csend h .. | .crecv h .. | .cstep h .. | .carm h .. | .crcSet h .. | .crcRd h .. | .cslot h .. | .cef h .. => some (h, .ce)
  | .vrun h .. => some (h, .vu)
  | _ => none

/-- A steering store (R187). -/
def Instr.isStore : Instr → Bool
  | .stB .. | .stH .. | .stW .. | .stD .. => true
  | _ => false

/-- An instruction that waits at issue and has not issued while it waits: a push for queue space (R70), a store for room in the
forwarding table (R191). -/
def Instr.waitsAtIssue (i : Instr) : Bool := (cmdHead i).isSome || Instr.isStore i

end Sys2Proof.Machine
end

