-- ==== Sys2Proof/Machine/Flags.lean ====
section
/-! DEFINITION. Conditions: the machine has no flags register, so here stand the compares of the steering unit, the vector
compares and the predicates they write, the limits of the current classes, and the scope of a memory point. -/

namespace Sys2Proof.Machine

/-- A Boolean as a 64-bit result (R182). -/
def boolW (b : Bool) : W64 := if b then 1 else 0

/-- sx(a, 64) < sx(b, 64). -/
def slt64 (a b : W64) : Bool := decide (a.toInt < b.toInt)

/-- zx(a, 64) < zx(b, 64). -/
def ult64 (a b : W64) : Bool := decide (a.toNat < b.toNat)

/-- Zero bits above the highest one bit; 64 for 0 (R182). -/
def clz64 (a : W64) : Nat := if a = 0 then 64 else 63 - Nat.log2 a.toNat

/-- Counts zero bits below the lowest one bit, looking at `n` bits from bit `i`. -/
def ctzFrom (a : W64) : Nat → Nat → Nat
  | 0, _ => 0
  | n + 1, i => if a.getLsbD i then 0 else 1 + ctzFrom a n (i + 1)

/-- Zero bits below the lowest one bit; 64 for 0 (R182). -/
def ctz64 (a : W64) : Nat := ctzFrom a 64 0

/-- The number of one bits (R182). -/
def popc64 (a : W64) : Nat := (List.range 64).foldl (fun n i => n + (a.getLsbD i).toNat) 0

/-- The relation of a vector compare (R232). -/
inductive VRel where
  | eq | lt | le
  deriving DecidableEq, Repr

/-- The result c of a vector compare on two element codes (R232). -/
def vrel (ty : VTy) (r : VRel) (a b : Nat) : Bool :=
  let x := valOf (vtyFmt ty) a
  let y := valOf (vtyFmt ty) b
  let k := x.cmpKey y
  !(x.isNan || y.isNan) && (match r with | .eq => k == 0 | .lt => decide (k < 0) | .le => decide (k ≤ 0))

/-- The predicate bits that a compare writes, and their values (R232): two bits a lane for a 32-bit T. -/
def cmpBits (ty : VTy) (pm : BitVec 256) (c : Nat → Bool) : BitVec 256 × BitVec 256 :=
  if ty.is16 then
    (pm, BitVec.ofNat 256 (packElems 1 (fun e => (c e).toNat) 256))
  else
    (BitVec.ofNat 256 (packElems 2 (fun e => if pm.getLsbD (2 * e) then 3 else 0) 128),
      BitVec.ofNat 256 (packElems 2 (fun e => if c e then 3 else 0) 128))

/-- The predicate of a count (R247). -/
def plenBits (slots : Bool) (n : Nat) : BitVec 256 :=
  if slots then BitVec.ofNat 256 (2 ^ min n 256 - 1) else BitVec.ofNat 256 (2 ^ (2 * min n 128) - 1)

/-- The class whose limits bind a tile (R361): class 0 without a grant. -/
def classOf (g : Option (BitVec 3)) : BitVec 3 := g.getD 0

/-- The steering window limit of a class (R361). -/
def suLimit (c : BitVec 3) : Nat := if c.getLsbD 0 then 384 else 256

/-- The vector window limit of a class (R361). -/
def vuLimit (c : BitVec 3) : Nat := if c.getLsbD 0 then 896 else 128

/-- Whether a class allows a matrix rate class, in half cycles (R361, R363). -/
def rateOk (c : BitVec 3) (halves : Nat) : Bool :=
  match c.toNat with
  | 0 | 1 => false
  | 2 | 3 => decide (4 ≤ halves)
  | 4 | 5 => decide (2 ≤ halves)
  | _ => true

/-- The cost of a class to the arbiter (R361). -/
def classCost (c : BitVec 3) : Nat :=
  match c.toNat with
  | 0 => 1 | 1 => 2 | 2 => 3 | 3 => 4 | 4 => 6 | 5 => 8 | 6 => 10 | _ => 12

/-- The sum of a window (R362): the weights of the current cycle and the 255 before it. -/
def windowSum (win : List (Nat × Nat)) (cycle : Nat) : Nat :=
  win.foldl (fun a e => if cycle < e.1 + 256 then a + e.2 else a) 0

/-- The issue weight of a vector word (R362). Every `vcvt` and `vpack` weighs 4, whatever its types, since
R362 names them without the word floating-point's limit (DEDUCED, log 21). -/
def vuWeight : Instr → Nat
  | .vperm .. | .vslideUp .. | .vslideDn .. | .vredSum .. | .vredMax .. | .vredMin .. | .vld .. | .vst .. => 3
  | .vadd ty .. | .vsub ty .. | .vmul ty .. | .vmin ty .. | .vmax ty .. => if ty.isInt then 2 else 4
  | .vfma .. | .vcvt .. | .vpack .. => 4
  | .vand .. | .vor .. | .vxor .. | .vshl .. | .vshr .. | .vsra .. | .vcmpEq .. | .vcmpLt .. | .vcmpLe .. | .vsel ..
  | .vbcast .. | .vqmark => 2
  | .vldx .. | .vstx .. | .vtip .. | .vtipX .. => 5
  | .vupd .. => 8
  | _ => 1

/-- Ranks of the scopes, narrowest first (R270). -/
def scopeRank : Scope → Nat
  | .tile => 0 | .quadrant => 1 | .die => 2 | .package => 3 | .system => 4

/-- The wider of two scopes (R156). -/
def scopeMax (a b : Scope) : Scope := if scopeRank a < scopeRank b then b else a

end Sys2Proof.Machine
end

