-- ==== Sys2Proof/Machine/Points.lean ====
section
/-! DEFINITION. Events, memory points, translation and stash lines: where an access goes and what it does there (R80 to
R84, R90, R92 to R101, R110 to R121, R268 to R270, R389 to R391, R410). -/

namespace Sys2Proof.Machine

/-! ### Events (R90, R410) -/

/-- The SRC of a tile. -/
def srcTile (t : TileId) : Half := BitVec.ofNat 16 t.val
/-- The SRC of a link. -/
def srcLink (l : LinkId) : Half := BitVec.ofNat 16 (0x1000 + l.val)
/-- The SRC of a shelf. -/
def srcShelf (n : Nat) : Half := BitVec.ofNat 16 (0x2000 + n)
/-- The SRC of firmware. -/
def srcFw : Half := 0x3000
/-- The SRC of a die's shared units. -/
def srcDie (d : DieId) : Half := BitVec.ofNat 16 (0x3010 + d.val)
/-- The SRC of an L2 slice. -/
def srcSlice (d : DieId) (n : Nat) : Half := BitVec.ofNat 16 (0x3400 + 512 * d.val + n)
/-- The SRC of a host port. -/
def srcPort (p : PortId) : Half := BitVec.ofNat 16 (0x4000 + p.val)

/-- The next fabric cycle begins. -/
def State.newFabric (s : State) : State := { s with fabric := s.fabric + 1, fab := Fab.reset }

/-- Goes on in this fabric cycle where an order that holds within one cycle allows it, else in the next. -/
def State.inCycle (s : State) (ok : Fab → Bool) : State := if ok s.fab then s else s.newFabric

/-- Writes an event into the recorder and its mirror, and signals vector 0 on both ports (R90, R410). Events of one fabric cycle
go in the order of their SRC (R90). -/
def State.logEvent (s : State) (code src : Half) (data : BitVec 128) : State :=
  let s0 := s.inCycle (fun f => decide (f.event ≤ src.toNat))
  let e : Event := ⟨data, code, src, s.eventSeq, s.fleet⟩
  let d : Event := ⟨0, 0, 0, 0, 0⟩
  let k := s.eventSeq.toNat % 4096
  { s0 with
    fab := { s0.fab with event := src.toNat }
    events := SMap.set d s.events k e
    eventsMirror := SMap.set d s.eventsMirror k e
    eventSeq := s.eventSeq + 1
    ports := vmap s.ports (fun p => { p with vec0 := p.vec0 + 1 }) }

/-- DATA with an address in [127:64] and a low dword. -/
def evData (hi lo : Nat) : BitVec 128 := BitVec.ofNat 128 (hi % 2 ^ 64 * 2 ^ 64 + lo % 2 ^ 64)

/-! ### The physical address map (R80 to R82, R110) -/

/-- What a physical address is (R80). -/
inductive Region where
  | dram
  | shelf (n off : Nat)
  | host (p : PortId)
  | reserved
  deriving DecidableEq, Repr

/-- The region of a physical address (R80). -/
def regionOf (a : Nat) : Region :=
  if a < 0x8000000000 then .dram
  else if 0x10000000000 ≤ a ∧ a < 0x10000800000 then .shelf ((a - 0x10000000000) / 0x100000) ((a - 0x10000000000) % 0x100000)
  else if 0x400000000000 ≤ a ∧ a < 0x600000000000 then .host 0
  else if 0x600000000000 ≤ a ∧ a < 0x800000000000 then .host 1
  else .reserved

/-- stack(PA) (R81). -/
def stackOf (a : Nat) : Nat := (a / 2 ^ 11 % 8) ^^^ (a / 2 ^ 20 % 8) ^^^ (a / 2 ^ 29 % 8)

/-- offset(PA): the byte address of a DRAM address within its stack (R81). -/
def offsetOf (a : Nat) : Nat := a % 2 ^ 39 / 2 ^ 14 * 2 ^ 11 + a % 2 ^ 11

/-- The die beside a DRAM address's stack (R42). -/
def dieOfPa (a : Nat) : DieId := if stackOf a < 4 then 0 else 1

/-- slice(PA) (R110). -/
def sliceOf (a : Nat) : Nat :=
  (a / 2 ^ 8 % 512) ^^^ (a / 2 ^ 17 % 512) ^^^ (a / 2 ^ 26 % 512) ^^^ (a / 2 ^ 35 % 512) ^^^ (a / 2 ^ 44 % 16)

/-- The owner of a line's directory record (R118). -/
def State.ownerOf (s : State) (a : Nat) : Option Owner :=
  (s.ms.dir.find? (fun e => e.1 == a / 256)).map (fun e => e.2)

/-- The scope of the memory point of a target relative to a tile (R270). -/
def State.scopeOf (s : State) (t : TileId) : Target → Scope
  | .own _ => .tile
  | .pa a mt =>
    match regionOf a with
    | .host _ => .system
    | .shelf _ _ | .reserved => .package
    | .dram =>
      match s.ownerOf a with
      | some (.tile o _) =>
        if o = t then .tile else if o.val / 16 = t.val / 16 then .quadrant
        else if o.val / 64 = t.val / 64 then .die else .package
      | _ =>
        if mt = 0 ∧ s.ms.l2.contains (a / 64) ∧ dieOfPa a = dieOfTile t then .die else .package

/-! ### Granules (R389 to R391) -/

/-- A granule the shelves keep S and T for: all of DRAM but the firmware granule and the context directory (R389). -/
def State.shadowed (s : State) (a : Nat) : Bool := decide (a / 65536 ≠ 0) && decide (a / 65536 ≠ s.cfg.contextDir / 65536)

/-- B of R391 in GB/s: 220 for each port at x16, 110 for each at x8. -/
def State.portRate (s : State) : Nat :=
  s.ports.toList.foldl (fun a p => a + (if p.lanes = 16 then 220 else if p.lanes = 8 then 110 else 0)) 0

/-- Gmax (R391): the largest count that fits 0.9 * 2 s at B. -/
def State.gmax (s : State) : Nat := (1800000000 * s.portRate - 128 * 0x680000 - 67108864) / 65536

/-- The ceiling in force (R391). -/
def State.ceiling (s : State) : Nat := min (max s.ceilReq.toNat 1024) s.gmax

/-- Writes at several addresses of which one would set S while U is at the ceiling wait, unless no port is up (R390, R391). -/
def State.ceilAll (s : State) (as : List Nat) : Bool :=
  let gs := ((as.filter (fun a => s.shadowed a && !s.ms.sbit.contains (a / 65536))).map (fun a => a / 65536)).dedup
  !gs.isEmpty && decide (s.portRate ≠ 0) && decide (s.ceiling < s.ms.sbit.length + gs.length)

/-- A write that would set S waits while U is at the ceiling, unless no port is up (R390, R391). -/
def State.ceilHolds (s : State) (a : Nat) : Bool :=
  s.shadowed a && !s.ms.sbit.contains (a / 65536) && decide (s.portRate ≠ 0) && decide (s.ceiling ≤ s.ms.sbit.length)

/-- Sets S, and T after a completed freeze (R389, R393), for a write that lands in DRAM. -/
def State.markWrite (s : State) (a : Nat) : State :=
  let g := a / 65536
  if s.shadowed a then
    { s with ms := { s.ms with
        sbit := if s.ms.sbit.contains g then s.ms.sbit else s.ms.sbit ++ [g]
        tbit := if s.seize.st = .done ∧ !s.ms.tbit.contains g then s.ms.tbit ++ [g] else s.ms.tbit } }
  else s

/-! ### Results of an access -/

/-- What an access finds: its value; a line that fills or a ceiling that holds the write; poisoned data; a pending word
in debug mode; a live barrier word that drops the write. -/
inductive Res (α : Type) where
  | ok (v : α)
  | wait
  | poison
  | pending
  | dropped
  deriving DecidableEq, Repr

/-! ### Stash lines (R112 to R117) -/

/-- A line of no live range. -/
def blankLine : Line := ⟨.empty, false, false, 0⟩

/-- The state of a stash line. -/
def Stash.line (x : Stash) (l : Nat) : Line := SMap.get blankLine x.lines l

/-- Replaces a stash line's state. -/
def Stash.setLine (x : Stash) (l : Nat) (v : Line) : Stash := { x with lines := SMap.set blankLine x.lines l v }

/-- The size of a range (R112). -/
def MapEntry.size (e : MapEntry) : Nat := 2 ^ (e.lsize.toNat + 12)

/-- The first virtual address of a range. -/
def MapEntry.va (e : MapEntry) : Nat := e.vbase.toNat * 4096

/-- An entry that serves accesses (R114). -/
def MapEntry.serves (e : MapEntry) : Bool := e.st == .live || e.st == .closing

/-- Routing of R114: the stash offset that serves a virtual address under an ASID. A line that `stash.unmap` has released is
served no more (R121). -/
def Stash.route (x : Stash) (asid : BitVec 12) (va : Nat) : Option Nat :=
  (x.map.toList.find? (fun e => e.serves && e.asid == asid && decide (e.va + 256 * e.gone ≤ va)
      && decide (va < e.va + e.size))).map
    (fun e => e.soff.toNat * 4096 + (va - e.va))

/-- The physical address of a stash offset of a range that is not free (R109). -/
def Stash.paOf (x : Stash) (off : Nat) : Option Nat :=
  (x.map.toList.find? (fun e => e.st != .free && decide (e.soff.toNat * 4096 ≤ off)
      && decide (off < e.soff.toNat * 4096 + e.size))).map
    (fun e =>
      let va := e.va + (off - e.soff.toNat * 4096)
      e.gran.getD (va / 65536 - e.va / 65536) 0 + va % 65536)

/-- The bits of the 64-byte units that bytes [off, off+n) of one line touch (R117). -/
def unitBit (off : Nat) : BitVec 4 := BitVec.ofNat 4 (2 ^ (off % 256 / 64))

/-- Bytes of one unit of a stash are poisoned (R117, R409). -/
def Stash.poisoned (x : Stash) (off n : Nat) : Bool :=
  (x.line (off / 256)).poison &&& unitBit off ≠ 0 || x.bad.any (fun w => decide (off / 8 ≤ w) && decide (w * 8 < off + n))

/-- The poisoned words that a write of `n` bytes leaves (R409). -/
def Stash.badAfter (x : Stash) (off n : Nat) : List Nat :=
  x.bad.filter (fun w => !(decide (off ≤ w * 8) && decide (w * 8 + 8 ≤ off + n)))

/-- A read of at most 64 bytes of one unit of a stash, at its port (R116, R117, R129). `dm` is debug mode. -/
def Stash.read (x : Stash) (dm : Bool) (off n : Nat) : Stash × Res (List Byte) :=
  let l := off / 256
  let st := x.line l
  match st.fill with
  | .empty => (x.setLine l { st with fill := .filling }, .wait)
  | .filling => (x, .wait)
  | .ready =>
    if dm && (List.range (n / 8 + 1)).any (fun k => x.pend.contains (off / 8 + k) && decide (off / 8 + k ≤ (off + n - 1) / 8))
    then (x, .pending)
    else if x.poisoned off n then (x, .poison)
    else (x, .ok (bytesAt x.bytes off n))

/-- A write of bytes within one line of a stash (R116, R117): it sets D and I, and clears the poison of a unit that it
covers whole. A write of a whole EMPTY line needs no fill. -/
def Stash.write (x : Stash) (off : Nat) (bs : List Byte) : Stash × Res Unit :=
  let l := off / 256
  let st := x.line l
  let whole := off % 256 == 0 && bs.length == 256
  match st.fill, whole with
  | .empty, false => (x.setLine l { st with fill := .filling }, .wait)
  | .filling, _ => (x, .wait)
  | .empty, true | .ready, _ =>
    let p := if whole then 0 else if off % 64 == 0 && bs.length == 64 then st.poison &&& ~~~(unitBit off) else st.poison
    (({ x with bytes := putBytes x.bytes off bs, bad := x.badAfter off bs.length }).setLine l ⟨.ready, true, true, p⟩, .ok ())

/-! ### Wakes (R152, R322, R325) -/

/-- Marks a waiting tile as woken. -/
def SuWait.wake : SuWait → SuWait
  | .waita d z va tgt _ => .waita d z va tgt true
  | .barWait g va tgt sink _ => .barWait g va tgt sink true
  | .no => .no
  | .again i => .again i
  | .drain i ms => .drain i ms
  | .acq c => .acq c
  | .trap r p => .trap r p
  | .eret a => .eret a
  | .retired => .retired

/-- Wakes every registration on an aligned word that `n` bytes from an address on touch. -/
def State.wake (s : State) (a n : Nat) : State :=
  (s.ms.waiters.filter (fun w => decide (a / 8 ≤ w.pa) && decide (w.pa * 8 < a + n))).foldl
    (fun st w => st.modM w.tile (fun m => { m with su := { m.su with wait := m.su.wait.wake } })) s

/-! ### Reads and writes at a memory point (R269, R119, R387) -/

/-- Bytes of memory lie in a poisoned 64-byte block of DRAM (R78) or in a poisoned word of an L2 slice (R409). -/
def State.poisoned (s : State) (a n : Nat) : Bool :=
  s.ms.poison.contains (a / 64) || s.ms.poison.contains ((a + n - 1) / 64)
    || s.ms.bad.any (fun w => decide (a / 8 ≤ w) && decide (w * 8 < a + n))

/-- The poisoned words of memory that a write of `n` bytes leaves (R409). -/
def State.badAfter (s : State) (a n : Nat) : List Nat :=
  s.ms.bad.filter (fun w => !(decide (a ≤ w * 8) && decide (w * 8 + 8 ≤ a + n)))

/-- The control block or window content of a shelf at an aligned dword (R82); reserved offsets read 0. DESIGN CHOICE (log 22,
log 84): the identity and status take the 8 bytes at offset 0, whose value the spec does not state: it is a free value. -/
def State.shelfDword (s : State) (n off : Nat) : W64 :=
  if 0x10000 ≤ off ∧ off < 0x18000 then
    let q := (off - 0x10000) / 64 * 8 + n
    (SMap.get 0 s.ms.qcb q).extractLsb' (off % 64 * 8) 64
  else if 0x20000 ≤ off ∧ off < 0x20800 then
    let p := (off - 0x20000) / 64 * 8 + n
    (SMap.get 0 s.ms.pcb p).extractLsb' (off % 64 * 8) 64
  else if 0x40000 ≤ off ∧ off < 0x60000 ∧ (n = 0 ∨ n = 4) then
    let e := SMap.get (⟨0, 0, 0, 0, 0⟩ : Event) (if n = 0 then s.events else s.eventsMirror) ((off - 0x40000) / 32)
    let w : BitVec 256 := e.data ++ e.code ++ e.src ++ e.seq ++ e.time
    w.extractLsb' (off % 32 * 8) 64
  else if off < 8 then Config.freeWord n
  else 0

/-- Bytes of a shelf window. -/
def State.shelfBytes (s : State) (n off : Nat) : Nat → List Byte
  | 0 => []
  | k + 1 => (s.shelfDword n (off / 8 * 8)).extractLsb' (off % 8 * 8) 8 :: State.shelfBytes s n (off + 1) k

/-- The fields of a queue's control block: its reserved bits read 0 (R10, R85). -/
def qcbFields : W512 := BitVec.ofNat 512 (2 ^ 160 - 2 ^ 64 + (2 ^ 48 - 2 ^ 16) + 0xFF)

/-- The fields of a pool's control block: its reserved bits read 0 (R10, R87). -/
def pcbFields : W512 := BitVec.ofNat 512 (2 ^ 192 - 2 ^ 160 + (2 ^ 152 - 2 ^ 128) + (2 ^ 112 - 2 ^ 24) + 0xF8)

/-- Replaces a byte of a control block's dword (R82). -/
def setByteOf (d : W512) (k : Nat) (b : Byte) : W512 :=
  (d &&& ~~~((0xFF#512) <<< (8 * k))) ||| ((b.setWidth 512) <<< (8 * k))

/-- A pool's control block written from outside (R87, R88): where EN rises the shelf has to build the free stack first. DESIGN CHOICE
(log 104): it is the EN bit alone that rises, also where LBLK or NBLK kept the pool out of service. -/
def State.putPcb (s : State) (p : Nat) (v : W512) : State :=
  let c := v &&& pcbFields
  let old := SMap.get 0 s.ms.pcb p
  let setup :=
    if !c.getLsbD 3 then s.ms.setup.filter (fun x => x != p)
    else if !old.getLsbD 3 && !s.ms.setup.contains p then s.ms.setup ++ [p] else s.ms.setup
  { s with ms := { s.ms with pcb := SMap.set 0 s.ms.pcb p c, setup := setup } }

/-- A queue's control block written from outside (R85). -/
def State.putQcb (s : State) (q : Nat) (v : W512) : State :=
  { s with ms := { s.ms with qcb := SMap.set 0 s.ms.qcb q (v &&& qcbFields) } }

/-- A byte written in a shelf window: the control blocks take it, every other offset ignores it (R82). DESIGN CHOICE (log 85):
the store of a trap handler that reaches the window (R80) is performed as one of firmware, and a write into the window of the event
recorder is ignored. -/
def State.shelfPut (s : State) (n off : Nat) : List Byte → State
  | [] => s
  | b :: bs =>
    let s1 :=
      if 0x10000 ≤ off ∧ off < 0x18000 then
        let q := (off - 0x10000) / 64 * 8 + n
        s.putQcb q (setByteOf (SMap.get 0 s.ms.qcb q) (off % 64) b)
      else if 0x20000 ≤ off ∧ off < 0x20800 then
        let p := (off - 0x20000) / 64 * 8 + n
        s.putPcb p (setByteOf (SMap.get 0 s.ms.pcb p) (off % 64) b)
      else s
    State.shelfPut s1 n (off + 1) bs

/-- Slots of the context area have keys below this; a live head that a replay has set aside has one above (R400). -/
def slotKeys : Nat := 2 ^ 20

/-- Where the live head of a tile stands while a replay is halted: no key of the context area. -/
def replaySlot (t : TileId) : Nat := 2 ^ 20 + t.val

/-- The address in DRAM of a stash offset's copy in a slot of the context area (R385, R386). -/
def State.slotByte (s : State) (k off : Nat) : Nat := s.cfg.contextBase + k * 0x680000 + 0x50000 + off

/-- The bytes of a saved line with D = 1: its copy in the slot (R387), or the live head's own (R400). -/
def State.savedBytes (s : State) (k : Nat) (sl : Slot) (off n : Nat) : List Byte :=
  if k < slotKeys then bytesAt s.mem (s.slotByte k off) n else bytesAt sl.img.stash.bytes off n

/-- A read of at most 64 bytes within one block at the memory point of a physical address, by a party other than the
owner of a stash line (R119, R269). -/
def State.readAt (s : State) (a n : Nat) : State × Res (List Byte) :=
  match regionOf a with
  | .host _ => (s, .ok (bytesAt s.mem a n))
  | .shelf k off => (s, .ok (s.shelfBytes k off n))
  | .reserved => (s, .ok (List.replicate n 0))
  | .dram =>
    match s.ownerOf a with
    | some (.tile o l) =>
      let x := (s.tile o).m.stash.read (s.tile o).dbg.dm (l * 256 + a % 256) n
      (s.modM o (fun m => { m with stash := x.1 }), x.2)
    | some (.slot k l) =>
      match s.slots.find? (fun e => e.1 == k) with
      | some (_, sl) =>
        if (sl.img.stash.line l).d then
          (s, if sl.img.stash.poisoned (l * 256 + a % 256) n || (decide (k < slotKeys) && s.poisoned (s.slotByte k (l * 256 + a % 256)) n)
            then .poison
            else .ok (s.savedBytes k sl (l * 256 + a % 256) n))
        else (s, if s.poisoned a n then .poison else .ok (bytesAt s.mem a n))
      | none => (s, .ok (bytesAt s.mem a n))
    | none => (s, if s.poisoned a n then .poison else .ok (bytesAt s.mem a n))

/-- The aligned 8-byte word lies in a live barrier object (R324, R329). -/
def State.inBarrier (s : State) (a : Nat) : Bool := s.ms.bars.any (fun b => b.1 / 16 == a / 16)

/-- A write to DRAM itself: the bytes, the S bit, and the poison of a block or word covered whole (R78, R389, R409). -/
def State.dramPut (s : State) (a : Nat) (bs : List Byte) : State :=
  let s1 := { s with mem := putBytes s.mem a bs }.markWrite a
  { s1 with ms := { s1.ms with
      poison := s1.ms.poison.filter (fun b => !(decide (a ≤ 64 * b) && decide (64 * b + 64 ≤ a + bs.length)))
      bad := s1.badAfter a bs.length } }

/-- The number of bytes of the aligned 8-byte words that `n` bytes from `a` on touch. -/
def wordSpan (a n : Nat) : Nat := (a % 8 + n + 7) / 8 * 8

/-- A record at the cycle of a saved member (R397): in the log that its slot holds, where the member was recorded; that of a live head
which a replay has set aside is its tile's. -/
def State.logSaved (s : State) (k : Nat) (sl : Slot) (r : LogRec) : State :=
  let e := (sl.img.ctr.cycle, r)
  if k < slotKeys then
    { s with slots := s.slots.map (fun x => if x.1 == k ∧ x.2.trace.proofs ≠ [] then
        (k, { x.2 with trace := { x.2.trace with log := x.2.trace.log ++ [e] } }) else x) }
  else s.modTile ⟨k % 128, Nat.mod_lt _ (by decide)⟩ (fun x =>
    if x.dbg.recording then { x with dbg := { x.dbg with trace := { x.dbg.trace with log := x.dbg.trace.log ++ [e] } } } else x)

/-- A write to a saved line with D = 1 (R387, R389): its copy in the slot, whose granule is marked, and the poison of a unit
covered whole; it enters the replay log (R397). -/
def State.savedPut (s : State) (k : Nat) (sl : Slot) (l a : Nat) (bs : List Byte) : State :=
  let off := l * 256 + a % 256
  let st := sl.img.stash
  let ln := st.line l
  let p := if off % 64 == 0 && bs.length == 64 then ln.poison &&& ~~~(unitBit off) else ln.poison
  let st1 := ({ st with
    bytes := if k < slotKeys then st.bytes else putBytes st.bytes off bs
    bad := st.badAfter off bs.length }).setLine l { ln with poison := p }
  let s1 := if k < slotKeys then s.dramPut (s.slotByte k off) bs else s
  let sl1 : Slot := { sl with img := { sl.img with stash := st1 } }
  let s2 : State := { s1 with slots := s1.slots.map (fun e => if e.1 == k then (k, sl1) else e) }
  s2.logSaved k sl (.remoteWrite (a / 8 * 8) (s2.savedBytes k sl1 (off / 8 * 8) (wordSpan off bs.length)))

/-- A write within one aligned 64-byte block at the memory point of a physical address, by a party other than the owner
of a stash line. It tests neither barriers nor joins. A write into a stash enters the replay log of its member (R397). -/
def State.putAt (s : State) (a : Nat) (bs : List Byte) : State × Res Unit :=
  match regionOf a with
  | .host _ => ({ s with mem := putBytes s.mem a bs }, .ok ())
  | .shelf k off => (s.shelfPut k off bs, .ok ())
  | .reserved => (s, .ok ())
  | .dram =>
    match s.ownerOf a with
    | some (.tile o l) =>
      let off := l * 256 + a % 256
      let x := (s.tile o).m.stash.write off bs
      let s1 := s.modM o (fun m => { m with stash := x.1 })
      (match x.2 with
      | .ok () => s1.logReplay o (.remoteWrite (a / 8 * 8) (bytesAt x.1.bytes (off / 8 * 8) (wordSpan off bs.length)))
      | .wait | .poison | .pending | .dropped => s1, x.2)
    | some (.slot k l) =>
      match s.slots.find? (fun e => e.1 == k) with
      | some (_, sl) =>
        if (sl.img.stash.line l).d then
          let off := l * 256 + a % 256
          if decide (k < slotKeys) && s.ceilHolds (s.slotByte k off) then (s, .wait)
          else (s.savedPut k sl l a bs, .ok ())
        else if s.ceilHolds a then (s, .wait) else (s.dramPut a bs, .ok ())
      | none => if s.ceilHolds a then (s, .wait) else (s.dramPut a bs, .ok ())
    | none => if s.ceilHolds a then (s, .wait) else (s.dramPut a bs, .ok ())

/-- Where in DRAM a write at a physical address lands, if it does: in no DRAM for a READY line of a stash; in the slot for a line of a
saved member with D = 1 (R119, R387). -/
def State.dramPlace (s : State) (a : Nat) : Option Nat :=
  match s.ownerOf a with
  | some (.tile o l) => if ((s.tile o).m.stash.line l).fill = .ready then none else some a
  | some (.slot k l) => (match s.slots.find? (fun e => e.1 == k) with
    | some (_, sl) =>
      if (sl.img.stash.line l).d then (if k < slotKeys then some (s.slotByte k (l * 256 + a % 256)) else none) else some a
    | none => some a)
  | none => some a

/-- Writes of a shelf at several addresses cannot be performed yet (R390). -/
def State.shelfHolds (s : State) (as : List Nat) : Bool := s.ceilAll (as.filterMap s.dramPlace)

/-- A write that a shelf makes for its own structures, within one 64-byte block, at the memory point of its words (R268, R269): a READY
line of a stash takes it; a line that has no data yet is written in DRAM, from which its fill will come. -/
def State.pointPut (s : State) (a : Nat) (bs : List Byte) : State :=
  match s.ownerOf a with
  | none => s.dramPut a bs
  | some _ =>
    let x := s.putAt a bs
    match x.2 with
    | .ok () => x.1.wake a bs.length
    | .wait | .poison | .pending | .dropped => s.dramPut a bs

/-- A write to a registered join word that never makes the record ready logs JOIN_WRITE (R342). -/
def State.joinNote (s : State) (src : Half) (a : Nat) : State :=
  if s.ms.joins.any (fun j => j.1 == a / 8) then s.logEvent 0x0C src (evData (a / 8 * 8) 1) else s

/-- A plain write at a memory point (R269, R322, R329, R342): a live barrier word drops it; a registered join word takes
it and logs JOIN_WRITE with the writer's SRC. A watch table wakes for the writers that R322 lists (`wakes`), the stash that owns a
word for every write. -/
def State.writeAt (s : State) (src : Half) (a : Nat) (mt : BitVec 2) (wakes : Bool) (bs : List Byte) : State × Res Unit :=
  if regionOf a = .dram ∧ s.inBarrier a then (s, .dropped)
  else
    let x := s.putAt a bs
    match x.2 with
    | .ok () =>
      let s1 := x.1.joinNote src a
      (if (wakes = true ∧ mt = 0) ∨ (s.ownerOf a).isSome then s1.wake a bs.length else s1, .ok ())
    | r => (x.1, r)

/-- Where an access that a tile has routed goes: a line of the own stash that another stash has registered since belongs to that
one (R118, R269, log 37). -/
def State.homeOf (s : State) (t : TileId) (tgt : Target) : Target :=
  match tgt with
  | .own off => (match (s.tile t).m.stash.paOf off with
    | some a => (match s.ownerOf a with
      | some o => if o = .tile t (off / 256) then .own off else .pa a 0
      | none => .own off)
    | none => .own off)
  | .pa a mt => .pa a mt

/-- A read of a tile's own access (R114): its stash port, or the memory point. -/
def State.readT (s : State) (t : TileId) (tgt : Target) (n : Nat) : State × Res (List Byte) :=
  match s.homeOf t tgt with
  | .own off =>
    let x := (s.tile t).m.stash.read (s.tile t).dbg.dm off n
    (s.modM t (fun m => { m with stash := x.1 }), x.2)
  | .pa a _ => s.readAt a n

/-- An access leaves the tile. -/
def Target.leaves : Target → Bool
  | .own _ => false
  | .pa _ _ => true

/-- Starts the fill of an EMPTY line (R116). -/
def State.touch (s : State) (t : TileId) (tgt : Target) : State :=
  match tgt with
  | .own off =>
    let x := (s.tile t).m.stash
    let l := off / 256
    if (x.line l).fill = .empty then
      s.modM t (fun m => { m with stash := m.stash.setLine l { m.stash.line l with fill := .filling } })
    else s
  | .pa _ _ => s

/-- Starts the fill of the EMPTY line of a stash that a physical address lies in (R116, R119). -/
def State.touchAt (s : State) (a : Nat) : State :=
  match s.ownerOf a with
  | some (.tile o l) => s.touch o (.own (256 * l))
  | some (.slot _ _) | none => s

/-- A target in the own stash on a READY line. -/
def Member.ownReady (m : Member) (tgt : Target) : Bool :=
  match tgt with
  | .own off => (m.stash.line (off / 256)).fill == .ready
  | .pa _ _ => false

/-- A plain write of a tile's own access. A write in the own stash wakes the registrations on its word (R322). -/
def State.writeT (s : State) (t : TileId) (tgt : Target) (wakes : Bool) (bs : List Byte) : State × Res Unit :=
  match s.homeOf t tgt with
  | .own off =>
    let x := (s.tile t).m.stash.write off bs
    let s1 := s.modM t (fun m => { m with stash := x.1 })
    match x.2, (s.tile t).m.stash.paOf off with
    | .ok (), some a => ((s1.joinNote (srcTile t) a).wake a bs.length, .ok ())
    | r, _ => (s1, r)
  | .pa a mt => s.writeAt (srcTile t) a mt wakes bs

/-- A watched word (R322, R424): MT 00 memory, or a word of a live stash range. -/
def State.watched (s : State) : Target → Bool
  | .own _ => true
  | .pa a mt => (mt == 0 && (regionOf a == .dram)) || (s.ownerOf a).isSome

/-- Every wait on a word that is not watched reads it again (R322). -/
def State.wakeUnwatched (s : State) : State :=
  { s with tiles := vmap s.tiles (fun x =>
      match x.m.su.wait with
      | .waita _ _ _ tgt _ | .barWait _ _ tgt _ _ =>
        if s.watched tgt then x else { x with m := { x.m with su := { x.m.su with wait := x.m.su.wait.wake } } }
      | .no | .again _ | .drain .. | .acq _ | .trap .. | .eret _ | .retired => x) }

/-! ### Renewal of check bits (R78, R117) -/

/-- The 64-byte unit that a target lies in: of the own stash, or of physical memory. -/
def Target.unit : Target → Bool × Nat
  | .own off => (true, off / 64)
  | .pa a _ => (false, a / 64)

/-- The place of a target's first byte. -/
def Target.place : Target → Nat
  | .own off => off
  | .pa a _ => a

/-- The stash line that holds a target, if one does (R119, R387). -/
def State.lineAt (s : State) (t : TileId) (tgt : Target) : Option (Owner × Nat) :=
  match s.homeOf t tgt with
  | .own off => some (.tile t (off / 256), off)
  | .pa a _ => match s.ownerOf a with
    | some (.tile o l) => some (.tile o l, l * 256 + a % 256)
    | some (.slot k l) => match s.slots.find? (fun e => e.1 == k) with
      | some (_, sl) => if (sl.img.stash.line l).d then some (.slot k l, l * 256 + a % 256) else none
      | none => none
    | none => none

/-- The poison of one unit of a stash clears. -/
def Stash.renew (x : Stash) (off : Nat) : Stash :=
  let st := x.line (off / 256)
  x.setLine (off / 256) { st with poison := st.poison &&& ~~~(unitBit off) }

/-- The unit that a target lies in is poisoned (R78, R117). -/
def State.unitBad (s : State) (t : TileId) (tgt : Target) : Bool :=
  match s.lineAt t tgt with
  | some (.tile o _, off) => ((s.tile o).m.stash.line (off / 256)).poison &&& unitBit off != 0
  | some (.slot k _, off) => s.slots.any (fun e => e.1 == k && (e.2.img.stash.line (off / 256)).poison &&& unitBit off != 0)
    || (decide (k < slotKeys) && s.ms.poison.contains (s.slotByte k off / 64))
  | none => s.ms.poison.contains (tgt.place / 64)

/-- The check bits of the unit that a target lies in are renewed (R78, R117). -/
def State.unitRenew (s : State) (t : TileId) (tgt : Target) : State :=
  match s.lineAt t tgt with
  | some (.tile o _, off) => s.modM o (fun m => { m with stash := m.stash.renew off })
  | some (.slot k _, off) => { s with
      slots := s.slots.map (fun e =>
        if e.1 == k then (e.1, { e.2 with img := { e.2.img with stash := e.2.img.stash.renew off } }) else e)
      ms := if k < slotKeys then { s.ms with poison := s.ms.poison.erase (s.slotByte k off / 64) } else s.ms }
  | none => { s with ms := { s.ms with poison := s.ms.poison.erase (tgt.place / 64) } }

/-- A live barrier object lies in a 64-byte unit of memory: its words are dropped (R329). -/
def State.unitBar (s : State) (tgt : Target) : Bool :=
  match tgt with
  | .own _ => false
  | .pa a _ => s.ms.bars.any (fun b => b.1 / 64 == a / 64)

/-- The bytes written cover the aligned span of `n` bytes that holds a target. -/
def coversSpan (n : Nat) (ws : List (Target × Nat)) (tgt : Target) : Bool :=
  (List.range n).all (fun k => ws.any (fun w => w.1.unit.1 == tgt.unit.1 && decide (w.1.place ≤ tgt.place / n * n + k)
    && decide (tgt.place / n * n + k < w.1.place + w.2)))

/-- The 8-byte word of a target is poisoned (R409). -/
def State.wordBad (s : State) (t : TileId) (tgt : Target) : Bool :=
  match s.lineAt t tgt with
  | some (.tile o _, off) => (s.tile o).m.stash.bad.contains (off / 8)
  | some (.slot k _, off) => s.slots.any (fun e => e.1 == k && e.2.img.stash.bad.contains (off / 8))
  | none => s.ms.bad.contains (tgt.place / 8)

/-- The check bits of the 8-byte word of a target are renewed (R409). -/
def State.wordRenew (s : State) (t : TileId) (tgt : Target) : State :=
  let f := fun (off : Nat) (x : Stash) => { x with bad := x.bad.erase (off / 8) }
  match s.lineAt t tgt with
  | some (.tile o _, off) => s.modM o (fun m => { m with stash := f off m.stash })
  | some (.slot k _, off) => { s with slots := s.slots.map (fun e =>
      if e.1 == k then (e.1, { e.2 with img := { e.2.img with stash := f off e.2.img.stash } }) else e) }
  | none => { s with ms := { s.ms with bad := s.ms.bad.erase (tgt.place / 8) } }

/-- A write has been performed, as the targets and lengths of its pieces: each poisoned unit and each poisoned word that it covers
whole is renewed (R78, R117, R409, log 41). -/
def State.renew (s : State) (t : TileId) (ws : List (Target × Nat)) : State :=
  ws.foldl (fun st w =>
    let st1 := if st.unitBad t w.1 && !st.unitBar w.1 && coversSpan 64 ws w.1 then st.unitRenew t w.1 else st
    if st1.wordBad t w.1 && !st1.unitBar w.1 && coversSpan 8 ws w.1 then st1.wordRenew t w.1 else st1) s

/-! ### Translation (R92 to R101) -/

/-- The kind of an access (R99, R104). -/
inductive AccKind where
  | read | write | rmw | fetch
  deriving DecidableEq, Repr

/-- KIND of R104. -/
def AccKind.code : AccKind → BitVec 2
  | .read => 0 | .write => 1 | .rmw => 2 | .fetch => 3

/-- The number that `n` bytes of one line hold at their memory point (R106, R119, R387): the bytes of a READY stash line whatever is
on its way to them, of a saved line with D = 1, or of memory. Poison does not change the bytes. -/
def State.peek (s : State) (a n : Nat) : Nat :=
  match regionOf a, s.ownerOf a with
  | .shelf k off, _ => natOfBytes (s.shelfBytes k off n)
  | .dram, some (.tile o l) =>
    let x := (s.tile o).m.stash
    if (x.line l).fill = .ready then numAt x.bytes (l * 256 + a % 256) n else numAt s.mem a n
  | .dram, some (.slot k l) => (match s.slots.find? (fun e => e.1 == k) with
    | some (_, sl) => if (sl.img.stash.line l).d then natOfBytes (s.savedBytes k sl (l * 256 + a % 256) n) else numAt s.mem a n
    | none => numAt s.mem a n)
  | .dram, none | .host _, _ | .reserved, _ => numAt s.mem a n

/-- A read that leaves the stash enters the replay log with the 64 bytes of its unit (R397). -/
def State.logRead (s : State) (t : TileId) (va : W64) (tgt : Target) : State :=
  match tgt with
  | .own _ => s
  | .pa a _ => s.logReplay t (.read (va &&& ~~~(63 : W64)) (bytesOfNat 64 (s.peek (a / 64 * 64) 64)))

/-- An entry of a page table read as one 8-byte word (R98). DESIGN CHOICE (log 103): a table whose base lies outside DRAM is no
failure that R104 lists, and its entries are the bytes found there. -/
def State.pte (s : State) (a : Nat) : W64 := BitVec.ofNat 64 (s.peek a 8)

/-- R96 for an entry with V = 1 at a level. -/
def pteBad (e : W64) (lvl : Nat) : Bool :=
  let leaf := e.getLsbD 1
  let base := fld e 16 32 * 65536
  let mt := fld e 6 2
  let k := e.getLsbD 5
  let w := e.getLsbD 3
  let r := e.getLsbD 2
  let top := base + (if lvl = 1 then 2 ^ 42 else if lvl = 2 then 2 ^ 29 else 2 ^ 16)
  fld e 48 16 != 0 || fld e 8 8 != 0 || mt == 3 || (lvl == 3 && !leaf)
    || (!leaf && fld e 2 6 != 0)
    || (leaf && lvl == 1 && fld e 16 26 != 0) || (leaf && lvl == 2 && fld e 16 13 != 0)
    || (leaf && w && !r)
    || (leaf && ((decide (base < 0x8000000000) && mt == 2)
        || (decide (base < 0x800000000000) && decide (0x400000000000 < top) && mt != 2)
        || (decide (base < 0x10000800000) && decide (0x10000000000 < top) && (!k || mt != 1))))

/-- R99: none where the access is permitted, else KERNEL or PERM. -/
def permBad (e : W64) (kind : AccKind) (handler : Bool) : Option (BitVec 8) :=
  let r := e.getLsbD 2
  let w := e.getLsbD 3
  let x := e.getLsbD 4
  if e.getLsbD 5 && !handler then some 6
  else if (match kind with | .read => r | .write => w | .rmw => r && w | .fetch => x) then none
  else some 5

/-- What a walk finds: a leaf with the bits of its page offset, or a reason of R104. -/
inductive Walk where
  | leaf (e : W64) (span : Nat)
  | bad (reason : BitVec 8)
  deriving DecidableEq, Repr

/-- The levels of the walk (R98), from `lvl` with `fuel` levels left. -/
def State.walkFrom (s : State) (va : W64) : Nat → Nat → Nat → Walk
  | 0, _, _ => .bad 4
  | fuel + 1, lvl, t =>
    let ix := if lvl = 1 then fld va 42 13 else if lvl = 2 then fld va 29 13 else fld va 16 13
    let e := s.pte (t + 8 * ix)
    if !e.getLsbD 0 then .bad 3
    else if pteBad e lvl then .bad 4
    else if e.getLsbD 1 then .leaf e (if lvl = 1 then 42 else if lvl = 2 then 29 else 16)
    else State.walkFrom s va fuel (lvl + 1) (fld e 16 32 * 65536)

/-- The walk of R98 without its permission check. -/
def State.walk (s : State) (asid : BitVec 12) (va : W64) : Walk :=
  if fld va 55 9 ≠ 0 then .bad 1
  else
    let e := s.pte (s.cfg.rootBase + 8 * asid.toNat)
    if !e.getLsbD 0 then .bad 2 else s.walkFrom va 3 1 (fld e 16 32 * 65536)

/-- The engine classes of the TLBs (R100). -/
inductive EngCls where
  | su | vu | mu | cu | ce
  deriving DecidableEq, Repr

/-- The number of a TLB class; the collective engine uses the die's last-level TLB alone. -/
def EngCls.code : EngCls → BitVec 2
  | .su => 0 | .vu => 1 | .mu => 2 | .cu => 3 | .ce => 3

/-- A cached leaf for an address in a list of TLB entries. -/
def tlbFind (l : List TlbEntry) (asid : BitVec 12) (va : W64) : Option TlbEntry :=
  l.find? (fun e => e.asid == asid && decide (va.toNat / 2 ^ e.span = e.page))

/-- The outcome of a translation: a physical address with its memory type, a reason of R104, or an entry that maps a shelf window
and is used from outside a handler (R80). -/
inductive Trans where
  | pa (a : Nat) (mt : BitVec 2)
  | bad (reason : BitVec 8)
  | range
  deriving DecidableEq, Repr

/-- A leaf maps a shelf window (R80, R96). -/
def leafShelf (e : W64) (span : Nat) : Bool :=
  decide (fld e 16 32 * 65536 < 0x10000800000) && decide (0x10000000000 < fld e 16 32 * 65536 + 2 ^ span)

/-- The address of a leaf (R98) after the permission check (R99). DEDUCED (log 86): an entry that maps a shelf window gives
PA_RANGE outside a handler, as R80 says of such entries, and not the KERNEL of R99. -/
def leafPa (e : W64) (span : Nat) (va : W64) (kind : AccKind) (handler : Bool) : Trans :=
  if leafShelf e span && !handler then .range
  else match permBad e kind handler with
  | some r => .bad r
  | none => .pa (fld e 16 32 * 65536 + va.toNat % 2 ^ span) (e.extractLsb' 6 2)

/-- A leaf enters a list of entries that holds `cap` of its class; the oldest one leaves (R100). Which entry leaves moves only
timing (R101). -/
def tlbPut (cap : Nat) (same : TlbEntry → Bool) (l : List TlbEntry) (e : TlbEntry) : List TlbEntry :=
  let full := decide (cap ≤ (l.filter same).length)
  e :: (if full then (match (l.filter same).getLast? with | some o => l.reverse.erase o |>.reverse | none => l) else l)

/-- Translates for an engine class of a tile (R98 to R101). Where a cached entry differs from the walk, a free bit chooses
between them (R101). A translation that succeeds is cached, one that fails is not: 64 entries for each class of a tile, 16,384
for a die (R100). -/
def State.translate (s : State) (t : TileId) (c : EngCls) (asid : BitVec 12) (va : W64) (kind : AccKind)
    (handler : Bool) : State × Trans :=
  let d := dieOfTile t
  let dieTlb := s.dies[d.val].tlb
  let own := (s.tile t).tlb.filter (fun e => e.cls == c.code && c != .ce)
  let fresh := s.walk asid va
  let freshT := match fresh with | .leaf e span => leafPa e span va kind handler | .bad r => .bad r
  match tlbFind (own ++ dieTlb) asid va with
  | some c1 =>
    if fresh = .leaf c1.entry c1.span then (s, freshT)
    else
      let fb := s.freeBit
      if fld va 55 9 = 0 ∧ fb.1 = true then (fb.2, leafPa c1.entry c1.span va kind handler) else (fb.2, freshT)
  | none =>
    match fresh, freshT with
    | .leaf e span, .pa _ _ =>
      let ent : TlbEntry := ⟨c.code, asid, va.toNat / 2 ^ span, span, e⟩
      let s1 := if c = .ce then s else s.modTile t (fun x => { x with tlb := tlbPut 64 (fun y => y.cls == c.code) x.tlb ent })
      (s1.modDie d (fun x => { x with tlb := tlbPut 16384 (fun _ => true) x.tlb ent }), freshT)
    | .leaf _ _, _ | .bad _, _ => (s, freshT)

/-- Where an access of a tile goes after the checks of R188 steps 2 to 4: its own stash, a physical address, a
translation that fails with its reason, or a reserved address (PA_RANGE). -/
inductive Routed where
  | to (tgt : Target)
  | tfault (reason : BitVec 8)
  | paRange
  deriving DecidableEq, Repr

/-- Reserved addresses, and shelf windows reached from outside a handler (R80). -/
def paRangeBad (a : Nat) (handler : Bool) : Bool :=
  match regionOf a with
  | .reserved => true
  | .shelf _ _ => !handler
  | .dram | .host _ => false

/-- Routing and translation of one access (R114, R188). -/
def State.routeT (s : State) (t : TileId) (c : EngCls) (asid : BitVec 12) (va : W64) (kind : AccKind) (handler : Bool) :
    State × Routed :=
  match (if c = .ce then none else (s.tile t).m.stash.route asid va.toNat) with
  | some off => (s, .to (.own off))
  | none =>
    let x := s.translate t c asid va kind handler
    match x.2 with
    | .bad r => (x.1, .tfault r)
    | .range => (x.1, .paRange)
    | .pa a mt => if paRangeBad a handler then (x.1, .paRange) else (x.1, .to (.pa a mt))

/-! ### Fills and write-backs (R116, R118, R120, R121) -/

/-- The fill of a FILLING line completes: the 256 bytes of its block, with the poison of its units (R116, R117)
and of its words (R409). The slice drops its copy (R118). -/
def State.fillLine (s : State) (t : TileId) (l : Nat) : State :=
  let x := (s.tile t).m.stash
  match (x.line l).fill, x.paOf (l * 256) with
  | .filling, some a =>
    let p : BitVec 4 := BitVec.ofNat 4
      ((if s.ms.poison.contains (a / 64) then 1 else 0) + (if s.ms.poison.contains (a / 64 + 1) then 2 else 0)
        + (if s.ms.poison.contains (a / 64 + 2) then 4 else 0) + (if s.ms.poison.contains (a / 64 + 3) then 8 else 0))
    let x1 := ({ x with
      bytes := putBytes x.bytes (l * 256) (bytesAt s.mem a 256)
      bad := x.badAfter (l * 256) 256 ++ (s.ms.bad.filter (fun w => w / 32 == a / 256)).map (fun w => l * 32 + w % 32)
      }).setLine l ⟨.ready, false, false, p⟩
    ({ s with ms := { s.ms with
        l2 := s.ms.l2.filter (fun k => k / 4 != a / 256), bad := s.badAfter a 256 } }).modM t (fun m => { m with stash := x1 })
  | _, _ => s

/-- The snapshot of a READY line with D = 1 written to its physical address (R120): D clears. Shadowing (`clearI`) writes a line with
I = 1 as well and clears I too (R122). A poisoned unit keeps its poison (R78). -/
def State.writeBack (s : State) (t : TileId) (l : Nat) (clearI : Bool) : State :=
  let x := (s.tile t).m.stash
  let st := x.line l
  match x.paOf (l * 256) with
  | some a =>
    if st.fill = .ready ∧ (st.d || (clearI && st.i)) = true then
      let s1 := { s with mem := putBytes s.mem a (bytesAt x.bytes (l * 256) 256) }.markWrite a
      let units := (List.range 4).map (fun k => (a / 64 + k, x.poisoned (l * 256 + 64 * k) 64))
      let pz := units.foldl (fun p u => if u.2 then (if p.contains u.1 then p else p ++ [u.1]) else p.erase u.1) s1.ms.poison
      let s2 := { s1 with ms := { s1.ms with poison := pz, bad := s1.badAfter a 256 } }
      s2.modM t (fun m => { m with stash := m.stash.setLine l { st with d := false, i := st.i && !clearI } })
    else s
  | none => s

/-- The directory record of a block goes, where it names this line of the tile (R118, R121). -/
def State.dropRecord (s : State) (t : TileId) (l a : Nat) : State :=
  if s.ownerOf a = some (.tile t l) then { s with ms := { s.ms with dir := SMap.erase s.ms.dir (a / 256) } } else s

/-- Releases one line of a range at its slice (R121): the snapshot, the directory record, the line. -/
def State.releaseLine (s : State) (t : TileId) (l : Nat) : State :=
  let s1 := s.writeBack t l false
  let s2 := match (s.tile t).m.stash.paOf (l * 256) with
    | some a => s1.dropRecord t l a
    | none => s1
  s2.modM t (fun m => { m with stash :=
    { m.stash.setLine l blankLine with
      bytes := putBytes m.stash.bytes (l * 256) (List.replicate 256 blankByte), bad := m.stash.badAfter (l * 256) 256 } })

/-- The lines of an entry. -/
def MapEntry.lineList (e : MapEntry) : List Nat := (List.range (e.size / 256)).map (fun k => e.soff.toNat * 16 + k)

/-- A target lies in a line of the own stash. -/
def Target.inLine (l : Nat) : Target → Bool
  | .own off => off / 256 == l
  | .pa _ _ => false

/-- A line fills, or an access that the tile's steering or vector unit routed to it has still to be applied (R121). -/
def Member.lineBusy (m : Member) (l : Nat) : Bool :=
  (m.stash.line l).fill == .filling
    || m.su.loads.any (fun x => x.got.isNone && x.tgt.inLine l)
    || m.su.stores.any (fun x => x.tgt.inLine l)
    || (m.vu.lq ++ m.vu.sq).any (fun x => x.rest.any (fun a => a.tgt.inLine l) || x.writes.any (fun w => w.1.inLine l))

/-- A line whose write-back has to wait for the ceiling (R390). -/
def State.lineHeld (s : State) (t : TileId) (l : Nat) : Bool :=
  let x := (s.tile t).m.stash
  (x.line l).d && (match x.paOf (l * 256) with | some a => s.ceilHolds a | none => false)

/-- What one step of the release of an entry comes to (R121). -/
inductive Release where
  | step (s : State)
  | held
  | done (s : State)
  deriving DecidableEq, Repr

/-- The next step of the release of an entry (R121): it closes; its next line is released, once the line is not busy and its
write-back need not wait; at the end the entry is free. -/
def State.releaseStep (s : State) (t : TileId) (i : Fin 64) : Release :=
  let m := (s.tile t).m
  let e := m.stash.map[i.val]
  let put := fun (st : State) (v : MapEntry) =>
    st.modM t (fun m => { m with stash := { m.stash with map := m.stash.map.set i.val v } })
  let l := e.soff.toNat * 16 + e.gone
  if e.st ≠ .closing then .step (put s { e with st := .closing })
  else if e.size / 256 ≤ e.gone then .done (put s MapEntry.reset)
  else if m.lineBusy l || s.lineHeld t l then .held
  else .step (put (s.releaseLine t l) { e with gone := e.gone + 1 })

/-- The next step of the release of every live range of a member, in ascending entry index (R350). -/
def State.releaseRanges (s : State) (t : TileId) : Release :=
  match (List.finRange 64).find? (fun i => (s.tile t).m.stash.map[i.val].serves) with
  | some i => (match s.releaseStep t i with | .done s1 => .step s1 | r => r)
  | none => .done s

end Sys2Proof.Machine
end

