-- ==== Sys2Proof/Machine/Work.lean ====
section
/-! DEFINITION. Semaphore posts, task records and level entries, task queues and pools, and the end of a member
(R73, R84 to R89, R317 to R319, R330 to R337, R350, R354). -/

namespace Sys2Proof.Machine

/-! ### Semaphores -/

/-- The largest value of a semaphore. -/
def semMax : Nat := 2 ^ 24 - 1

/-- The value of a semaphore. -/
def Member.sem (m : Member) (n : BitVec 8) : Nat := (m.sems.val[(r8 n).val]).toNat
/-- P of a semaphore. -/
def Member.semP (m : Member) (n : BitVec 8) : Nat := (m.sems.p[(r8 n).val]).toNat
/-- Q of a semaphore. -/
def Member.semQ (m : Member) (n : BitVec 8) : Nat := (m.sems.q[(r8 n).val]).toNat

/-- Replaces the value of a semaphore. -/
def Member.setSem (m : Member) (n : BitVec 8) (v : Nat) : Member :=
  { m with sems := { m.sems with val := m.sems.val.set (r8 n).val (BitVec.ofNat 24 v) } }
/-- Replaces P of a semaphore. -/
def Member.setP (m : Member) (n : BitVec 8) (v : Nat) : Member :=
  { m with sems := { m.sems with p := m.sems.p.set (r8 n).val (BitVec.ofNat 24 v) } }
/-- Replaces Q of a semaphore. -/
def Member.setQ (m : Member) (n : BitVec 8) (v : Nat) : Member :=
  { m with sems := { m.sems with q := m.sems.q.set (r8 n).val (BitVec.ofNat 24 v) } }

/-- A local semaphore (R318). -/
def isLocal (n : BitVec 8) : Bool := decide (n.toNat < 192)

/-- A post to a semaphore of a member (R73, R319): an external one saturates. P is left as it is. -/
def Member.post (m : Member) (n : BitVec 8) (v : Nat) (by_ : Poster) : Member :=
  let old := m.sem n
  let new := if isLocal n then old + v else min (old + v) semMax
  let m1 := m.setSem n new
  { m1 with sems := { m1.sems with posts := ⟨n, old, new, by_, m.ctr.cycle⟩ :: m1.sems.posts } }

/-- A post that the tile's own code or commands make: it is not logged for replay. Where an external semaphore saturates, the posts of
the cycle log one SEM_SATURATE, since they apply as one sum (R319, R410). -/
def State.postOwn (s : State) (t : TileId) (n : BitVec 8) (v : Nat) (by_ : Poster) : State :=
  let m := (s.tile t).m
  let s1 := s.modM t (fun m => m.post n v by_)
  if !isLocal n && decide (semMax < m.sem n + v) && !m.sems.sat.contains n then
    (s1.modM t (fun m => { m with sems := { m.sems with sat := n :: m.sems.sat } })).logEvent 0x0B (srcTile t)
      (evData 0 (n.toNat * 256 + t.val))
  else s1

/-- A post to a semaphore of a tile's member (R73, R319): an external one enters the replay log (R397). -/
def State.post (s : State) (t : TileId) (n : BitVec 8) (v : Nat) (by_ : Poster) : State :=
  let s1 := s.postOwn t n v by_
  if isLocal n then s1 else s1.logReplay t (.post n v by_)

/-! ### Queues and requests -/

/-- The depth of a queue (R69). -/
def qCap : QId → Nat
  | .mu => 16 | .cu => 32 | .vu => 8 | .ce => 8

/-- The entries in use: a started collective-engine command stays in its queue until it completes (R292). A started
command of another engine holds no entry (DEDUCED, log 34). -/
def State.qUsed (s : State) (t : TileId) (q : QId) : Nat :=
  let m := (s.tile t).m
  match q with
  | .mu => m.q.mu.length
  | .cu => m.q.cu.length
  | .vu => m.q.vu.length
  | .ce => m.q.ce.length + s.dies.toList.foldl (fun n d => n + (d.ce.filter (fun r => r.home == .tile t 0)).length) 0

/-- A tile's request enters the FIFO of its die's arbiter: requests of one fabric cycle go in the order of tile ids (R364). -/
def State.request (s : State) (t : TileId) : State :=
  let d := dieOfTile t
  let s0 := s.inCycle (fun f => decide (f.requests[d.val] ≤ t.val))
  { s0 with fab := { s0.fab with requests := s0.fab.requests.set d.val t.val } }.modDie d
    (fun x => { x with fifo := x.fifo ++ [t] })

/-! ### Releases (R273) -/

/-- Every store of the steering unit that a release of a scope covers has landed (R273): those that issued before the push. -/
def State.releaseOk (s : State) (t : TileId) (marks : Nat) (sc : Scope) : Bool :=
  !((s.tile t).m.su.stores.any (fun x => decide (x.id < marks) && decide (scopeRank (s.scopeOf t x.tgt) ≤ scopeRank sc)))

/-- The post of a completed command applies (R73): P already counted it. `pcl` is the class of the poster (R401). -/
def State.postNow (s : State) (t : TileId) (c : Cmd) (pcl : BitVec 4) : State :=
  match c.post with
  | some p => s.postOwn t p.sem p.inc.toNat ⟨pcl, BitVec.ofNat 7 t.val, c.seq.setWidth 32⟩
  | none => s

/-- The posts of completed commands whose stores have landed apply (R273). -/
def State.applyRel (s : State) (t : TileId) : State :=
  (s.tile t).m.rel.foldl (fun st e =>
    if st.releaseOk t e.1.marks e.1.scope then
      (st.modM t (fun m => { m with rel := m.rel.erase e })).postNow t e.1 e.2
    else st) s

/-- A tile holds a member: it runs, is stopped, or waits in the arbiter for the class it starts with (R367, R388). -/
def State.holdsMember (s : State) (t : TileId) : Bool :=
  let x := s.tile t
  x.st == .running || x.st == .stopped || (x.st == .claimed && (s.dies[(dieOfTile t).val]).fifo.contains t)

/-- A replay stands on the tile in place of the live head (R398). -/
def Tile.replays (x : Tile) : Bool := x.dbg.hst == .replayHalt || x.dbg.hst == .replaying

/-- A tile holds a resident member of a job (R317, R405). While a replay stands on the tile the live head is served as one that is not
resident (R400). -/
def State.residentOf (s : State) (t : TileId) (job : BitVec 12) : Bool :=
  s.holdsMember t && !(s.tile t).replays && (s.tile t).m.job == job

/-- The slot of the member of a job most recently saved from a tile and not restored (R317). -/
def State.savedFrom (s : State) (t : TileId) (job : BitVec 12) : Option Nat :=
  ((s.slots.filter (fun e => !e.2.restored && e.2.from_ == t && e.2.img.job == job)).foldl
    (fun (best : Option (Nat × Nat)) e =>
      match best with
      | some (k, st) => if st < e.2.stamp then some (e.1, e.2.stamp) else some (k, st)
      | none => some (e.1, e.2.stamp)) none).map (fun b => b.1)

/-- Changes a slot of the context area. -/
def State.modSlot (s : State) (k : Nat) (f : Slot → Slot) : State :=
  { s with slots := s.slots.map (fun e => if e.1 == k then (k, f e.2) else e) }

/-- A post between tiles lands (R317): on the resident member, else with the saved image, else it is dropped and logged.
`level` marks a level-completion post, whose event names the entry's shelf. -/
def State.landTilePost (s : State) (src : TileId) (level : Option Nat) (dst : TileId) (job : BitVec 12) (n : BitVec 8)
    (v : Nat) : State :=
  let by_ : Poster := ⟨if level.isSome then 8 else 5, BitVec.ofNat 7 src.val, 0⟩
  if s.residentOf dst job then s.post dst n v by_
  else
    match s.savedFrom dst job with
    | some k => s.modSlot k (fun x => { x with posts := x.posts ++ [(n, v, by_)] })
    | none =>
      match level with
      | some sh => s.logEvent 0x14 (srcShelf sh) (evData 0 (dst.val * 256 + n.toNat * 65536 + 2 ^ 24))
      | none => s.logEvent 0x14 (srcTile src) (evData 0 (src.val + dst.val * 256 + n.toNat * 65536))

/-! ### Task records (R334) -/

/-- A field of a task record replaced. -/
def setFld {n : Nat} (d : BitVec n) (lo len v : Nat) : BitVec n :=
  (d &&& ~~~(BitVec.ofNat n ((2 ^ len - 1) * 2 ^ lo))) ||| BitVec.ofNat n (v % 2 ^ len * 2 ^ lo)

/-- CKEY. -/
def recCkey (r : W512) : Nat := fld r 480 32
/-- CV. -/
def recCv (r : W512) : Bool := r.getLsbD 473
/-- TV. -/
def recTv (r : W512) : Bool := r.getLsbD 472
/-- TIDX. -/
def recTidx (r : W512) : Nat := fld r 464 8
/-- TDIE. -/
def recTdie (r : W512) : DieId := if r.getLsbD 463 then 1 else 0
/-- CX. -/
def recCx (r : W512) : Bool := r.getLsbD 458
/-- CTD. -/
def recCtd (r : W512) : Bool := r.getLsbD 457
/-- AF. -/
def recAf (r : W512) : Bool := r.getLsbD 456
/-- POOL. -/
def recPool (r : W512) : BitVec 8 := r.extractLsb' 448 8
/-- QUEUE. -/
def recQueue (r : W512) : BitVec 12 := r.extractLsb' 408 12
/-- ASID. -/
def recAsid (r : W512) : BitVec 12 := r.extractLsb' 396 12
/-- OP. -/
def recOp (r : W512) : Nat := fld r 388 4
/-- GEAR. -/
def recGear (r : W512) : Bool := r.getLsbD 387
/-- GANG. -/
def recGang (r : W512) : Nat := fld r 384 3
/-- JOB. -/
def recJob (r : W512) : BitVec 12 := r.extractLsb' 320 12
/-- The id of a level in a record. -/
def recLevel (r : W512) (k : Nat) : Nat :=
  match k with | 0 => fld r 368 16 | 1 => fld r 336 16 | 2 => fld r 352 16 | _ => fld r 320 12
/-- LREC. -/
def recLrec (r : W512) : W64 := (r.extractLsb' 256 55).setWidth 64
/-- JOIN. -/
def recJoin (r : W512) : W64 := (r.extractLsb' 192 55).setWidth 64
/-- FP. -/
def recFp (r : W512) : W64 := r.extractLsb' 128 64
/-- VCB. -/
def recVcb (r : W512) : W64 := (r.extractLsb' 64 55).setWidth 64
/-- SPC. -/
def recSpc (r : W512) : W64 := (r.extractLsb' 0 55).setWidth 64

/-- The reserved bits of a task record are 0 (R334). -/
def recReservedOk (r : W512) : Bool :=
  fld r 474 6 == 0 && fld r 459 4 == 0 && fld r 420 28 == 0 && fld r 395 1 == 0 && fld r 332 4 == 0 && fld r 311 9 == 0
    && fld r 247 9 == 0 && fld r 119 9 == 0 && fld r 55 9 == 0

/-- Reason 2 of R336: a nonzero reserved bit, GANG 5 to 7, or OP 14 or 15. -/
def recBad2 (r : W512) : Bool := !recReservedOk r || decide (4 < recGang r) || decide (13 < recOp r)

/-- The checks of `spawn` on a template (R344): none, or the reason of CMD_ERROR: 2 for a reserved bit or a field that must
be 0, 5 for GANG or OP out of range (DEDUCED, log 23). `ctd` is whether CTD must be 0. -/
def recSpawnCheck (r : W512) (ctd : Bool) : Option (BitVec 8) :=
  if !recReservedOk r || recTv r || r.getLsbD 463 || (ctd && recCtd r) || recCv r || recCkey r ≠ 0 then some 2
  else if decide (4 < recGang r) || decide (13 < recOp r) then some 5
  else none

/-- The number of tiles of a gang shape (R337). -/
def gangSize (code : Nat) : Nat := 2 ^ code

/-! ### Level entries (R330 to R332) -/

/-- The address of a level entry: launch, graph, step and job areas in that order (DEDUCED, log 24). -/
def State.levelAddr (s : State) (k id : Nat) : Nat := s.cfg.levelBase + (k * 65536 + id) * 32

/-- A level entry. -/
def State.levelEntry (s : State) (k id : Nat) : BitVec 256 := BitVec.ofNat 256 (s.peek (s.levelAddr k id) 32)

/-- Writes a level entry at its shelf. -/
def State.setLevel (s : State) (k id : Nat) (e : BitVec 256) : State :=
  s.pointPut (s.levelAddr k id) (bytesOfNat 32 e.toNat)

/-- CAN of a level entry (R331). -/
def State.levelCan (s : State) (k id : Nat) : Bool := (s.levelEntry k id).getLsbD 96

/-- Counts a record in one level. -/
def State.countLevel (s : State) (r : W512) (k : Nat) : State :=
  let e := s.levelEntry k (recLevel r k)
  s.setLevel k (recLevel r k) (setFld e 0 32 (fld e 0 32 + 1))

/-- Counting a record (R332). -/
def State.countRec (s : State) (r : W512) : State := [0, 1, 2, 3].foldl (fun st k => st.countLevel r k) s

/-- Withdrawing a count (R332): OUT alone. -/
def State.uncountRec (s : State) (r : W512) : State :=
  [0, 1, 2, 3].foldl (fun st k =>
    let e := st.levelEntry k (recLevel r k)
    st.setLevel k (recLevel r k) (setFld e 0 32 (fld e 0 32 + 2 ^ 32 - 1))) s

/-- Finishing a record in one level (R332): where OUT reaches 0, DONE rises, CAN clears, and NV posts. -/
def State.finishLevel (s : State) (r : W512) (k : Nat) : State :=
  let id := recLevel r k
  let e := s.levelEntry k id
  let out := (fld e 0 32 + 2 ^ 32 - 1) % 2 ^ 32
  let e1 := setFld e 0 32 out
  if out = 0 then
    let s1 := s.setLevel k id (setFld (setFld e1 32 32 (fld e1 32 32 + 1)) 96 1 0)
    if e.getLsbD 112 then
      s1.landTilePost 0 (some (stackOf (s.levelAddr k id))) ⟨fld e 113 7 % 128, Nat.mod_lt _ (by decide)⟩ (recJob r)
        (e.extractLsb' 120 8) 1
    else s1
  else s.setLevel k id e1

/-- Finishing a record (R332). -/
def State.finishRec (s : State) (r : W512) : State := [0, 1, 2, 3].foldl (fun st k => st.finishLevel r k) s

/-- A failure at dispatch adds 1 to FAILS of the four entries (R336). -/
def State.failRec (s : State) (r : W512) : State :=
  [0, 1, 2, 3].foldl (fun st k =>
    let e := st.levelEntry k (recLevel r k)
    st.setLevel k (recLevel r k) (setFld e 64 32 (fld e 64 32 + 1))) s

/-- The addresses of a record's four level entries. -/
def State.levelAddrs (s : State) (r : W512) : List Nat := [0, 1, 2, 3].map (fun k => s.levelAddr k (recLevel r k))

/-- The counters of a record's four level entries cannot be written yet (R390). -/
def State.levelsHeld (s : State) (r : W512) : Bool := s.shelfHolds (s.levelAddrs r)

/-- LAUNCH_FAIL (R336, R410). -/
def State.launchFail (s : State) (d : DieId) (addr : Nat) (reason : Nat) : State :=
  s.logEvent 0x0D (srcDie d) (evData addr reason)

/-! ### Task queues (R85, R86) -/

/-- The control block of a queue. -/
def State.qcbOf (s : State) (q : BitVec 12) : W512 := SMap.get 0 s.ms.qcb q.toNat

/-- Replaces a queue's control block. -/
def State.setQcb (s : State) (q : BitVec 12) (c : W512) : State :=
  { s with ms := { s.ms with qcb := SMap.set 0 s.ms.qcb q.toNat c } }

/-- The depth of a queue. -/
def qDepth (c : W512) : Nat := 2 ^ (fld c 4 4 + 6)
/-- The ring's base. -/
def qBase (c : W512) : Nat := fld c 16 32 * 65536
/-- The queue is in service: EN, and its ring lies wholly in DRAM (R85). -/
def qOn (c : W512) : Bool := c.getLsbD 3 && decide (qBase c + 64 * qDepth c ≤ 0x8000000000)
/-- The number of records in a queue. -/
def qLen (c : W512) : Nat := (fld c 64 32 + 2 ^ 32 - fld c 96 32) % 2 ^ 32
/-- The queue can take a push. -/
def qRoom (c : W512) : Bool := qOn c && decide (qLen c ≠ qDepth c)
/-- The physical address of a ring slot. -/
def qSlot (c : W512) (i : Nat) : Nat := qBase c + 64 * (i % qDepth c)

/-- A push into a queue would be accepted, and its slot cannot be written yet (R390). -/
def State.pushHeld (s : State) (q : BitVec 12) : Bool :=
  let c := s.qcbOf q
  qRoom c && s.shelfHolds [qSlot c (fld c 64 32)]

/-- The writes of a record's count and of its push, together, cannot be performed yet (R390). -/
def State.submitHeld (s : State) (q : BitVec 12) (r : W512) (more : List Nat) : Bool :=
  let c := s.qcbOf q
  s.shelfHolds (more ++ s.levelAddrs r ++ if qRoom c then [qSlot c (fld c 64 32)] else [])

/-- One push of a record whose original lies at `orig` (R86): whether it was accepted. A refusal counts in DROPS unless the
push is one that is held (R342). A push comes before every pop of its fabric cycle. -/
def State.pushQueue (s : State) (q : BitVec 12) (r : W512) (orig : Nat) (countDrop : Bool) : State × Bool :=
  let s0 := s.inCycle (fun f => !f.pops.contains q.toNat)
  let c := s.qcbOf q
  if qRoom c then
    let a := qSlot c (fld c 64 32)
    let s1 := (s0.pointPut a (bytesOfNat 64 r.toNat)).setQcb q (setFld c 64 32 (fld c 64 32 + 1))
    ({ s1 with ms := { s1.ms with orig := SMap.set 0 s1.ms.orig a orig } }, true)
  else if countDrop then (s0.setQcb q (setFld c 128 32 (fld c 128 32 + 1)), false)
  else (s, false)

/-- The head of a queue: the address of its ring slot (R86). -/
def State.queueHead (s : State) (q : BitVec 12) : Option Nat :=
  let c := s.qcbOf q
  if qOn c && decide (qLen c ≠ 0) then some (qSlot c (fld c 96 32)) else none

/-- One pop of the head (R86). -/
def State.popQueue (s : State) (q : BitVec 12) : State :=
  let c := s.qcbOf q
  { s.setQcb q (setFld c 96 32 (fld c 96 32 + 1)) with fab := { s.fab with pops := q.toNat :: s.fab.pops } }

/-- Pushes a record that became ready (R342): a push that the queue refuses is held. -/
def State.pushOrHold (s : State) (p : PushReq) : State :=
  let x := s.pushQueue p.queue p.record p.orig false
  if x.2 then x.1 else { x.1 with ms := { x.1.ms with held := x.1.ms.held ++ [p] } }

/-- A cancel reaches a record (R349): CX in its original, or CAN in one of its level entries. -/
def State.recCancelled (s : State) (r : W512) (orig : Nat) : Bool :=
  (BitVec.ofNat 512 (s.peek orig 64)).getLsbD 458 || recCx r || [0, 1, 2, 3].any (fun k => s.levelCan k (recLevel r k))

/-! ### Block pools (R87 to R89) -/

/-- The control block of a pool. -/
def State.pcbOf (s : State) (p : BitVec 8) : W512 := SMap.get 0 s.ms.pcb p.toNat

/-- Replaces a pool's control block. -/
def State.setPcb (s : State) (p : BitVec 8) (c : W512) : State :=
  { s with ms := { s.ms with pcb := SMap.set 0 s.ms.pcb p.toNat c } }

/-- The pool is in service (R87). -/
def poolOn (c : W512) : Bool := c.getLsbD 3 && decide (fld c 4 4 ≤ 10) && decide (fld c 24 24 ≠ 0)
/-- The size of a block. -/
def poolBlock (c : W512) : Nat := 2 ^ (fld c 4 4 + 6)
/-- The first block. -/
def poolBase (c : W512) : Nat := fld c 48 32 * 65536
/-- The free stack's base. -/
def poolStack (c : W512) : Nat := fld c 80 32 * 65536
/-- The bitmap's base. -/
def poolBitmap (c : W512) : Nat := poolStack c + 4 * fld c 24 24

/-- A bit of the allocation bitmap. -/
def State.poolBit (s : State) (c : W512) (i : Nat) : Bool := (s.peek (poolBitmap c + i / 8) 1).testBit (i % 8)

/-- Writes a bit of the allocation bitmap. -/
def State.setPoolBit (s : State) (c : W512) (i : Nat) (b : Bool) : State :=
  let a := poolBitmap c + i / 8
  let old : Byte := BitVec.ofNat 8 (s.peek a 1)
  let bit : Byte := 1#8 <<< (i % 8)
  s.pointPut a [if b then old ||| bit else old &&& ~~~bit]

/-- pool.get (R89): the block's address, or 0. The stack's top is entry FREE - 1 (DEDUCED, log 25). -/
def State.poolGet (s : State) (p : BitVec 8) : State × W64 :=
  let c := s.pcbOf p
  let free := fld c 128 24
  if !poolOn c || free == 0 then (s, 0)
  else
    let i := s.peek (poolStack c + 4 * (free - 1)) 4
    ((s.setPoolBit c i true).setPcb p (setFld c 128 24 (free - 1)), BitVec.ofNat 64 (poolBase c + i * poolBlock c))

/-- pool.put (R89). -/
def State.poolPut (s : State) (p : BitVec 8) (a : W64) : State :=
  let c := s.pcbOf p
  let rel := (a.toNat : Int) - poolBase c
  let i := (rel / poolBlock c).toNat
  let free := fld c 128 24
  if !poolOn c || decide (rel < 0) || decide (rel % poolBlock c ≠ 0) || decide (fld c 24 24 ≤ i) || !s.poolBit c i then
    (s.setPcb p (setFld c 160 32 (fld c 160 32 + 1))).logEvent 0x07 (srcShelf (p.toNat % 8)) (evData a.toNat p.toNat)
  else
    ((s.setPoolBit c i false).pointPut (poolStack c + 4 * free) (bytesOfNat 4 i)).setPcb p (setFld c 128 24 (free + 1))

/-- The words of a pool that a `pool.get` writes cannot be written yet (R390). -/
def State.getHeld (s : State) (p : BitVec 8) : Bool :=
  let c := s.pcbOf p
  poolOn c && decide (fld c 128 24 ≠ 0)
    && s.shelfHolds [poolBitmap c + s.peek (poolStack c + 4 * (fld c 128 24 - 1)) 4 / 8]

/-- The words of a pool that a `pool.put` writes. -/
def State.putAddrs (s : State) (p : BitVec 8) (a : W64) : List Nat :=
  let c := s.pcbOf p
  [poolBitmap c + ((a.toNat - poolBase c) / poolBlock c) / 8, poolStack c + 4 * fld c 128 24]

/-- The words of a pool that a `pool.put` writes cannot be written yet (R390). -/
def State.putHeld (s : State) (p : BitVec 8) (a : W64) : Bool := s.shelfHolds (s.putAddrs p a)

/-- Fills the free stack and clears the bitmap of a pool that enters service (R88). DESIGN CHOICE (log 87): the spec does not say
what a stack outside DRAM does, and the model writes its addresses as memory. -/
def State.poolSetup (s : State) (p : BitVec 8) : State :=
  let c := s.pcbOf p
  let n := fld c 24 24
  let s1 := (List.range n).foldl (fun st i => st.pointPut (poolStack c + 4 * i) (bytesOfNat 4 (n - 1 - i))) s
  let s2 := (List.range ((n + 7) / 8)).foldl (fun st i => st.pointPut (poolBitmap c + i) [0]) s1
  s2.setPcb p (setFld c 128 24 n)

/-! ### The tide table's side of a completion (R354) -/

/-- KIND of a tide entry. -/
def tideKind (e : W512) : Nat := fld e 64 2
/-- SLOTS of a tide entry. -/
def tideSlots (e : W512) : Nat := fld e 88 4
/-- CREDIT of a tide entry. -/
def tideCredit (e : W512) : Nat := fld e 96 4

/-- The table becomes DONE when every entry has been dispatched and has finished (R354); with PV = 1 it posts (R352). DESIGN CHOICE
(log 105): where the tile that issued `tide.go` holds no member of the table's job any more, the post goes where R317 takes a post
between tiles. -/
def State.tideDone (s : State) (d : DieId) : State :=
  let x := s.dies[d.val].tide
  if x.st = .running ∧ x.head = x.entries.length ∧ x.finished.length = x.entries.length then
    let s1 := s.modDie d (fun y => { y with tide := { y.tide with st := .done } })
    match x.post with
    | some (t, n) => s1.landTilePost t none t x.job n 1
    | none => s1
  else s

/-- What a table takes up in a fabric cycle, counts, credits and completions, comes before its tests of that cycle (R354). -/
def State.tideTurn (s : State) (d : DieId) : State := s.inCycle (fun f => !f.tides[d.val])

/-- An entry's task has finished (R354): E returns its slots, and with UV = 1 sends them upstream as credits. -/
def State.tideFinish (s0 : State) (d : DieId) (k : Nat) : State :=
  let s := s0.tideTurn d
  let x := s.dies[d.val].tide
  let e := x.entries.getD k 0
  let s1 := s.modDie d (fun y => { y with tide := { y.tide with
    finished := y.tide.finished ++ [k]
    free := if tideKind e = 1 then y.tide.free + tideSlots e else y.tide.free } })
  let l : LinkId := linkOf (x.cfg.extractLsb' 16 5)
  let s2 := if tideKind e = 1 ∧ x.cfg.getLsbD 21 = true ∧ tideSlots e ≠ 0 then
      s1.modLink l (fun y => { y with ctl := y.ctl ++ [.tide (tideSlots e)] })
    else s1
  s2.tideDone d

/-! ### The end of a member (R350, R383) -/

/-- A record is finished (R332, R350): its level entries, its tide entry, and its block where AF = 1 (R334). -/
def State.finishWhole (s : State) (r : W512) (orig : Nat) : State :=
  let s1 := s.finishRec r
  let s2 := if recTv r then s1.tideFinish (recTdie r) (recTidx r) else s1
  if recAf r then s2.poolPut (recPool r) (BitVec.ofNat 64 orig) else s2

/-- The addresses that a finish writes at their shelves. -/
def State.finishAddrs (s : State) (r : W512) (orig : Nat) : List Nat :=
  s.levelAddrs r ++ if recAf r then s.putAddrs (recPool r) (BitVec.ofNat 64 orig) else []

/-- The finish of a record, with other writes of the same step, cannot be performed yet: its pool is being set up (R88), or one of the
writes waits at the ceiling (R390). -/
def State.finishHeldWith (s : State) (r : W512) (orig : Nat) (more : List Nat) : Bool :=
  s.shelfHolds (more ++ s.finishAddrs r orig) || (recAf r && s.ms.setup.contains (recPool r).toNat)

/-- The finish of a record cannot be performed yet. -/
def State.finishHeld (s : State) (r : W512) (orig : Nat) : Bool := s.finishHeldWith r orig []

/-- Making a record ready, with other writes of the same step, cannot be performed yet: a cancelled record is finished then (R349). -/
def State.readyHeldWith (s : State) (r : W512) (orig : Nat) (more : List Nat) : Bool :=
  if s.recCancelled r orig then s.finishHeldWith r orig more else s.shelfHolds more

/-- Making a record ready would finish it, and the finish cannot be performed yet. -/
def State.readyHeld (s : State) (r : W512) (orig : Nat) : Bool := s.recCancelled r orig && s.finishHeld r orig

/-- Makes a record ready (R342, R349): it sets out for its queue, unless a cancel discards and finishes it. -/
def State.makeReady (s : State) (r : W512) (orig : Nat) : State :=
  if s.recCancelled r orig then s.finishWhole r orig
  else { s with pushes := s.pushes ++ [⟨r, recQueue r, orig⟩] }

/-- A gang's last member has completed (R350): the record finishes, and the gang's slots are freed (R386). -/
def State.finishGang (s : State) (g : Gang) : State :=
  let s3 := s.finishWhole g.record g.orig
  { s3 with
    gangs := s3.gangs.filter (fun x => x.id != g.id)
    slots := match g.key with
      | some k => s3.slots.filter (fun e => decide (e.1 < k) || decide (k + g.size ≤ e.1))
      | none => s3.slots }

/-- A record that a cancel discards is finished (R349); with a continuation, the gang that it names is gone too. -/
def State.discardRec (s : State) (r : W512) (orig : Nat) : State :=
  match s.gangs.find? (fun g => recCv r && g.key == some (recCkey r)) with
  | some g => s.finishGang g
  | none => s.finishWhole r orig

/-- The finish of the gang whose last member a tile holds cannot be performed yet. -/
def State.endHeld (s : State) (t : TileId) : Bool :=
  match s.gangs.find? (fun g => g.id == (s.tile t).m.id.gang) with
  | some g => decide (g.done + 1 = g.size) && s.finishHeld g.record g.orig
  | none => false

/-- The changes of DM and REC that wait for a boundary take effect (R394): the pending bits start clear, and a recording starts
afresh. -/
def Tile.takeDbg (x : Tile) : Tile :=
  let d := x.dbg
  let dm := d.dmReq.getD d.dm
  let on := d.recReq.getD d.recording
  { x with
    m := if dm = d.dm then x.m else { x.m with stash := { x.m.stash with pend := [] } }
    dbg := { d with
      dm := dm, recording := on, dmReq := none, recReq := none
      trace := if on && !d.recording then Trace.reset else d.trace } }

/-- The member of a tile, whose live ranges have been released, completes (R350): its grant returns, the tile is idle, and the debug block
keeps nothing of the member's recording (R396). -/
def State.endMember (s : State) (t : TileId) : State :=
  let gid := (s.tile t).m.id.gang
  let s2 := s.modTile t (fun x0 =>
    let x := x0.takeDbg
    { x with
      st := .idle, grant := none, sunk := false, reassigned := false, drop := false
      dbg := { x.dbg with trace := Trace.reset } })
  let s3 := { s2 with
    ms := { s2.ms with waiters := s2.ms.waiters.filter (fun w => w.tile != t) }
    dies := vmap s2.dies (fun (d : Die) => { d with fifo := d.fifo.filter (fun x => x != t) })
    gangs := s2.gangs.map (fun (g : Gang) => if g.id == gid then { g with done := g.done + 1 } else g) }
  match s3.gangs.find? (fun g => g.id == gid) with
  | some g => if g.done = g.size then s3.finishGang g else s3
  | none => s3

/-- Discards the commands, loaded records, running commands and unlanded accesses of a member (R383), whose steering unit issues
nothing more. The writes that had not landed are abandoned; the schedule may have landed any of them before (log 26). -/
def Member.discard (m : Member) : Member :=
  { m with
    q := ⟨[], [], [], []⟩
    mu := none
    ch := Vector.replicate 5 Channel.reset
    rel := []
    vu := { Vu.reset with vpc := m.vu.vpc }
    su := { m.su with slow := [], loads := [], stores := [], semRds := [], full := none, wait := .retired, flip := false }
    rep := Reports.reset
    mbq := [] }

/-- Ends a member as `eret.abort` does, after the event that names why (R382, R383): nothing of it runs on, and it completes as a
member that has retired once its live ranges have been released (R350). -/
def State.abortMember (s : State) (t : TileId) : State :=
  let s1 := s.modM t Member.discard
  { s1 with
    ms := { s1.ms with waiters := s1.ms.waiters.filter (fun w => w.tile != t) }
    dies := vmap s1.dies (fun (d : Die) => { d with
      fifo := d.fifo.filter (fun x => x != t), ce := d.ce.filter (fun c => c.home != Owner.tile t 0) }) }

end Sys2Proof.Machine
end

