-- ==== Sys2Proof/Machine/Ops.lean ====
section
/-! DEFINITION. Register writes and their landing, the clock of a tile, flips, issue, and the taking of an exception and
the return from one (R162 to R174, R362, R378 to R383). -/

namespace Sys2Proof.Machine

/-! ### Landing of register writes (R164, R165) -/

/-- Pending writes older than `id` to a register lose the bits that a younger write has covered (R165). -/
def trimSlow (r : DbgReg) (mask : W4096) (id : Nat) (l : List SlowWrite) : List SlowWrite :=
  l.map (fun w => if w.ref = r ∧ w.id < id then { w with mask := w.mask &&& ~~~mask } else w)

/-- Pending steering loads older than `id` to a register lose their register write (R165). -/
def trimLoads (r : DbgReg) (id : Nat) (l : List SuLoad) : List SuLoad :=
  l.map (fun x => if x.dst = r ∧ x.id < id then { x with live := false } else x)

/-- Pending vector entries older than `id` to a register lose the bits that a younger write has covered (R165). -/
def trimEntries (r : DbgReg) (mask : W4096) (id : Nat) (l : List VEntry) : List VEntry :=
  l.map (fun x => if x.dst = r ∧ x.id < id then { x with mask := x.mask &&& ~~~mask } else x)

/-- A write numbered `id` lands in the hidden face (R164, R165). A write that covers no bit is no write. -/
def Member.land (m : Member) (id : Nat) (r : DbgReg) (mask v : W4096) : Member :=
  if mask = 0 then m
  else
    let m1 := m.writeReg r mask v
    { m1 with
      su := { m1.su with slow := trimSlow r mask id m1.su.slow, loads := trimLoads r id m1.su.loads }
      vu := { m1.vu with lq := trimEntries r mask id m1.vu.lq, sq := trimEntries r mask id m1.vu.sq } }

/-- A write of the whole of a steering register lands now: it is younger than every pending one, which covers no bit any more
(R165) and stays a slow writer until it lands (R164). -/
def Member.putReg (m : Member) (r : DbgReg) (v : W512) : Member :=
  let m1 := m.modReg r (fun n f => Faced.put f (v.setWidth n))
  { m1 with su := { m1.su with
      slow := m1.su.slow.map (fun w => if w.ref = r then { w with mask := 0 } else w)
      loads := m1.su.loads.map (fun x => if x.dst = r then { x with live := false } else x) } }

/-- A write of the whole of a register that lands at the end of cycle `due` (R164). Writes to `s0` and `p0` are no
writes (R162). -/
def Member.putSlow (m : Member) (r : DbgReg) (mask v : W4096) (due : Nat) : Member :=
  if isConst r ∨ mask = 0 then m
  else { m with su := { m.su with slow := m.su.slow ++ [⟨m.su.nextId, r, mask, v, due⟩], nextId := m.su.nextId + 1 } }

/-- write(sd, y) of a steering instruction with a latency in cycles after its issue cycle (R179). -/
def Member.writeS (m : Member) (d : SReg) (v : W64) (lat : Nat) : Member :=
  let r := m.sref d
  if lat = 0 then m.putReg r (v.setWidth 512) else m.putSlow r (fullMask r) (v.setWidth 4096) (m.ctr.cycle + lat)

/-- An outside write lands in a mailbox (R166): where W is set it is discarded and the tile owes WAW_COLLISION. -/
def Member.outside (m : Member) (i : MIx) (v : W64) : Member :=
  if (m.f.mb[(r4 i).val]).w then { m with rep := { m.rep with waw := m.rep.waw ++ [i] } }
  else m.putReg (.mb i) (v.setWidth 512)

/-- Puts a write into a list in the order of R166. -/
def mbInsert (w : MbWrite) : List MbWrite → List MbWrite
  | [] => [w]
  | x :: xs => if w.rank < x.rank then w :: x :: xs else x :: mbInsert w xs

/-- Lands outside mailbox writes in the order of R166; one that brings fleet time reads it now (R304). -/
def State.landMail (s : State) (t : TileId) (ws : List MbWrite) : State :=
  (ws.foldl (fun l w => mbInsert w l) []).foldl (fun st w =>
    let v := if w.fleet then st.fleet else w.val
    (st.logReplay t (.mailbox w.mb v w.rank)).modM t (fun m =>
      let n := m.outside w.mb v
      { n with su := { n.su with mbRank := max n.su.mbRank w.rank } })) s

/-! ### Reports (R378, R379) -/

/-- A report of the steering unit. -/
def suReport (code : BitVec 8) (reason : BitVec 8) (tval : W64) : Report := ⟨code, 0, 0, 0, 0, reason, tval⟩

/-- The TCAUSE word of a report (R379). -/
def tcauseOf (r : Report) : W64 := (r.seq ++ 0#8 ++ r.chan ++ r.cls ++ r.kind ++ r.reason ++ r.code : BitVec 64)

/-- ILLEGAL_ENCODING (R67). -/
def illegal (word : W64) : Report := suReport 0x01 0 word

/-- MEM_POISON is logged with the consumer as its source (R78, R410). -/
def State.logPoison (s : State) (src : Half) (pa : Nat) : State := s.logEvent 0x02 src (evData pa 0)

/-- The physical address of a target, 0 where a stash offset belongs to no range. -/
def State.paOfTarget (s : State) (t : TileId) : Target → Nat
  | .own off => ((s.tile t).m.stash.paOf off).getD 0
  | .pa a _ => a

/-! ### Pending words of debug mode (R129) -/

/-- The stash words that bytes of a target cover. -/
def stashWords (tgt : Target) (n : Nat) : List Nat :=
  match tgt with
  | .own off => (List.range ((off % 8 + n + 7) / 8)).map (fun k => off / 8 + k)
  | .pa _ _ => []

/-- Sets pending bits where debug mode is on. -/
def State.setPend (s : State) (t : TileId) (ws : List Nat) : State :=
  if (s.tile t).dbg.dm then
    s.modM t (fun m => { m with stash := { m.stash with pend := m.stash.pend ++ ws.filter (fun w => !m.stash.pend.contains w) } })
  else s

/-- Clears pending bits. -/
def State.clearPend (s : State) (t : TileId) (ws : List Nat) : State :=
  s.modM t (fun m => { m with stash := { m.stash with pend := m.stash.pend.filter (fun w => !ws.contains w) } })

/-! ### Steering stores (R190 to R193) -/

/-- Bytes of two targets of a tile meet in one aligned 8-byte word of memory (R193, R268). -/
def State.meetWord (s : State) (t : TileId) (a : Target) (n : Nat) (b : Target) (k : Nat) : Bool :=
  match a, b with
  | .own x, .own y => decide (x / 8 * 8 < y + k) && decide (y / 8 * 8 < x + n)
  | _, _ =>
    let x := s.paOfTarget t a
    let y := s.paOfTarget t b
    decide (x / 8 * 8 < y + k) && decide (y / 8 * 8 < x + n)

/-- An older store to a word of a store, or an older load of it that has not read, goes first (R193, R271). -/
def State.storeBlocked (s : State) (t : TileId) (x : SuStore) : Bool :=
  let m := (s.tile t).m
  m.su.stores.any (fun y => decide (y.id < x.id) && s.meetWord t y.tgt y.n x.tgt x.n)
    || m.su.loads.any (fun y => decide (y.id < x.id) && y.got.isNone && s.meetWord t y.tgt y.n x.tgt x.n)

/-- One store is performed at its memory point and leaves the forwarding table, once the older accesses to its word have been
performed (R193). A store into a live barrier is dropped and reported (R192). -/
def State.performStore (s : State) (t : TileId) (x : SuStore) : State :=
  if s.storeBlocked t x then s
  else
    let r := s.writeT t x.tgt true (bytesOfNat x.n x.data.toNat)
    let drop := fun (st : State) => (st.clearPend t (stashWords x.tgt x.n)).modM t fun m =>
      { m with su := { m.su with stores := m.su.stores.filter (fun y => y.id != x.id) } }
    match r.2 with
    | .ok () => drop r.1
    | .dropped =>
      (drop r.1).modM t (fun m => { m with rep := { m.rep with
        deferred := m.rep.deferred ++ [(x.id, suReport 0x0D 0 x.va)] } })
    | .wait | .poison | .pending => r.1

/-- A store lands within a cycle, and with it the posts that waited for it (R273). -/
def State.landStore (s : State) (t : TileId) (x : SuStore) : State := (s.performStore t x).applyRel t

/-! ### Steering loads (R187 to R192, R209) -/

/-- The value of a load's bytes (R187). -/
def extendLoad (k : LoadKind) (n : Nat) (bs : List Byte) : W512 :=
  let v := natOfBytes bs
  match k with
  | .signed => (((BitVec.ofNat (8 * n) v).signExtend 64).setWidth 512)
  | .unsigned | .desc _ => BitVec.ofNat 512 v

/-- Bytes from memory with the forwarding table's bytes in their places (R189). -/
def mergeBytes : List (Option Byte) → List Byte → List Byte
  | some f :: fs, _ :: bs => f :: mergeBytes fs bs
  | none :: fs, b :: bs => b :: mergeBytes fs bs
  | _, _ => []

/-- A load lands (R189, R192, R209): its register write, or the report that takes its place. -/
def State.landLoad (s : State) (t : TileId) (x : SuLoad) (v : W512) (poison : Bool) : State :=
  let gone := fun (m : Member) => { m with su := { m.su with loads := m.su.loads.filter (fun y => y.id != x.id) } }
  let report := fun (st : State) (r : Report) => st.modM t (fun m =>
    { gone m with rep := { m.rep with deferred := m.rep.deferred ++ [(x.id, r)] } })
  if poison then report (s.logPoison (srcTile t) (s.paOfTarget t x.tgt)) (suReport 0x05 0 x.va)
  else
    match x.kind with
    | .desc w =>
      match tdCheck v with
      | some reason => report s (suReport 0x06 reason ((w.setWidth 64 <<< 32) ||| reason.setWidth 64))
      | none => s.modM t (fun m =>
          if x.live then (gone m).land x.id x.dst (fullMask x.dst) (v.setWidth 4096) else gone m)
    | .signed | .unsigned => s.modM t (fun m =>
        if x.live then (gone m).land x.id x.dst (fullMask x.dst) (v.setWidth 4096) else gone m)

/-- A target some bytes on. -/
def Target.plus (k : Nat) : Target → Target
  | .own off => .own (off + k)
  | .pa a mt => .pa (a + k) mt

/-- Reads the aligned 8-byte words of a load: one whose bytes the forwarding table has supplied is not read (R189). -/
def State.loadWords (s : State) (t : TileId) (x : SuLoad) : List Nat → State × Res (List Byte)
  | [] => (s, .ok [])
  | k :: ks =>
    let n := min 8 (x.n - 8 * k)
    let fwd := (x.fwd.drop (8 * k)).take n
    let r := if fwd.length = n ∧ fwd.all Option.isSome = true then (s, Res.ok (List.replicate n 0)) else s.readT t (x.tgt.plus (8 * k)) n
    match r.2 with
    | .ok bs =>
      let rest := State.loadWords r.1 t x ks
      (rest.1, match rest.2 with | .ok more => .ok (bs ++ more) | other => other)
    | other => (r.1, other)

/-- The memory byte of a target, as far as two targets of a tile can be compared: a physical address, or a stash offset of no range. -/
def State.byteKey (s : State) (t : TileId) (tgt : Target) : Bool × Nat :=
  match tgt with
  | .own off => (match (s.tile t).m.stash.paOf off with | some a => (false, a) | none => (true, off))
  | .pa a _ => (false, a)

/-- A load waits for an older store to a byte of it that the forwarding table did not supply: the store reached the byte by another
virtual address or ASID (R191, R268). -/
def State.loadBlocked (s : State) (t : TileId) (x : SuLoad) : Bool :=
  let a := s.byteKey t x.tgt
  (s.tile t).m.su.stores.any (fun y => decide (y.id < x.id) &&
    (let b := s.byteKey t y.tgt
     a.1 == b.1 && (List.range x.n).any (fun k =>
       (x.fwd.getD k none).isNone && decide (b.2 ≤ a.2 + k) && decide (a.2 + k < b.2 + y.n))))

/-- Reads a load's bytes at its memory point: poison and pending words count only where a byte comes from memory (R189). -/
def State.readLoad (s : State) (t : TileId) (x : SuLoad) : State × Res W512 :=
  let r := if s.loadBlocked t x then (s, .wait) else s.loadWords t x (List.range ((x.n + 7) / 8))
  match r.2 with
  | .ok bs => (r.1, .ok (extendLoad x.kind x.n (mergeBytes x.fwd bs)))
  | .wait => (r.1, .wait)
  | .poison => (r.1, .poison)
  | .pending => (r.1, .pending)
  | .dropped => (r.1, .wait)

/-- How far on from the aligned word of its first byte a read of `n` bytes meets a pending word of a stash (R129). -/
def State.pendDist (s : State) (t : TileId) (tgt : Target) (n : Nat) : Nat :=
  match s.lineAt t tgt with
  | some (.tile o _, off) => 8 * (((List.range (n / 8 + 1)).find? (fun k => (s.tile o).m.stash.pend.contains (off / 8 + k))).getD 0)
  | some (.slot _ _, _) | none => 0

/-- A load that meets a pending word at its read, where its issue did not (R129): it brings nothing, and its report is taken at the
next boundary (log 88). -/
def State.pendLoad (s : State) (t : TileId) (x : SuLoad) : State :=
  s.modM t (fun m => { m with
    su := { m.su with loads := m.su.loads.filter (fun y => y.id != x.id) }
    rep := { m.rep with deferred := m.rep.deferred ++ [(x.id, suReport 0x0E 0 ((x.va &&& ~~~(7 : W64)) + BitVec.ofNat 64 (s.pendDist t x.tgt x.n)))] } })

/-- A load that reads its stash port in this cycle (R189): the value lands two cycles later. A line that is not READY
leaves the load without a bound. -/
def State.portLoad (s : State) (t : TileId) (x : SuLoad) : State :=
  let r := s.readLoad t x
  let c := (s.tile t).m.ctr.cycle
  let upd := fun (st : State) (f : SuLoad → SuLoad) => st.modM t (fun m =>
    { m with su := { m.su with loads := m.su.loads.map (fun y => if y.id = x.id then f y else y) } })
  match r.2 with
  | .ok v => upd r.1 (fun y => { y with port := none, got := some (v, false, c + 2) })
  | .poison => upd r.1 (fun y => { y with port := none, got := some (0, true, c + 2) })
  | .pending => r.1.pendLoad t x
  | .wait | .dropped => upd r.1 (fun y => { y with port := none })

/-! ### Vector memory entries (R216, R221, R239 to R245) -/

/-- The FP32 code of a loaded element (R216): widening is exact. -/
def widen (conv : Conv) (c : Nat) : Nat :=
  match conv with
  | .b32 => c
  | .bf16 => cvt (valOf bf16 c) fp32 .rne false
  | .f16 => cvt (valOf fp16 c) fp32 .rne false

/-- The code a lane is stored as (R216). -/
def narrow (conv : Conv) (c : W32) : Nat :=
  match conv with
  | .b32 => c.toNat
  | .bf16 => cvt (v32 c) bf16 .rne false
  | .f16 => cvt (v32 c) fp16 .rne false

/-- The size of an element (R239). -/
def convSize : Conv → Nat
  | .b32 => 4
  | .bf16 | .f16 => 2

/-- The report of a vector access found after issue (R421): an engine fault of the block's `vrun`. -/
def vuFault (code : BitVec 8) (seq : W64) (va : W64) : Report := ⟨code, seq.setWidth 32, 0, 1, 0, 0, va⟩

/-- What a pass over the lanes of an entry reads: codes by lane, the lanes it leaves, and the first lane that met a poisoned or a
pending word, as a cause code, the word's virtual address and the lane's physical address. -/
structure LaneRead where
  codes : List (Nat × Nat)
  rest : List LaneAcc
  bad : Option (BitVec 8 × W64 × Nat)
  deriving DecidableEq, Repr

/-- Reads the lanes that `ok` lets, in order (R114, R216, R239): a lane whose line fills stays. DESIGN CHOICE (log 89): of several
poisoned or pending words of one instruction TVAL names that of the first lane. -/
def State.readLanes (s : State) (t : TileId) (n : Nat) (ok : Target → Bool) : List LaneAcc → State × LaneRead
  | [] => (s, ⟨[], [], none⟩)
  | a :: as =>
    if ok a.tgt then
      let r := s.readT t a.tgt n
      let x := State.readLanes (match r.2 with
        | .ok _ => r.1.logRead t a.va a.tgt
        | .wait | .poison | .pending | .dropped => r.1) t n ok as
      let word := a.va &&& ~~~(7 : W64)
      match r.2 with
      | .ok bs => (x.1, { x.2 with codes := (a.lane, natOfBytes bs) :: x.2.codes })
      | .poison => (x.1, { x.2 with bad := some (0x05, word, s.paOfTarget t a.tgt) })
      | .pending => (x.1, { x.2 with bad := some (0x0E, word, 0) })
      | .wait | .dropped => (x.1, { x.2 with rest := a :: x.2.rest })
    else
      let x := State.readLanes s t n ok as
      (x.1, { x.2 with rest := a :: x.2.rest })

/-- Lanes of FP32 codes as a register. -/
def lanesVec (l : List (Nat × Nat)) : W4096 :=
  BitVec.ofNat 4096 (l.foldl (fun a e => a + (e.2 % 2 ^ 32) * 2 ^ (32 * e.1)) 0)

/-- A trap of a vector word (R67): it halts the vector unit at that word. -/
def State.vecTrap (s : State) (t : TileId) (code reason : BitVec 8) (tval : W64) : State :=
  let m := (s.tile t).m
  let seq : W32 := match m.vu.cmd with | some c => c.seq.setWidth 32 | none => 0
  let r : Report := ⟨code, seq, 0, 1, 0, reason, tval⟩
  s.modM t (fun m => { m with
    vu := { m.vu with halted := some r }
    rep := { m.rep with vector := m.rep.vector ++ [r] } })

/-- A report found after a vector word has issued: the vector unit halts (R421). -/
def State.vuReport (s : State) (t : TileId) (x : VEntry) (r : Report) : State :=
  s.modM t (fun m => { m with
    vu := { m.vu with halted := some r }
    rep := { m.rep with engine := m.rep.engine ++ [(x.id, r)] } })

/-- Removes a vector entry. -/
def Vu.drop (v : Vu) (id : Nat) : Vu :=
  { v with lq := v.lq.filter (fun y => y.id != id), sq := v.sq.filter (fun y => y.id != id) }

/-- Changes a vector entry. -/
def Vu.upd (v : Vu) (id : Nat) (f : VEntry → VEntry) : Vu :=
  { v with
    lq := v.lq.map (fun y => if y.id = id then f y else y)
    sq := v.sq.map (fun y => if y.id = id then f y else y) }

/-- The fused update of one lane (R244): none where the gradient is not finite, else the new w, m and v as FP32 codes. -/
def updLane (h : W4096) (g w m v : Nat) : Option (Nat × Nat × Nat) :=
  let gv := valOf fp32 g
  if !gv.isFinite then none
  else
    let hv := fun i => v32 (lane32 h i)
    let one := FVal.ofInt 1
    let sub := fun (a b : FVal) => a.add b.neg
    let m1 := rv32 ((rv32 ((hv 1).mul (valOf fp32 m))).add (rv32 ((rv32 (sub one (hv 1))).mul gv)))
    let v1 := rv32 ((rv32 ((hv 2).mul (valOf fp32 v))).add (rv32 ((rv32 (sub one (hv 2))).mul (rv32 (gv.mul gv)))))
    let den := rv32 ((rv32 ((rv32 (v1.mul (hv 6))).sqrt)).add (hv 3))
    let st := rv32 ((rv32 (m1.mul (hv 5))).div den)
    let w1 := rnd32 (sub (valOf fp32 w) (rv32 ((hv 0).mul (rv32 (st.add (rv32 ((hv 4).mul (valOf fp32 w))))))))
    some (w1, rnd32 m1, rnd32 v1)

/-- What an update's reads give (R244): the lanes of vd and the writes of the record. `l` holds three
reads for each lane: w at lane, m at lane + 128, v at lane + 256. -/
def updAll (g h : W4096) (lanes : List LaneAcc) (l : List (Nat × Nat)) :
    List (Nat × Nat) × List (Target × W64 × List Byte) :=
  let val := fun k => ((l.find? (fun e => e.1 == k)).map (fun e => e.2)).getD 0
  let acc := fun k => lanes.find? (fun a => a.lane == k)
  (List.range 128).foldl (fun (out : List (Nat × Nat) × List (Target × W64 × List Byte)) i =>
    match acc i, acc (i + 128), acc (i + 256) with
    | some aw, some am, some av =>
      (match updLane h (lane32 g i).toNat (val i) (val (i + 128)) (val (i + 256)) with
      | some (w1, m1, v1) =>
        (out.1 ++ [(i, w1)], out.2 ++ [(aw.tgt, aw.va, bytesOfNat 4 w1), (am.tgt, am.va, bytesOfNat 4 m1),
          (av.tgt, av.va, bytesOfNat 4 v1)])
      | none => (out.1 ++ [(i, val i)], out.2))
    | _, _, _ => out) ([], [])

/-- The size of one read of an entry (R216, R244, R246). -/
def readSize : VKind → Nat
  | .load conv | .store conv => convSize conv
  | .kload => 8
  | .update _ _ => 4

/-- An entry whose lanes have all been read takes its data (R216, R244): into `data`, and for an update the writes that
follow. -/
def VEntry.take (y : VEntry) : VEntry :=
  match y.kind with
  | .load conv => { y with read := true, data := lanesVec (y.codes.map (fun e => (e.1, widen conv e.2))) }
  | .kload => { y with read := true, data := BitVec.ofNat 4096 ((y.codes.map (fun e => e.2)).headD 0) }
  | .store _ => { y with read := true }
  | .update g h =>
    let u := updAll g h y.lanes y.codes
    { y with read := true, data := lanesVec u.1, writes := u.2 }

/-- A pass of an entry's reads over the lanes that `ok` lets (R216, R239, R421): a poisoned word is reported, a pending one traps
at the vector program counter (log 88), and either way the entry brings nothing. -/
def State.readEntry (s : State) (t : TileId) (x : VEntry) (ok : Target → Bool) : State :=
  let r := s.readLanes t (readSize x.kind) ok x.rest
  match r.2.bad with
  | none => r.1.modM t (fun m => { m with vu := m.vu.upd x.id (fun y =>
      let y1 := { y with codes := y.codes ++ r.2.codes, rest := r.2.rest }
      if r.2.rest.isEmpty then y1.take else y1) })
  | some (code, va, pa) =>
    let gone := fun (st : State) => st.modM t (fun m => { m with vu := m.vu.drop x.id })
    if code = 0x05 then (gone (r.1.logPoison (srcTile t) pa)).vuReport t x (vuFault 0x05 x.seq va)
    else (gone r.1).vecTrap t code 0 va

/-- An older vector store to a word of a piece has not landed (R222), or an earlier piece of the same word stays (R241). -/
def State.pieceBlocked (s : State) (t : TileId) (x : VEntry) (kept : List (Target × W64 × List Byte))
    (p : Target × W64 × List Byte) : Bool :=
  let met := fun (q : Target × W64 × List Byte) => s.meetWord t q.1 q.2.2.length p.1 p.2.2.length
  kept.any met || (s.tile t).m.vu.sq.any (fun y => decide (y.id < x.id) && y.writes.any met)

/-- A pass of an entry's writes over the pieces that `ok` lets (R222, R239): the pieces that stay. A word in a live barrier is
dropped and reported once for the instruction (R240, R421), under the address of the word. -/
def State.writePieces (s : State) (t : TileId) (x : VEntry) (ok : Target → Bool) (kept : List (Target × W64 × List Byte)) :
    List (Target × W64 × List Byte) → State × List (Target × W64 × List Byte)
  | [] => (s, kept)
  | p :: ps =>
    if !ok p.1 || s.pieceBlocked t x kept p then State.writePieces s t x ok (kept ++ [p]) ps
    else
      let r := s.writeT t p.1 false p.2.2
      let s1 := r.1.clearPend t (stashWords p.1 p.2.2.length)
      match r.2 with
      | .ok () => State.writePieces s1 t x ok kept ps
      | .dropped =>
        if x.hit then State.writePieces s1 t x ok kept ps
        else
          State.writePieces ((s1.modM t (fun m => { m with vu := m.vu.upd x.id (fun y => { y with hit := true }) })).vuReport t x
            (vuFault 0x0D x.seq (p.2.1 &&& ~~~(7 : W64)))) t { x with hit := true } ok kept ps
      | .wait | .poison | .pending => State.writePieces r.1 t x ok (kept ++ [p]) ps

/-- The EMPTY lines of the own stash that an entry's pieces cover whole (R116). -/
def wholeLines (st : Stash) (ws : List (Target × W64 × List Byte)) : List Nat :=
  let own := ws.filterMap (fun w => match w.1 with | .own off => some (off, w.2.2.length) | .pa _ _ => none)
  ((own.map (fun w => w.1 / 256)).dedup).filter (fun l => (st.line l).fill == .empty
    && (List.range 256).all (fun k => own.any (fun w => decide (w.1 ≤ 256 * l + k) && decide (256 * l + k < w.1 + w.2))))

/-- The bytes that pieces put into a line of the own stash. -/
def lineBytes (ws : List (Target × W64 × List Byte)) (l : Nat) : List Byte :=
  (List.range 256).map (fun k => ws.foldl (fun b w => match w.1 with
    | .own off => if off ≤ 256 * l + k ∧ 256 * l + k < off + w.2.2.length then w.2.2.getD (256 * l + k - off) 0 else b
    | .pa _ _ => b) 0)

/-- A pass of an entry's writes: whole EMPTY lines first, then the pieces that `ok` lets. -/
def State.writeEntry (s : State) (t : TileId) (x : VEntry) (ok : Target → Bool) : State :=
  let s1 := ((wholeLines (s.tile t).m.stash x.writes).filter (fun l => ok (.own (256 * l)))).foldl (fun st l => (st.writeT t (.own (256 * l)) false (lineBytes x.writes l)).1) s
  let r := s1.writePieces t x ok [] x.writes
  r.1.modM t (fun m => { m with vu := m.vu.upd x.id (fun y => { y with writes := r.2 }) })

/-- The lanes that an update skips (R244, R245). -/
def nfLanes (x : VEntry) : Nat :=
  match x.kind with
  | .update g _ =>
    (x.lanes.filter (fun a => decide (a.lane < 128) && !(valOf fp32 (lane32 g a.lane).toNat).isFinite)).length
  | .load _ | .kload | .store _ => 0

/-- The bytes that an entry writes in all, as targets and lengths (R239, R244). -/
def entrySpans (x : VEntry) : List (Target × Nat) :=
  match x.kind with
  | .load _ | .kload => []
  | .store conv => x.lanes.map (fun a => (a.tgt, convSize conv))
  | .update g _ => (x.lanes.filter (fun a => (valOf fp32 (lane32 g (a.lane % 128)).toNat).isFinite)).map (fun a => (a.tgt, 4))

/-- An entry whose reads and writes are done leaves, and its register write lands (R217, R221, R245). -/
def State.finishEntry (s : State) (t : TileId) (x : VEntry) : State :=
  (s.renew t (entrySpans x)).modM t (fun m =>
    let m1 := { m with
      vu := { m.vu.drop x.id with
        left := (match x.kind with | .store _ | .update _ _ => x.id :: m.vu.left | .load _ | .kload => m.vu.left) }
      ctr := { m.ctr with nfCount := m.ctr.nfCount + BitVec.ofNat 64 (nfLanes x) } }
    match x.kind with
    | .store _ => m1
    | .load _ | .kload | .update _ _ => m1.land x.id x.dst x.mask x.data)

/-- The vector entry with an id. -/
def Vu.entry (v : Vu) (id : Nat) : Option VEntry := (v.lq ++ v.sq).find? (fun x => x.id == id)

/-- An entry stands before the cycle at whose end its part on READY lines lands (R217, R221, R242, R245). -/
def VEntry.early (x : VEntry) (c : Nat) : Bool := match x.due with | some d => decide (c < d) | none => false

/-- A pass of a sent entry over the targets that `okR` lets be read and `ok` written (R114, R217, R221): its reads, then its writes;
where nothing is left it lands, not before its cycle. -/
def State.landEntry (s : State) (t : TileId) (x : VEntry) (okR ok : Target → Bool) : State :=
  let s1 := if x.read then s else s.readEntry t x okR
  match (s1.tile t).m.vu.entry x.id with
  | none => s1
  | some y =>
    let s2 := if y.read then s1.writeEntry t y ok else s1
    match (s2.tile t).m.vu.entry x.id with
    | none => s2
    | some z =>
      if z.read && z.writes.isEmpty && !z.early (s.tile t).m.ctr.cycle then s2.finishEntry t z else s2

/-- The cycles after the port cycle at whose end an entry lands on READY lines (R217, R242, R245). -/
def entryLat (x : VEntry) : Nat :=
  match x.kind with
  | .load _ | .kload => x.busy + 2
  | .store _ => x.busy + 4
  | .update _ _ => 10

/-- Entries of the load queue: unsent loads and updates (R221, R245). -/
def Vu.loadsHeld (v : Vu) : Nat :=
  ((v.lq ++ v.sq.filter (fun x => match x.kind with | .update _ _ => true | .load _ | .kload | .store _ => false)).filter
    (fun x => x.sent == none)).length

/-- Entries of the store queue: unsent stores, and updates until they have written (R221, R245, log 35). -/
def Vu.storesHeld (v : Vu) : Nat :=
  (v.sq.filter (fun x => match x.kind with | .update _ _ => true | .load _ | .kload | .store _ => x.sent == none)).length

/-- The entry that a queue sends next: the oldest unsent one that issued before this cycle, while the port is free and the
marks of `vqmark` let it pass: a load goes in the cycle after the last older store has landed (R221, R223, R245). An update stands in
both queues. -/
def Vu.nextSend (v : Vu) (store : Bool) (c : Nat) : Option VEntry :=
  let isUpd := fun (x : VEntry) => match x.kind with | .update _ _ => true | .load _ | .kload | .store _ => false
  let q := if store then v.sq.filter (fun x => !isUpd x) else v.lq ++ v.sq.filter isUpd
  match q.filter (fun x => x.sent == none) with
  | [] => none
  | x0 :: rest =>
    let x := rest.foldl (fun a b => if b.id < a.id then b else a) x0
    let olderStore := fun (b : Nat) => v.sq.any (fun y => decide (y.id < b)) || v.left.any (fun k => decide (k < b))
    let olderLoad := fun (b : Nat) => (v.lq ++ v.sq.filter isUpd).any (fun y => decide (y.id < b) && !y.read)
    let blocked := v.marks.any (fun k => decide (k ≤ x.id) &&
      (if store then olderLoad k else olderStore k || (isUpd x && olderLoad k)))
    let afterUpd := store && v.sq.any (fun y => isUpd y && decide (y.id < x.id))
    let free := if store then v.sendS ≤ c else v.sendL ≤ c
    if x.issued < c ∧ free ∧ !blocked ∧ !afterUpd then some x else none

/-- A target in the own stash. -/
def Target.isOwn : Target → Bool
  | .own _ => true
  | .pa _ _ => false

/-- A queue sends one entry in this cycle (R221). The lanes of a load that the own stash serves on READY lines are read at the
port, and the bytes of a store on such lines are written at the cycle that `entryLat` gives; whatever leaves the stash or
meets a line that is not READY has no bound in cycles (R114, R127, R239, R242). -/
def State.sendQueue (s : State) (t : TileId) (store : Bool) : State :=
  let m := (s.tile t).m
  let c := m.ctr.cycle
  match m.vu.nextSend store c with
  | none => s
  | some x =>
    let own := x.writes.filter (fun w => w.1.isOwn)
    let whole := wholeLines m.stash x.writes
    let due := if store && own.isEmpty && !x.writes.isEmpty then none else some (c + entryLat x)
    let s1 := s.modM t (fun m => { m with vu :=
      let v := m.vu.upd x.id (fun y => { y with sent := some c, due := due, arr := m.su.nextId })
      if store then { v with sendS := c + x.busy } else { v with sendL := c + x.busy } })
    if store then
      let s2 := own.foldl (fun st w => st.setPend t (stashWords w.1 w.2.2.length)) s1
      let s3 := own.foldl (fun st w => if whole.any (fun l => w.1.inLine l) then st else st.touch t w.1) s2
      s3.modM t (fun m => { m with vu := m.vu.upd x.id VEntry.take })
    else
      let s2 := s1.readEntry t x Target.isOwn
      match (s2.tile t).m.vu.entry x.id with
      | some y =>
        if !y.read && y.rest.isEmpty then s2.modM t (fun m => { m with vu := m.vu.upd x.id VEntry.take }) else s2
      | none => s2

/-- Puts a number with a key into a list in rising order of the keys, after those of its own key. -/
def keyInsert (a : Nat × Nat) : List (Nat × Nat) → List (Nat × Nat)
  | [] => [a]
  | x :: xs => if a.1 < x.1 then a :: x :: xs else x :: keyInsert a xs

/-- The fill of a line has brought its data: every access of the tile's own streams that met the line is applied, in the order in
which they reached it (R116, R190): a steering access at its issue, a vector entry when it was sent. -/
def State.serveLine (s : State) (t : TileId) (l : Nat) : State :=
  let m := (s.tile t).m
  let held := m.vu.lq ++ m.vu.sq
  let ids := (m.su.loads.filter (fun x => x.port.isNone && x.got.isNone && x.tgt.inLine l)).map (fun x => (2 * x.id + 1, x.id))
    ++ (m.su.stores.filter (fun x => x.due.isNone && x.tgt.inLine l)).map (fun x => (2 * x.id + 1, x.id))
    ++ (held.filter (fun x => x.sent.isSome && (x.rest.any (fun a => a.tgt.inLine l)
        || x.writes.any (fun w => w.1.inLine l)))).map (fun x => (2 * x.arr, x.id))
  (ids.foldl (fun l e => keyInsert e l) []).foldl (fun st e =>
    let id := e.2
    let m := (st.tile t).m
    match m.su.loads.find? (fun x => x.id == id), m.su.stores.find? (fun x => x.id == id), m.vu.entry id with
    | some x, _, _ => st.portLoad t x
    | none, some x, _ => st.landStore t x
    | none, none, some x => st.landEntry t x (Target.inLine l) (fun tgt => tgt.inLine l && !x.early m.ctr.cycle)
    | none, none, none => st) s

/-- The fill of a line completes (R116). -/
def State.fillDone (s : State) (t : TileId) (l : Nat) : State :=
  if ((s.tile t).m.stash.line l).fill = .filling then (s.fillLine t l).serveLine t l else s

/-- The stash words whose pending bits are set when a port reads in the next cycle (R129): without those whose writes land at the
end of this one, with those that the port takes in this one. -/
def Member.pendNext (m : Member) : List Nat :=
  let c := m.ctr.cycle
  let by_ := fun (d : Option Nat) => match d with | some d => decide (d ≤ c) | none => false
  let words := fun (ws : List (Target × W64 × List Byte)) => ws.flatMap (fun w => stashWords w.1 w.2.2.length)
  let landing := (m.su.stores.filter (fun x => by_ x.due)).flatMap (fun x => stashWords x.tgt x.n)
    ++ (m.vu.sq.filter (fun x => by_ x.due)).flatMap (fun x => words x.writes)
  m.stash.pend.filter (fun w => !landing.contains w)
    ++ (m.su.stores.filter (fun x => x.fresh)).flatMap (fun x => stashWords x.tgt x.n)
    ++ (match m.vu.nextSend true c with | some x => words x.writes | none => [])

/-! ### The end of a cycle -/

/-- Slow writes due by the end of a cycle land in issue order (R164, R165). -/
def Member.landSlow (m : Member) (c : Nat) : Member :=
  let due := m.su.slow.filter (fun w => decide (w.due ≤ c))
  let m1 := { m with su := { m.su with slow := m.su.slow.filter (fun w => !decide (w.due ≤ c)) } }
  due.foldl (fun a w => a.land w.id w.ref (((a.su.slow.find? (fun y => y.id == w.id)).map (fun y => y.mask)).getD w.mask) w.val) m1

/-- The semaphore reads of this cycle take their values at its end and land one cycle on (R316). -/
def Member.readSems (m : Member) : Member :=
  let m1 := { m with su := { m.su with semRds := [] } }
  m.su.semRds.foldl (fun a e => a.putSlow e.1 (fullMask e.1) (BitVec.ofNat 4096 (m.sem e.2)) (m.ctr.cycle + 1)) m1

/-- The semaphores read in this cycle enter the replay log (R397), and their writes go on. -/
def State.readSems (s : State) (t : TileId) : State :=
  let m := (s.tile t).m
  (m.su.semRds.foldl (fun st e => st.logReplay t (.value (BitVec.ofNat 64 (m.sem e.2)))) s).modM t Member.readSems

/-- A register of a domain has a write outstanding (R168). A vector access with no active lane is no write (R164), and
neither is a load into `s0` (R162, log 28). -/
def Member.outstanding (m : Member) (b : Bank) : Bool :=
  m.su.slow.any (fun w => bankOf w.ref == b) || m.su.loads.any (fun x => bankOf x.dst == b && !isConst x.dst)
    || (b == .vector && (m.vu.lq ++ m.vu.sq).any (fun x => !x.lanes.isEmpty))

/-- The bank that a steering flip exchanges (R174). -/
def Member.flipBank (m : Member) : Bank := if m.su.inHandler then .supervisor else .steering

/-- The exchange of the steering domain or of the supervisor bank (R168, R174). -/
def SFaces.exchange (f : SFaces) (sup : Bool) : SFaces :=
  { f with
    s := if sup then f.s else vmap f.s Faced.flip
    sup := if sup then vmap f.sup Faced.flip else f.sup
    mb := if sup then f.mb else vmap f.mb Faced.flip
    td := if sup then f.td else vmap f.td Faced.flip
    ctl := Vector.ofFn (fun i => if (decide (7 ≤ i.val) && decide (i.val ≤ 9)) == sup then (f.ctl[i]).flip else f.ctl[i]) }

/-- The exchange of the vector domain (R168); `p0` has no W bit. -/
def VFaces.exchange (f : VFaces) : VFaces :=
  { v := vmap f.v Faced.flip, p := vmap f.p Faced.flip, k := vmap f.k Faced.flip }

/-- A post of the arrival of an island at its target (R372), to the live head where a replay stands in its place (R400). -/
def State.arrival (s : State) (t : TileId) (psem : BitVec 6) : State :=
  let n := BitVec.ofNat 8 (192 + psem.toNat)
  let by_ : Poster := ⟨9, BitVec.ofNat 7 t.val, 0⟩
  if (s.tile t).replays then s.modSlot (replaySlot t) (fun x => { x with posts := x.posts ++ [(n, 1, by_)] })
  else s.post t n 1 by_

/-- The voltage in millivolts that a curve record gives a point (R368). -/
def curveMv (c : BitVec 128) (n : Nat) : Nat := 620 + 10 * fld c (5 * n) 5

/-- The highest point whose curve voltage a rail meets (R377). -/
def bestPoint (c : BitVec 128) (mv : Nat) : Option Nat := (List.range 14).reverse.find? (fun p => decide (curveMv c p ≤ mv))

/-- One pass of the regulator's loop under the curve in force (R371). `point` is that of the running clock: a settle upward
runs at the old point, one downward at the new. -/
def Island.loop (x : Island) (now : W64) : Island :=
  if x.point < x.target then
    if x.mv < curveMv x.curve x.target then { x with reg := .stepUp, until_ := now + 1000 }
    else { x with reg := .settle x.target, until_ := now + 400 }
  else if x.target < x.point then { x with point := x.target, reg := .settle x.target, until_ := now + 400 }
  else if curveMv x.curve x.target < x.mv then { x with reg := .stepDown, until_ := now + 1000 }
  else { x with reg := .idle }

/-- A pass of the regulator with a re-plan taken into account (R371, R377). -/
def Island.pass (x : Island) (now : W64) : Island :=
  match x.nextCurve with
  | some c =>
    if curveMv c x.point ≤ x.mv then { x with curve := c, nextCurve := none, held := false }.loop now
    else
      match bestPoint c x.mv with
      | some p => { x with point := p, reg := .settle p, until_ := now + 400 }
      | none =>
        if x.point = 0 then { x with curve := c, nextCurve := none, held := true, reg := .stepUp, until_ := now + 1000 }
        else { x with point := 0, reg := .settle 0, until_ := now + 400 }
  | none =>
    if x.held ∧ x.mv < curveMv x.curve 0 then { x with reg := .stepUp, until_ := now + 1000 }
    else { x with held := false }.loop now

/-- The regulator of a tile's island makes a pass; a clock that is held is gated (R377). -/
def State.rampPass (s : State) (t : TileId) : State :=
  s.modTile t (fun x =>
    let y := x.isl.pass s.fleet
    { x with isl := y, gated := x.gated || (y.held && x.fast) })

/-- A new ramp target (R369, R372): an arrival post is armed, or made at once where the clock stands at the target. -/
def State.setTarget (s : State) (t : TileId) (tgt : Nat) (psem : Option (BitVec 6)) : State :=
  let x := (s.tile t).isl
  let settling := match x.reg with | .settle _ => true | .idle | .stepUp | .stepDown => false
  let arrived := decide (x.point = tgt) && !settling
  let s1 := s.modTile t (fun y => { y with isl := { y.isl with target := tgt, armed := if arrived then none else psem } })
  let s2 := if x.reg = .idle then s1.rampPass t else s1
  match psem with
  | some n => if arrived then s2.arrival t n else s2
  | none => s2

/-- A request of a granule ceiling comes into force (R391): those of one fabric cycle in the order of tile ids. -/
def State.askCeiling (s : State) (t : TileId) (v : W32) : State :=
  let s0 := s.inCycle (fun f => decide (f.ceil ≤ t.val))
  { s0 with ceilReq := v, fab := { s0.fab with ceil := t.val } }

/-- What a steering exchange makes visible: a new gear (R360), a new operating point (R369, R372), a ceiling request
(R391), a seed (R205). `w` tells which control registers had W set, `hi` the old HI. -/
def State.applyVisible (s : State) (t : TileId) (w : Ctl → Bool) (hi : Bool) : State :=
  let m := (s.tile t).m
  let gear := m.ctl .gear
  let s1 := if w .gear ∧ gear.getLsbD 0 ≠ hi then
      s.modTile t (fun x => { x with fast := gear.getLsbD 0, gated := true })
    else s
  let op := m.ctl .opreq
  let s2 :=
    if w .opreq then
      s1.setTarget t (min (fld op 0 4) 13) (if op.getLsbD 15 then some (op.extractLsb' 8 6) else none)
    else s1
  let s4 := if w .dceil then s2.askCeiling t ((m.ctl .dceil).setWidth 32) else s2
  if w .srseed then
    let sd := m.ctl .srseed
    s4.modM t (fun m => { m with vbank := bankSeed (sd.setWidth 32 ^^^ (sd >>> 32).setWidth 32) })
  else s4

/-- The steering unit's flip exchanges and its stream goes on (R168, R174). -/
def State.exchangeS (s : State) (t : TileId) : State :=
  let m := (s.tile t).m
  let sup := m.su.inHandler
  let w := fun (c : Ctl) => (m.f.ctl[c.index.val]).w && !ctlSup c && !sup
  let hi := (m.ctl .gear).getLsbD 0
  let s1 := s.modM t (fun m => { m with
    f := m.f.exchange sup
    dirty := { m.dirty with steer := true }
    su := { m.su with flip := false, pc := m.su.pc + 4, ready := m.ctr.cycle + 1 }
    ctr := if sup then { m.ctr with phaseSup := m.ctr.phaseSup + 1 }
      else { m.ctr with phaseS := m.ctr.phaseS + 1, retired := m.ctr.retired + 1 } })
  s1.applyVisible t w hi

/-- The vector unit's flip exchanges (R168). -/
def Member.exchangeV (m : Member) : Member :=
  { m with
    vf := m.vf.exchange
    dirty := { m.dirty with vector := true }
    vu := { m.vu with flip := false, ready := m.ctr.cycle + 1 }
    ctr := { m.ctr with phaseV := m.ctr.phaseV + 1 } }

/-- Flips whose writes have landed exchange; a flip of the steering or vector domain that waits on adds a cycle to FLIPWAIT (R168,
R169). -/
def State.flips (s : State) (t : TileId) : State :=
  let m := (s.tile t).m
  let s1 :=
    if m.su.flip then
      if m.outstanding m.flipBank then
        (if m.su.inHandler then s
        else s.modM t (fun m => { m with ctr := { m.ctr with flipwait := m.ctr.flipwait + 1 } }))
      else s.exchangeS t
    else s
  let m1 := (s1.tile t).m
  if m1.vu.flip then
    if m1.outstanding .vector then
      s1.modM t (fun m => { m with ctr := { m.ctr with flipwait := m.ctr.flipwait + 1 } })
    else s1.modM t Member.exchangeV
  else s1

/-- A fence: it has issued, and nothing is taken before it completes (R276). -/
def Instr.isFence : Instr → Bool
  | .fenceT | .fenceQ | .fenceD | .fenceP | .fenceS => true
  | _ => false

/-- The steering stream waits on a load, a stash fill, a fence or a `waita` (R376): its wait, the drain before a trap or a return
with a load outstanding, and the fence inside a task instruction, while an access is outstanding, among them. -/
def Member.suWaitsMem (m : Member) : Bool :=
  let filling := m.su.stores.any (fun x => some x.id == m.su.full && !m.ownReady x.tgt && x.tgt.isOwn)
  match m.su.wait with
  | .no => m.su.flip && !m.su.loads.isEmpty
  | .again i => (match i with
    | .retire | .poolGet .. | .poolPut .. => false
    | _ => if Instr.isStore i then filling
      else (cmdHead i).isNone && (Instr.isFence i || !m.su.loads.isEmpty || !m.su.stores.isEmpty))
  | .drain .. | .waita .. => true
  | .trap .. | .eret _ => !m.su.loads.isEmpty
  | .barWait .. | .acq .. | .retired => false

/-- The vector stream waits on a load or on a full vector memory queue (R376): a word that found its queue full has not issued in
this cycle. -/
def Member.vuWaitsMem (m : Member) : Bool :=
  let upd := m.vu.sq.any (fun x => match x.kind with | .update _ _ => true | .load _ | .kload | .store _ => false)
  (m.vu.flip && (!m.vu.lq.isEmpty || upd))
    || (m.vu.cmd.isSome && !m.vu.flip && !m.vu.vending && m.vu.halted.isNone && decide (m.vu.ready = m.ctr.cycle + 1)
      && !m.su.vwin.any (fun e => e.1 == m.ctr.cycle)
      && (decide (16 ≤ m.vu.loadsHeld) || decide (16 ≤ m.vu.storesHeld)))

/-- The sampler's counts of one cycle (R376): total, issuing, waiting on memory, engines busy. -/
def Tile.countCycle (x : Tile) : Tile :=
  let c := x.m.ctr.cycle
  let issued := x.m.su.win.any (fun e => e.1 == c) || x.m.su.vwin.any (fun e => e.1 == c)
  let waits := x.m.suWaitsMem || x.m.vuWaitsMem
  let busy := x.m.mu.isSome || x.m.ch.toList.any (fun c => !c.runs.isEmpty)
  { x with smp := (x.smp.1 + 1, x.smp.2.1 + issued.toNat, x.smp.2.2.1 + (!issued && waits).toNat,
      x.smp.2.2.2 + busy.toNat) }

/-- A grant that `pwr.rel` returned in the cycle that ends is held no more (R366). -/
def Tile.giveBack (x : Tile) : Tile := if x.drop then { x with grant := none, drop := false } else x

/-- The port has taken the steering stores of the cycle that ends (R129). -/
def State.takeStores (s : State) (t : TileId) : State :=
  let new := (s.tile t).m.su.stores.filter (fun x => x.fresh)
  (new.foldl (fun st x => st.setPend t (stashWords x.tgt x.n)) s).modM t (fun m => { m with su := { m.su with
    stores := m.su.stores.map (fun x => { x with fresh := false }) } })

/-- The next cycle begins: nothing has landed or saturated in it yet. -/
def Member.nextCycle (m : Member) (c : Nat) : Member :=
  { m with
    ctr := { m.ctr with cycle := c + 1 }
    su := { m.su with mbRank := 0 }
    sems := { m.sems with sat := [] }
    vu := { m.vu with left := [] } }

/-- The end of a tile cycle: port reads, then the writes that land at its end, then the flips (R127, R164, R168, R189,
R221). Posts that waited for a store which lands then are posts of the next cycle, before its waits are tested (R74, R273). -/
def State.endCycle (s : State) (t : TileId) : State :=
  let c := (s.tile t).m.ctr.cycle
  let s0 := (s.modTile t Tile.countCycle).sendQueue t false
  let s1 := ((s0.tile t).m.su.loads.filter (fun x => x.port == some c)).foldl (fun st x => st.portLoad t x) s0
  let s2 := s1.sendQueue t true
  let s3 := ((s2.tile t).m.su.stores.filter (fun x => match x.due with | some d => decide (d ≤ c) | none => false)).foldl
    (fun st x => st.performStore t x) s2
  let due := fun (x : VEntry) => match x.due with | some d => decide (d ≤ c) && x.read | none => false
  let s4 := (((s3.tile t).m.vu.lq ++ (s3.tile t).m.vu.sq).filter due).foldl (fun st x =>
    (st.landEntry t x Target.isOwn Target.isOwn).modM t (fun m => { m with vu := m.vu.upd x.id (fun y => { y with due := none }) })) s3
  let s5 := (s4.modM t (fun m => m.landSlow c)).readSems t
  let s6 := ((s5.tile t).m.su.loads.filterMap (fun x => match x.got with
      | some (v, p, d) => if d ≤ c then some (x, v, p) else none
      | none => none)).foldl (fun st e => st.landLoad t e.1 e.2.1 e.2.2) s5
  let s7 := ((s6.flips t).takeStores t).modTile t Tile.giveBack
  (s7.modM t (fun m => m.nextCycle c)).applyRel t

/-! ### Exceptions (R173, R378 to R383) -/

/-- Every write of older steering instructions has landed in its hidden face (R173). A load into `s0` writes no face (R162). -/
def Member.drained (m : Member) : Bool :=
  m.su.loads.all (fun x => isConst x.dst) && m.su.slow.all (fun w => bankOf w.ref == .vector) && m.su.semRds.isEmpty

/-- Every write of older vector words has landed in its hidden face (R173, R380). -/
def Member.vecDrained (m : Member) : Bool :=
  m.su.slow.all (fun w => bankOf w.ref != .vector) && m.vu.lq.isEmpty
    && m.vu.sq.all (fun x => match x.kind with | .update _ _ => false | .load _ | .kload | .store _ => true)

/-- An abandoned wait (R323, R365): its registration and its request are removed, and a waiting flip has not acted. -/
def State.abandon (s : State) (t : TileId) : State :=
  let s1 := s.modM t (fun m => { m with su := { m.su with wait := .no, flip := false, full := none } })
  { s1 with
    ms := { s1.ms with waiters := s1.ms.waiters.filter (fun w => w.tile != t) }
    dies := vmap s1.dies (fun (d : Die) => { d with fifo := d.fifo.filter (fun x => x != t) }) }

/-- Enters the handler (R381): TCAUSE, TPC and TVAL are written, the supervisor bank flips, and the steering program
counter takes vis(TVEC). DESIGN CHOICE (log 80): where a handler has made vis(TVEC) no multiple of 4 the spec names no trap, and
the word is fetched at that address. -/
def Member.enterTrap (m : Member) (r : Report) (tpc : W64) : Member :=
  let m1 := ((m.putReg (.ctl .tcause) ((tcauseOf r).setWidth 512)).putReg (.ctl .tpc) (tpc.setWidth 512)).putReg
    (.ctl .tval) (r.tval.setWidth 512)
  { m1 with
    f := m1.f.exchange true
    su := { m1.su with
      pc := m.ctl .tvec, inHandler := true, wait := .no, flip := false, ready := m1.ctr.cycle + 1, hfirst := m.su.nextId
      hcause := r.code }
    ctr := { m1.ctr with phaseSup := m1.ctr.phaseSup + 1 } }

/-- Every write of the handler has landed (R383), its stores among them; a handler entered for TRANSLATION_FAULT first orders
every older store of its tile at package scope (R105). -/
def State.eretReady (s : State) (t : TileId) : Bool :=
  let m := (s.tile t).m
  m.drained && m.su.stores.all (fun x => decide (x.id < m.su.hfirst)
    && (m.su.hcause != (0x03#8) || decide (3 < scopeRank (s.scopeOf t x.tgt))))

/-- A double fault (R382): the event with the held TCAUSE and the new cause, and the member ends. -/
def State.doubleFault (s : State) (t : TileId) (r : Report) : State :=
  (s.logEvent 0x0F (srcTile t) (evData (tcauseOf r).toNat ((s.tile t).m.ctl .tcause).toNat)).abortMember t

/-- What a trap waits for: in a handler the handler's own writes (R382, R383), otherwise the drain of R173. -/
def State.trapReady (s : State) (t : TileId) : Bool :=
  if (s.tile t).m.su.inHandler then s.eretReady t else (s.tile t).m.drained

/-- Taking an exception: in a handler a double fault, which ends the member once the handler's writes have landed; otherwise the
entry, once the drain of R173 has run. Until then the steering unit waits with the report chosen. -/
def State.takeTrap (s : State) (t : TileId) (r : Report) (tpc : W64) : State :=
  if (s.tile t).m.su.inHandler then
    if s.eretReady t then s.doubleFault t r
    else s.modM t (fun m => { m with su := { m.su with wait := .trap r tpc } })
  else
    let s1 := s.abandon t
    if (s1.tile t).m.drained then s1.modM t (fun m => m.enterTrap r tpc)
    else s1.modM t (fun m => { m with su := { m.su with wait := .trap r tpc } })

/-- A precise trap at the instruction that the program counter names (R380). -/
def State.raise (s : State) (r : Report) : State := s.takeTrap s.cur r (s.tile s.cur).m.su.pc

/-- Releases every parked record and halted engine of a tile (R105, R142, R149, R160, R262, R421, R422, R425). A command
that met an error of R425 completes with no further effect; every other one goes on. -/
def Member.releaseAll (m : Member) : Member :=
  { m with
    mu := m.mu.map (fun x => { x with halted := false })
    vu := { m.vu with halted := none }
    ch := vmap m.ch (fun (c : Channel) => { c with
      fault := none
      runs := c.runs.map (fun x => { x with
        halted := none, flights := x.flights.map (fun f => { f with parked := none }) }) }) }

/-- The return from an exception (R383), once the handler's writes have landed: the supervisor bank flips, engines are
released, and the stream goes on at vis(TPC). DESIGN CHOICE (log 80): where a handler has made vis(TPC) no multiple of 4 the spec
names no trap, and the word is fetched at that address. -/
def State.returnTrap (s : State) (t : TileId) : State :=
  let s1 := s.modM t (fun m =>
    let f := m.f.exchange true
    let m1 := { m with f := f }
    { m1.releaseAll with
      su := { m1.su with pc := m1.ctl .tpc, inHandler := false, wait := .no, ready := m1.ctr.cycle + 1 }
      ctr := { m1.ctr with phaseSup := m1.ctr.phaseSup + 1 } })
  { s1 with dies := vmap s1.dies (fun (d : Die) => { d with ce := d.ce.map (fun x =>
      if x.home = .tile t 0 then { x with halted := none } else x) }) }

/-- `eret` and `eret.abort` (R383). -/
def State.doEret (s : State) (t : TileId) (abort : Bool) : State :=
  if s.eretReady t then
    if abort then
      (s.logEvent 0x0F (srcTile t) (evData 0 ((s.tile t).m.ctl .tcause).toNat)).abortMember t
    else s.returnTrap t
  else s.modM t (fun m => { m with su := { m.su with wait := .eret abort } })

/-- The engine fault of lowest SEQ (R380), and of those of one block the oldest instruction's (R421). -/
def firstEngine (l : List (Nat × Report)) : Option (Nat × Report) :=
  match l with
  | [] => none
  | r :: rs => some (rs.foldl (fun a b =>
      if b.2.seq.toNat < a.2.seq.toNat ∨ (b.2.seq = a.2.seq ∧ b.1 < a.1) then b else a) r)

/-- The deferred report of the oldest access (R192). -/
def firstDeferred (l : List (Nat × Report)) : Option (Nat × Report) :=
  match l with
  | [] => none
  | r :: rs => some (rs.foldl (fun a b => if b.1 < a.1 then b else a) r)

/-- The one report that a boundary takes, and what stays pending (R380). A vector-word trap is pending once the older vector writes
have landed (R173). -/
def Member.nextReport (m : Member) : Option (Report × Reports) :=
  let p := m.rep
  match firstDeferred p.deferred with
  | some d => some (d.2, { p with deferred := p.deferred.erase d })
  | none =>
    match p.waw with
    | i :: is => some (suReport 0x09 0 (i.setWidth 64), { p with waw := is })
    | [] =>
      match (if m.vecDrained then p.vector else []) with
      | r :: rs => some (r, { p with vector := rs })
      | [] =>
        match firstEngine p.engine with
        | some r => some (r.2, { p with engine := p.engine.erase r })
        | none =>
          match p.cancel with
          | some a => some (suReport 0x43 0 a, { p with cancel := none })
          | none =>
            match p.hostMsg with
            | w :: ws => some (suReport 0x42 0 w, { p with hostMsg := ws })
            | [] => if p.timer then some (suReport 0x41 0 0, { p with timer := false }) else none

/-! ### Issue (R179, R362) -/

/-- The sum a window would hold with one more issue (R362). -/
def Su.winWith (u : Su) (cycle wt : Nat) : Nat := windowSum u.win cycle + wt

/-- POWER_OVER with its reason and the sum (R362). -/
def powerOver (reason sum : Nat) : Report :=
  suReport 0x0C (BitVec.ofNat 8 reason) (BitVec.ofNat 64 (sum * 2 ^ 32 + reason))

/-- Adds an issue's weight to the steering window. -/
def Member.addWeight (m : Member) (wt : Nat) : Member :=
  let c := m.ctr.cycle
  { m with su := { m.su with win := (c, wt) :: m.su.win.filter (fun e => decide (c < e.1 + 256)) } }

/-- The steering unit already issued the instruction and waits for its condition: its weight has been counted. -/
def SuWait.waiting : SuWait → Bool
  | .again _ | .drain .. | .eret _ => true
  | .no | .waita .. | .barWait .. | .acq .. | .trap .. | .retired => false

/-- The weight of the instruction that waits has been counted (R362). -/
def SuWait.counted : SuWait → Bool
  | .again i => !Instr.waitsAtIssue i
  | .drain .. | .eret _ => true
  | .no | .waita .. | .barWait .. | .acq .. | .trap .. | .retired => false

/-- The instruction that waits has not issued (R70, R191). -/
def SuWait.atIssue : SuWait → Bool
  | .again i => Instr.waitsAtIssue i
  | .no | .drain .. | .waita .. | .barWait .. | .acq .. | .trap .. | .eret _ | .retired => false

/-- The instruction's weight would carry the steering window above the limit of the held class; a handler is not checked
(R362). -/
def State.suOver (s : State) (t : TileId) (wt : Nat) : Bool :=
  let m := (s.tile t).m
  !m.su.inHandler && !m.su.wait.counted && decide (suLimit (classOf (s.tile t).grant) < m.su.winWith m.ctr.cycle wt)

/-- What an attempt at an instruction comes to is that it waits at issue: it has not issued (R70, R191). -/
def State.waitsNow (s : State) (r : State × Option Report) : Bool := r.2.isNone && (r.1.tile s.cur).m.su.wait.atIssue

/-- The issue of a steering instruction of weight `wt` on the current tile (R362): POWER_OVER with reason 1; else the
instruction's own checks and effect, which answers a state and perhaps a precise trap. Only an issue adds its weight, and only an
issue is checked against the limit. -/
def State.issue (s : State) (wt : Nat) (body : State → State × Option Report) : State :=
  let m := (s.tile s.cur).m
  if s.suOver s.cur wt && !s.waitsNow (body s) then s.raise (powerOver 1 (m.su.winWith m.ctr.cycle wt))
  else
    let r := body s
    match r.2 with
    | some rep => r.1.raise rep
    | none => if m.su.wait.counted || s.waitsNow r then r.1 else r.1.modM s.cur (fun x => x.addWeight wt)

/-- A steering instruction retires (R178): it counts outside a handler, and the next issues `gap` cycles on at `pc`. -/
def Member.retireTo (m : Member) (pc : W64) (gap : Nat) : Member :=
  { m with
    su := { m.su with pc := pc, ready := m.ctr.cycle + gap, wait := .no }
    ctr := if m.su.inHandler then m.ctr else { m.ctr with retired := m.ctr.retired + 1 } }

/-- A steering instruction of `len` bytes that does not branch retires (R54). -/
def Member.retire (m : Member) (len : Nat) : Member := m.retireTo (m.su.pc + BitVec.ofNat 64 len) 1

/-- A steering instruction waits for its condition; it is tried again in the next cycle. -/
def State.hold (s : State) (i : Instr) : State :=
  s.modM s.cur (fun m => { m with su := { m.su with wait := .again i, ready := m.ctr.cycle + 1 } })

/-- The shape of an instruction that writes one scalar register with a latency and goes on (R179). -/
def State.opS (s : State) (d : SReg) (f : Member → W64) (lat len : Nat) : State :=
  s.issue 1 (fun st => (st.modM st.cur (fun m => (m.writeS d (f m) lat).retire len), none))

/-- The shape of an instruction that changes the current member and goes on, with no check of its own. -/
def State.opM (s : State) (f : Member → Member) : State := s.issue 1 (fun st => (st.modM st.cur f, none))

/-- An answer of a step. -/
abbrev Ans := Host.Outcome State Fault Refusal

end Sys2Proof.Machine
end

