-- ==== Sys2Proof/Machine/LoadStore.lean ====
section
/-! DEFINITION. Steering loads, stores and `td.load` (R187 to R193, R209, R129). -/

namespace Sys2Proof.Machine

/-- The first word of a steering instruction, or the vector word, as TVAL holds it (R67). -/
def wordOf (i : Instr) : W64 :=
  match encode i with
  | .su ws => (ws.headD 0).setWidth 64
  | .vu w => w
  | .none => 0

/-- TRANSLATION_FAULT of a steering access (R102, R104). -/
def suFault (reason : BitVec 8) (kind : AccKind) (va : W64) : Report := ⟨0x03, 0, 0, 0, kind.code, reason, va⟩

/-- The checks of R188 in their order: alignment, routing, translation, the reserved and shelf ranges. -/
def State.suCheck (s : State) (t : TileId) (va : W64) (n : Nat) (kind : AccKind) : State × Except Report Target :=
  let m := (s.tile t).m
  if va.toNat % n ≠ 0 then (s, .error (suReport 0x02 0 va))
  else
    let r := s.routeT t .su m.asid va kind m.su.inHandler
    match r.2 with
    | .to tgt => (r.1, .ok tgt)
    | .tfault reason => (r.1, .error (suFault reason kind va))
    | .paRange => (r.1, .error (suReport 0x04 0 va))

/-- The forwarding table's byte at an address: the youngest older store's (R191). -/
def Member.fwdByte (m : Member) (va : Nat) : Option Byte :=
  (m.su.stores.reverse.find? (fun x => x.asid == m.asid && decide (x.va.toNat ≤ va) && decide (va < x.va.toNat + x.n))).map
    (fun x => x.data.extractLsb' (8 * (va - x.va.toNat)) 8)

/-- The first word with its pending bit set at the load's port cycle that a load would take a byte from, in debug mode: its
distance from the aligned word of the first byte (R129). -/
def Member.pendWord (m : Member) (dm : Bool) (tgt : Target) (fwd : List (Option Byte)) : Option Nat :=
  match dm, tgt with
  | true, .own off =>
    ((List.range fwd.length).find? (fun k => (fwd.getD k none).isNone && m.pendNext.contains ((off + k) / 8))).map
      (fun k => (off % 8 + k) / 8 * 8)
  | _, _ => none

/-- A load that has passed its checks issues (R189). -/
def State.startLoad (s : State) (t : TileId) (va : W64) (n : Nat) (dst : DbgReg) (kind : LoadKind) (tgt : Target) :
    State × Option Report :=
  let m := (s.tile t).m
  let fwd := (List.range n).map (fun k => m.fwdByte (va.toNat + k))
  match m.pendWord (s.tile t).dbg.dm tgt fwd with
  | some k => (s, some (suReport 0x0E 0 ((va &&& ~~~(7 : W64)) + BitVec.ofNat 64 k)))
  | none =>
    let c := m.ctr.cycle
    let whole := fwd.all (fun b => b.isSome)
    let x : SuLoad := { id := m.su.nextId, dst, live := true, va, n, kind, fwd, tgt,
                        port := if !whole && m.ownReady tgt then some (c + 1) else none,
                        got := if whole then some (extendLoad kind n (fwd.map (fun b => b.getD 0)), false, c + 1) else none }
    let s1 := if whole then s else s.touch t tgt
    (s1.modM t (fun m => ({ m with su := { m.su with loads := m.su.loads ++ [x], nextId := m.su.nextId + 1 } }).retire 4),
      none)

/-- The shape of a load (R187, R188). -/
def State.loadS (s : State) (a : SReg) (off : BitVec 12) (n : Nat) (dst : Member → DbgReg) (kind : LoadKind) : State :=
  s.issue 1 (fun st =>
    let m := (st.tile st.cur).m
    let va := siAddr (m.sreg a) off
    let r := st.suCheck st.cur va n .read
    match r.2 with
    | .error e => (r.1, some e)
    | .ok tgt => r.1.startLoad st.cur va n (dst m) kind tgt)

/-- A store that has passed its checks enters the forwarding table (R190, R191). -/
def State.startStore (s : State) (t : TileId) (va : W64) (n : Nat) (data : W64) (tgt : Target) : State :=
  let m := (s.tile t).m
  let x : SuStore := { id := m.su.nextId, asid := m.asid, va, n, data, tgt,
                       due := if m.ownReady tgt then some (m.ctr.cycle + 3) else none, fresh := true }
  (s.touch t tgt).modM t (fun m =>
    ({ m with su := { m.su with stores := m.su.stores ++ [x], full := none, nextId := m.su.nextId + 1 } }).retire 4)

/-- The entry of the forwarding table whose leaving a store at issue waits for (R191): the oldest of the 16 that it found. -/
def Su.room (u : Su) : Option Nat :=
  match u.full with
  | some k => if u.stores.any (fun x => x.id == k) then some k else none
  | none => if 16 ≤ u.stores.length then (u.stores.head?).map (fun x => x.id) else none

/-- The shape of a store (R187, R188, R191): with 16 entries full it waits at issue until the oldest leaves. -/
def State.storeS (s : State) (i : Instr) (src a : SReg) (off : BitVec 12) (n : Nat) : State :=
  s.issue 1 (fun st =>
    let m := (st.tile st.cur).m
    let va := siAddr (m.sreg a) off
    match m.su.room with
    | some k => ((st.modM st.cur (fun m => { m with su := { m.su with full := some k } })).hold i, none)
    | none =>
      let r := st.suCheck st.cur va n .write
      match r.2 with
      | .error e => (r.1, some e)
      | .ok tgt => (r.1.startStore st.cur va n (m.sreg src) tgt, none))

/-- `ld.b` (R187). -/
def execLdB (d a : SReg) (off : BitVec 12) (s : State) : Ans := .next (s.loadS a off 1 (fun m => m.sref d) .signed)
/-- `ld.bu` (R187). -/
def execLdBu (d a : SReg) (off : BitVec 12) (s : State) : Ans := .next (s.loadS a off 1 (fun m => m.sref d) .unsigned)
/-- `ld.h` (R187). -/
def execLdH (d a : SReg) (off : BitVec 12) (s : State) : Ans := .next (s.loadS a off 2 (fun m => m.sref d) .signed)
/-- `ld.hu` (R187). -/
def execLdHu (d a : SReg) (off : BitVec 12) (s : State) : Ans := .next (s.loadS a off 2 (fun m => m.sref d) .unsigned)
/-- `ld.w` (R187). -/
def execLdW (d a : SReg) (off : BitVec 12) (s : State) : Ans := .next (s.loadS a off 4 (fun m => m.sref d) .signed)
/-- `ld.wu` (R187). -/
def execLdWu (d a : SReg) (off : BitVec 12) (s : State) : Ans := .next (s.loadS a off 4 (fun m => m.sref d) .unsigned)
/-- `ld.d` (R187). -/
def execLdD (d a : SReg) (off : BitVec 12) (s : State) : Ans := .next (s.loadS a off 8 (fun m => m.sref d) .unsigned)
/-- `td.load` (R209, R210): the hidden face of the steering domain, inside a handler too. -/
def execTdLoad (n : TdIx) (a : SReg) (off : BitVec 12) (s : State) : Ans :=
  .next (s.loadS a off 64 (fun _ => .td n) (.desc ((wordOf (.tdLoad n a off)).setWidth 32)))
/-- `st.b` (R187). -/
def execStB (src a : SReg) (off : BitVec 12) (s : State) : Ans := .next (s.storeS (.stB src a off) src a off 1)
/-- `st.h` (R187). -/
def execStH (src a : SReg) (off : BitVec 12) (s : State) : Ans := .next (s.storeS (.stH src a off) src a off 2)
/-- `st.w` (R187). -/
def execStW (src a : SReg) (off : BitVec 12) (s : State) : Ans := .next (s.storeS (.stW src a off) src a off 4)
/-- `st.d` (R187). -/
def execStD (src a : SReg) (off : BitVec 12) (s : State) : Ans := .next (s.storeS (.stD src a off) src a off 8)

end Sys2Proof.Machine
end

