-- ==== Sys2Proof/Machine/Engine.lean ====
section
/-! DEFINITION. What the engines share: heads of queues and channels, waits and the wait record, releases and completions,
engine faults, and the accesses that an engine makes (R73 to R75, R102 to R105, R114, R128, R273, R401, R425, R426). -/

namespace Sys2Proof.Machine

/-- The tile runs (R336, R360, R394). -/
def Tile.suLive (x : Tile) : Bool := x.st == .running && !x.gated && x.dbg.hst == .running

/-- A recording tile owes a proof at this boundary (R394, R395): proof 0, or that of a multiple of 2^20 that RETIRED has reached. -/
def Tile.owesProof (x : Tile) : Bool :=
  x.dbg.recording && (x.dbg.trace.proofs.isEmpty
    || (decide (x.m.ctr.retired.toNat % 2 ^ 20 = 0) && !x.dbg.trace.proofs.any (fun p => p.retired == x.m.ctr.retired)))

/-- The steering unit stands at a boundary, or waits in an instruction that an interrupt abandons (R70, R173, R323, R365,
R380). -/
def SuWait.boundary : SuWait → Bool
  | .no | .waita .. | .barWait .. | .acq .. => true
  | .again i => !Instr.isFence i
  | .drain .. | .trap .. | .eret _ | .retired => false

/-- The tile stands at a boundary that owes a proof: its engines stop as for a pre-emption (R384 steps 1 and 2, R395). -/
def Tile.proofHolds (x : Tile) : Bool := x.owesProof && x.m.su.wait.boundary && decide (x.m.su.ready ≤ x.m.ctr.cycle)

/-- The engines of the tile issue and complete. -/
def Tile.engLive (x : Tile) : Bool := x.suLive && !x.proofHolds

/-! ### Heads and waits (R73, R74, R426) -/

/-- A channel issues no further accesses: a fault, a halted command or a parked access holds it (R103, R422). -/
def Channel.stuck (c : Channel) : Bool :=
  c.fault.isSome || c.runs.any (fun r => r.halted.isSome || r.flights.any (fun f => f.parked.isSome))

/-- The command of a site that every other condition lets start (R426). -/
def Member.headOf (m : Member) : Site → Option Cmd
  | .mu => if m.mu.isNone then m.q.mu.head? else none
  | .vu => if m.vu.cmd.isNone then m.q.vu.head? else none
  | .ce => m.q.ce.head?
  | .ch c =>
    let ch := m.ch[c.val]
    if ch.runs.all (fun r => r.issued) && ch.runs.all (fun r => r.halted.isNone) && ch.fault.isNone then
      (if c = 0 then m.q.cu.head? else ch.pending.map (fun p => p.1))
    else none

/-- Every site at which a command of a tile starts. -/
def allSites : List Site := [.mu, .vu, .ce, .ch 0, .ch 1, .ch 2, .ch 3, .ch 4]

/-- Puts a command into a list in the order of sequence numbers. -/
def seqInsert (c : Cmd) : List Cmd → List Cmd
  | [] => [c]
  | x :: xs => if c.seq.toNat < x.seq.toNat then c :: x :: xs else x :: seqInsert c xs

/-- The value that the waits of older commands that could pass now leave on a semaphore (R74). -/
def Member.semLeft (m : Member) (n : BitVec 8) (seq : W64) : Nat :=
  let rivals := (allSites.filterMap m.headOf).filter (fun c =>
    decide (c.seq.toNat < seq.toNat) && (match c.wait with | some w => w.sem == n | none => false))
  (rivals.foldl (fun l c => seqInsert c l) []).foldl (fun v c =>
    match c.wait with
    | some w => if w.consume && decide (w.thr.toNat ≤ v) then v - w.thr.toNat else v
    | none => v) (m.sem n)

/-- A command's wait would pass now (R73, R74). DEDUCED (log 83): only commands that every other condition lets start are tested
(R426), so a younger command on an idle engine may take the count that an older one behind a busy engine will want; R75's
promise, which R426 and R74 do not keep in that case, is not enforced. -/
def Member.waitPasses (m : Member) (c : Cmd) : Bool :=
  match c.wait with
  | some w => decide (w.thr.toNat ≤ m.semLeft w.sem c.seq)
  | none => true

/-- One poster goes before another of the same cycle: lowest PCL, then lowest PTILE (R401). -/
def Poster.before (a b : Poster) : Bool :=
  decide (a.pcl.toNat < b.pcl.toNat) || (a.pcl == b.pcl && decide (a.ptile.toNat < b.ptile.toNat))

/-- The poster of a value that reached a threshold, if the posts show it (R401, log 36): of the posts summed in the cycle that crossed
it, the one of lowest PCL, then lowest PTILE. -/
def Sems.posterOf (x : Sems) (n : BitVec 8) (thr : Nat) : Option Poster :=
  (x.posts.find? (fun p => p.sem == n && decide (p.before < thr) && decide (thr ≤ p.after))).map (fun p =>
    (x.posts.filter (fun q => q.sem == n && q.cycle == p.cycle)).foldl (fun a q => if q.by_.before a then q.by_ else a) p.by_)

/-- Writes a wait record (R401): the ring holds 1,024. -/
def State.waitRecord (s : State) (t : TileId) (n : BitVec 8) (thr : Nat) (since : Option Nat) (seq : W64) : State :=
  let m := (s.tile t).m
  let waited := match since with | some c => min (m.ctr.cycle - c) (2 ^ 32 - 1) | none => 0
  let put := fun (st : State) (p : Poster) => st.modTile t (fun x =>
    { x with dbg := { x.dbg with
      waits := (x.dbg.waits ++ [(⟨s.fleet, BitVec.ofNat 32 waited, p, n, seq⟩ : WaitRec)]).drop (x.dbg.waits.length + 1 - 1024) } })
  match m.sems.posterOf n thr with
  | some p => put s p
  | none =>
    let f := s.tickFree
    let w := Config.freeWord f.1
    put f.2 ⟨w.setWidth 4, w.extractLsb' 4 7, w.extractLsb' 16 32⟩

/-- A wait passes (R73): what it consumes, and its record. -/
def State.passWait (s : State) (t : TileId) (c : Cmd) : State :=
  match c.wait with
  | none => s
  | some w =>
    let thr := w.thr.toNat
    let s1 := s.waitRecord t w.sem thr c.since c.seq
    if w.consume then
      s1.modM t (fun m =>
        let m1 := m.setSem w.sem (m.sem w.sem - thr)
        if isLocal w.sem then (m1.setP w.sem (m.semP w.sem - thr)).setQ w.sem (m.semQ w.sem - thr) else m1)
    else s1

/-- Marks the head of a site as having been tested (R401). -/
def Member.markSince (m : Member) (u : Site) : Member :=
  let f := fun (c : Cmd) => if c.since.isNone then { c with since := some m.ctr.cycle } else c
  let hd := fun (l : List Cmd) => match l with | [] => [] | c :: cs => f c :: cs
  match u with
  | .mu => { m with q := { m.q with mu := hd m.q.mu } }
  | .vu => { m with q := { m.q with vu := hd m.q.vu } }
  | .ce => { m with q := { m.q with ce := hd m.q.ce } }
  | .ch c =>
    if c = 0 then { m with q := { m.q with cu := hd m.q.cu } }
    else { m with ch := m.ch.set c.val { m.ch[c.val] with pending := (m.ch[c.val]).pending.map (fun p => (f p.1, p.2)) } }

/-- The head of a site leaves its queue or its walker. -/
def Member.popHead (m : Member) (u : Site) : Member :=
  match u with
  | .mu => { m with q := { m.q with mu := m.q.mu.tail } }
  | .vu => { m with q := { m.q with vu := m.q.vu.tail } }
  | .ce => { m with q := { m.q with ce := m.q.ce.tail } }
  | .ch c =>
    if c = 0 then { m with q := { m.q with cu := m.q.cu.tail } }
    else { m with ch := m.ch.set c.val { m.ch[c.val] with pending := none } }

/-- The head of a site starts now, or its wait is to be tested for the first time. -/
def Member.canStart (m : Member) (u : Site) : Bool :=
  match m.headOf u with
  | some c => m.waitPasses c || c.since.isNone
  | none => false

/-! ### Releases and completions (R132, R273) -/

/-- A command completes: its post applies as a release, now or once the stores that it covers have landed (R73, R273). -/
def State.postDone (s : State) (t : TileId) (c : Cmd) (pcl : BitVec 4) : State :=
  let s1 := s.logReplay t (.completion c.seq)
  if c.post.isSome && !s1.releaseOk t c.marks c.scope then s1.modM t (fun m => { m with rel := m.rel ++ [(c, pcl)] })
  else s1.postNow t c pcl

/-! ### Engine faults (R104, R378, R425) -/

/-- An engine fault of a command. -/
def engineReport (code : BitVec 8) (seq : W64) (chan : BitVec 4) (cls kind : BitVec 2) (reason : BitVec 8) (tval : W64) : Report :=
  ⟨code, seq.setWidth 32, chan, cls, kind, reason, tval⟩

/-- Adds an engine fault to a tile's pending reports. -/
def State.engineFault (s : State) (t : TileId) (r : Report) : State :=
  s.modM t (fun m => { m with rep := { m.rep with engine := m.rep.engine ++ [(0, r)] } })

/-! ### Accesses of engines (R114, R128, R188) -/

/-- What an engine's access comes to: a value; a line that fills or a ceiling that holds it; a live barrier word that drops
it; a fault with its code, reason, kind and address. -/
inductive Eng (α : Type) where
  | ok (v : α)
  | wait
  | dropped
  | fault (code reason : BitVec 8) (kind : BitVec 2) (va : W64)
  deriving DecidableEq, Repr

/-- Routes one access of an engine of a tile (R104, R114). DESIGN CHOICE (log 90): an engine's access counts as made outside any
handler, also that of a command which a handler pushed (R80, R99). -/
def State.engTarget (s : State) (t : TileId) (e : EngCls) (asid : BitVec 12) (va : W64) (k : AccKind) : State × Eng Target :=
  let x := s.routeT t e asid va k false
  match x.2 with
  | .to tgt => (x.1, .ok tgt)
  | .tfault r => (x.1, .fault 0x03 r k.code va)
  | .paRange => (x.1, .fault 0x04 0 0 va)

/-- The source in events of an engine of a tile (R410). -/
def engSrc (e : EngCls) (t : TileId) : Half :=
  match e with
  | .ce => srcDie (dieOfTile t)
  | .su | .vu | .mu | .cu => srcTile t

/-- What a read at a target gives an engine: it logs poison (R78; for the copy unit with the fault it takes,
`State.cuPoison`) and, for replay, what comes from outside (R397). -/
def State.engReadAt (s : State) (t : TileId) (e : EngCls) (va : W64) (tgt : Target) (n : Nat) : State × Eng (List Byte) :=
  let r := s.readT t tgt n
  match r.2 with
  | .ok bs => ((match e with
    | .su | .vu | .mu | .cu => r.1.logRead t va tgt
    | .ce => r.1), .ok bs)
  | .poison => (match e with
    | .cu => r.1
    | .su | .vu | .mu | .ce => r.1.logPoison (engSrc e t) (s.paOfTarget t tgt), .fault 0x05 0 0 va)
  | .pending => (r.1, .fault 0x0E 0 0 (va &&& ~~~(7 : W64)))
  | .wait | .dropped => (r.1, .wait)

/-- The pieces of bytes [va, va+n), each within one aligned 8-byte word. -/
def pieces : Nat → W64 → Nat → List (W64 × Nat)
  | 0, _, _ => []
  | f + 1, va, n =>
    if n = 0 then []
    else
      let k := min n (8 - va.toNat % 8)
      (va, k) :: pieces f (va + BitVec.ofNat 64 k) (n - k)

/-- Reads pieces in order; the first that does not give its bytes decides. -/
def State.engPieces (s : State) (t : TileId) (e : EngCls) (asid : BitVec 12) : List (W64 × Nat) → State × Eng (List Byte)
  | [] => (s, .ok [])
  | (va, n) :: ps =>
    let x := s.engTarget t e asid va .read
    match x.2 with
    | .ok tgt =>
      let r := x.1.engReadAt t e va tgt n
      (match r.2 with
      | .ok bs =>
        let rest := State.engPieces r.1 t e asid ps
        (match rest.2 with
        | .ok more => (rest.1, .ok (bs ++ more))
        | other => (rest.1, other))
      | other => (r.1, other))
    | .wait => (x.1, .wait)
    | .dropped => (x.1, .dropped)
    | .fault c r k a => (x.1, .fault c r k a)

/-- Reads `n` bytes at a virtual address, word by word (R128). -/
def State.engRead (s : State) (t : TileId) (e : EngCls) (asid : BitVec 12) (va : W64) (n : Nat) : State × Eng (List Byte) :=
  s.engPieces t e asid (pieces (n + 1) va n)

/-- Writes bytes within one aligned 8-byte word. DESIGN CHOICE (log 107): a write of the collective engine brings what a link write
brings and wakes a watched word as one does (R322). -/
def State.engWrite1 (s : State) (t : TileId) (e : EngCls) (asid : BitVec 12) (va : W64) (bs : List Byte) : State × Eng Unit :=
  let x := s.engTarget t e asid va .write
  match x.2 with
  | .ok tgt =>
    let w := x.1.writeT t tgt (e == .cu || e == .ce) bs
    (match w.2 with
    | .ok () => (w.1, .ok ())
    | .dropped => (w.1, .dropped)
    | .wait | .poison | .pending => (w.1, .wait))
  | .wait => (x.1, .wait)
  | .dropped => (x.1, .dropped)
  | .fault c r k a => (x.1, .fault c r k a)

/-- Writes a list of pieces of bytes in order; a live barrier word drops its piece, and the others are written. -/
def State.engWrites (s : State) (t : TileId) (e : EngCls) (asid : BitVec 12) : List (W64 × List Byte) → State × Eng Unit
  | [] => (s, .ok ())
  | (va, bs) :: ws =>
    let w := s.engWrite1 t e asid va bs
    match w.2 with
    | .ok () => State.engWrites w.1 t e asid ws
    | .dropped =>
      let rest := State.engWrites w.1 t e asid ws
      (rest.1, match rest.2 with | .ok () => .dropped | other => other)
    | other => (w.1, other)

/-- The targets of pieces of bytes that an engine has written. -/
def State.engSpans (s : State) (t : TileId) (e : EngCls) (asid : BitVec 12) (ws : List (W64 × Nat)) : List (Target × Nat) :=
  ws.filterMap (fun w => match (s.engTarget t e asid w.1 .write).2 with
    | .ok tgt => some (tgt, w.2)
    | .wait | .dropped | .fault .. => none)

/-- A stash holds a poisoned unit or word. -/
def Stash.anyPoison (x : Stash) : Bool := !x.bad.isEmpty || x.lines.any (fun l => l.2.poison != 0)

/-- Poison that a write could renew stands somewhere in the package. -/
def State.anyPoison (s : State) : Bool :=
  !s.ms.poison.isEmpty || !s.ms.bad.isEmpty || s.tiles.toList.any (fun x => x.m.stash.anyPoison)
    || s.slots.any (fun e => e.2.img.stash.anyPoison)

/-- The units that an engine's write of pieces at virtual addresses covers whole are renewed (R78, R117, log 41). -/
def State.engRenew (s : State) (t : TileId) (e : EngCls) (asid : BitVec 12) (ws : List (W64 × Nat)) : State :=
  if s.anyPoison then s.renew t (s.engSpans t e asid ws) else s

/-- Translates addresses in order (R102); the first failure decides. The Boolean tells whether every one lies in the own
stash on a READY line. -/
def State.engTranslate (s : State) (t : TileId) (e : EngCls) (asid : BitVec 12) (k : AccKind) : List W64 → State × Eng Bool
  | [] => (s, .ok true)
  | va :: vs =>
    let x := s.engTarget t e asid va k
    match x.2 with
    | .ok tgt =>
      let here := match tgt with
        | .own off => ((s.tile t).m.stash.line (off / 256)).fill == .ready
        | .pa _ _ => false
      let rest := State.engTranslate x.1 t e asid k vs
      (rest.1, match rest.2 with | .ok b => .ok (here && b) | other => other)
    | .wait => (x.1, .wait)
    | .dropped => (x.1, .dropped)
    | .fault c r kd a => (x.1, .fault c r kd a)

/-! ### Elements of descriptors -/

/-- The bytes that an element's code lies in: their address and number. -/
def Td.place (d : Td) (ix : List Nat) : W64 × Nat := (d.ea ix, (d.bitIn ix + d.w + 7) / 8)

/-- The code of an element in the bytes of its place (R207). -/
def Td.codeIn (d : Td) (ix : List Nat) (bs : List Byte) : Nat := natOfBytes bs / 2 ^ d.bitIn ix % 2 ^ d.w

/-- Reads the codes of elements in order. -/
def State.engCodes (s : State) (t : TileId) (e : EngCls) (asid : BitVec 12) (d : Td) : List (List Nat) → State × Eng (List Nat)
  | [] => (s, .ok [])
  | ix :: ixs =>
    let p := d.place ix
    let r := s.engRead t e asid p.1 p.2
    match r.2 with
    | .ok bs =>
      let rest := State.engCodes r.1 t e asid d ixs
      (rest.1, match rest.2 with | .ok l => .ok (d.codeIn ix bs :: l) | other => other)
    | .wait => (r.1, .wait)
    | .dropped => (r.1, .dropped)
    | .fault c q k a => (r.1, .fault c q k a)

/-- The number of units that a copy moves (R139): elements, or the bytes of the rows of a packed format (R207). -/
def Td.items (d : Td) : Nat := if d.w < 8 then d.count * d.w / 8 else d.count

/-- The size of one unit of a copy. -/
def Td.itemBytes (d : Td) : Nat := if d.w < 8 then 1 else d.w / 8

/-- The address of unit k of a copy. -/
def Td.itemAddr (d : Td) (k : Nat) : W64 :=
  if d.w < 8 then
    let row := d.extent 0 * d.w / 8
    d.ea (d.tuple (k / row * d.extent 0)) + BitVec.ofNat 64 (k % row)
  else d.ea (d.tuple k)

/-- The units of one row of the outermost dimension (R146). -/
def Td.rowItems (d : Td) : Nat := d.items / d.extent (d.ndim - 1)

/-! ### What falls due in a cycle -/

/-- The step of the engines that has to fall in the current cycle of a tile and lands before its waits are tested: a matrix command
whose time has come (R258, R261, R263), a block that has ended (R213). DESIGN CHOICE (log 106): the spec gives no cycle for the
completion of a block whose `vend` exchanges at the end of cycle L with no store outstanding; it completes and posts in L + 1,
before the starts of that cycle (R3, R212). -/
def State.dueDone (s : State) (t : TileId) : Option Instr :=
  let x := s.tile t
  let m := x.m
  if !x.engLive then none
  else
    let mu := match m.mu with
      | some r =>
        (match r.doneAt with
        | some d =>
          if r.halted || decide (m.ctr.cycle < d) then none
          else if r.next < r.total then some (Instr.engineAccessLands t .mu 0)
          else some (Instr.commandCompletion t .mu 0)
        | none => none)
      | none => none
    let vu := m.vu.cmd.isSome && m.vu.vending && !m.vu.flip && m.vu.sq.isEmpty
    match mu with
    | some i => some i
    | none => if vu then some (Instr.commandCompletion t .vu 0) else none

/-- The command that starts in the current cycle of a tile, after every post of the cycle (R74, R132, R212, R249). -/
def State.dueStart (s : State) (t : TileId) : Option Instr :=
  if !(s.tile t).engLive then none
  else (allSites.find? (fun u => u != .ce && (s.tile t).m.canStart u)).map (fun u => Instr.commandStart t u)

/-! ### Parties outside the tiles (R84, R403 to R406) -/

/-- The pieces of physical bytes [a, a+n), each within one aligned 8-byte word. -/
def paPieces : Nat → Nat → Nat → List (Nat × Nat)
  | 0, _, _ => []
  | f + 1, a, n =>
    if n = 0 then []
    else
      let k := min n (8 - a % 8)
      (a, k) :: paPieces f (a + k) (n - k)

/-- The pieces of bytes to write at a physical address. -/
def bytePieces (a : Nat) (bs : List Byte) : List (Nat × List Byte) :=
  (paPieces (bs.length + 1) a bs.length).map (fun e => (e.1, (bs.drop (e.1 - a)).take e.2))

/-- Writes of a party outside the tiles, each piece at its memory point (R84, R128): a live barrier word drops its piece and logs
BARRIER_WRITE with the writer (R329, R410). Answers the pieces that have to wait. -/
def State.outsideWrites (s : State) (src : Half) : List (Nat × List Byte) → State × List (Nat × List Byte)
  | [] => (s, [])
  | (a, bs) :: ws =>
    let w := s.writeAt src a 0 true bs
    match w.2 with
    | .ok () => State.outsideWrites w.1 src ws
    | .dropped => State.outsideWrites (w.1.logEvent 0x0C src (evData a 0)) src ws
    | .wait | .poison | .pending =>
      let r := State.outsideWrites w.1 src ws
      (r.1, (a, bs) :: r.2)

/-- The targets of pieces of bytes at physical addresses. -/
def pieceSpans (ws : List (Nat × List Byte)) : List (Target × Nat) := ws.map (fun e => (.pa e.1 0, e.2.length))

/-- Writes of a party outside the tiles, with the poison that they renew where they cover whole units (R78, R84): answers what has to
wait. A unit lies in one line and one granule, so its pieces land together. -/
def State.outsidePut (s : State) (src : Half) (ws : List (Nat × List Byte)) : State × List (Nat × List Byte) :=
  let w := s.outsideWrites src ws
  (w.1.renew 0 (pieceSpans (ws.filter (fun e => !w.2.contains e))), w.2)

/-- A message completes (R405): busy clears, the status is written and vector 1 signals. -/
def State.msgDone (s : State) (p : PortId) (status : Nat) : State :=
  s.modPort p (fun x => { x with busy := false, work := none, status := BitVec.ofNat 4 status, vec1 := x.vec1 + 1 })

/-- The mark of an ATTEST whose report is formed and lands piece by piece (R408). -/
def attestLanding : W64 := 0x107

/-- The pieces of BAR2 writes that wait are tried again (R403, R406); a report that has landed completes its message. -/
def State.landHost (s : State) (p : PortId) : State :=
  let x := s.ports[p.val]
  let w := s.outsidePut (srcPort p) x.wr
  let s1 := w.1.modPort p (fun y => { y with wr := w.2 })
  match w.2, x.work with
  | [], some (ty, _, _) => if ty = attestLanding then s1.msgDone p 0 else s1
  | _, _ => s1

end Sys2Proof.Machine
end

