-- ==== Sys2Proof/Machine/Places.lean ====
section
/-! DEFINITION. Where the accesses of the copy unit go: sources and destinations of flights, the units that one access moves, the order
of the writes of a channel, and what a member that stops has still to land (R128, R133, R135, R139 to R147, R384). -/

namespace Sys2Proof.Machine

/-- The flight at a place among those of a channel's runs in issue order: its run's place, its own, and both. -/
def locate : List CuRun → Nat → Option (Nat × Nat × CuRun × Flight)
  | [], _ => none
  | r :: rs, k =>
    match r.flights[k]? with
    | some f => some (0, k, r, f)
    | none => (locate rs (k - r.flights.length)).map (fun x => (x.1 + 1, x.2))

/-! ### Sources and destinations -/

/-- Where a copy-unit access writes: a slot's byte offset from slot 0, or bytes of memory. -/
inductive CuPlace where
  | acc (off : Nat)
  | mem (va : W64) (n : Nat)
  deriving DecidableEq, Repr

/-- The element type of an accumulation (R140). -/
inductive AccTy where
  | f32 | bf16 | i32
  deriving DecidableEq, Repr

/-- The element type of an accumulating command (R140, R147). -/
def accOf : Instr → Option AccTy
  | .cpAccF32 .. | .scatterAccF32 .. => some .f32
  | .cpAccBf16 .. | .scatterAccBf16 .. => some .bf16
  | .cpAccI32 .. | .scatterAccI32 .. => some .i32
  | _ => none

/-- The accumulator slot of a copy (R141). -/
def cuSlot : Instr → Option (BitVec 3)
  | .cp _ _ _ n | .cpAccF32 _ _ _ n => n
  | _ => none

/-- Unit j of row x of a table. -/
def rowItem (d : Td) (x elem : Nat) : W64 := d.itemAddr (x * d.rowItems + elem % d.rowItems)

/-- The destination of unit `i` of a flight (R139, R141, R143, R147, R151, R156). -/
def cuDst (c : Cmd) (f : Flight) (j : Option (Fin 16)) (i : Nat) : CuPlace :=
  let d := tdOf c.d0
  let e := f.elem + i
  match c.op with
  | .cp _ _ _ (some n) | .cpAccF32 _ _ _ (some n) => .acc (n.toNat * 131072 + (d.itemAddr e).toNat)
  | .cpMc .. => .mem (d.itemAddr e + BitVec.ofNat 64 (match j with | some k => k.val | none => 0) * c.x) d.itemBytes
  | .scatter .. | .scatterAccF32 .. | .scatterAccBf16 .. | .scatterAccI32 .. => .mem (rowItem d f.row e) d.itemBytes
  | .atomAdd .. | .atomAddthr .. | .atomSwap .. | .atomCas .. | .atomMin .. | .atomMax .. | .atomArrive .. | .note .. => .mem c.x 8
  | _ => .mem (d.itemAddr e) d.itemBytes

/-- The destinations of the units of a flight. -/
def Flight.places (f : Flight) (c : Cmd) (j : Option (Fin 16)) : List CuPlace := (List.range f.cnt).map (cuDst c f j)

/-- The source of unit `i` of a flight. -/
def cuSrc (c : Cmd) (f : Flight) (i : Nat) : W64 × Nat :=
  let x := tdOf c.d1
  match c.op with
  | .gather .. => (rowItem x f.row (f.elem + i), x.itemBytes)
  | _ => (x.itemAddr (f.elem + i), x.itemBytes)

/-- The tiles to which a command writes each unit: those of MASK for a `cp.mc`, else the one destination (R143). -/
def cuCopies : Instr → List (Option (Fin 16))
  | .cpMc _ _ _ _ mask => ((List.finRange 16).filter (fun j => mask.getLsbD j.val)).map some
  | _ => [none]

/-- The destinations that a flight has still to write. -/
def Flight.dests (f : Flight) (c : Cmd) : List CuPlace :=
  match f.stage, c.op with
  | .ret _, _ => []
  | .read, _ => (cuCopies c.op).flatMap (fun j => f.places c j)
  | .write _ j, _ => f.places c j
  | _, _ => f.places c none

/-- The number of consecutive units from a place on, at most `fuel`, for which a test holds. -/
def runLen (ok : Nat → Bool) : Nat → Nat → Nat
  | 0, _ => 0
  | n + 1, k => if ok k then runLen ok n (k + 1) + 1 else 0

/-- A unit and the next one touch the same aligned 8-byte word. -/
def CuPlace.joins : CuPlace → CuPlace → Bool
  | .mem a n, .mem b _ => (a.toNat + n - 1) / 8 == b.toNat / 8
  | .acc _, _ | .mem _ _, .acc _ => false

/-- The number of units from `f.elem` on, of `left` that remain, that one access moves: those that share an aligned 8-byte word at a
destination, so that every word of it lands whole (R128). DESIGN CHOICE (log 98): where units lie across words, the access goes on over
every word that they tie together. -/
def groupLen (c : Cmd) (f : Flight) (left : Nat) : Nat :=
  if (accOf c.op).isSome then 1
  else runLen (fun i => (cuCopies c.op).any (fun j => (cuDst c f j (i - 1)).joins (cuDst c f j i))) (left - 1) 1 + 1

/-- The physical word of a virtual address, as its tile reaches it now. -/
def State.wordKey (s : State) (t : TileId) (asid : BitVec 12) (va : W64) : Option Nat :=
  match (s.routeT t .cu asid va .read false).2 with
  | .to (.own off) => ((s.tile t).m.stash.paOf off).map (fun a => a / 8)
  | .to (.pa a _) => some (a / 8)
  | .tfault _ | .paRange => none

/-- Two destinations meet in one aligned 8-byte word (R133). -/
def State.sameDest (s : State) (t : TileId) (a b : BitVec 12 × CuPlace) : Bool :=
  match a.2, b.2 with
  | .acc x, .acc y => x / 8 == y / 8
  | .mem x n, .mem y k =>
    let ws := fun (v : W64) (len : Nat) => (pieces (len + 1) v len).map (fun p => p.1)
    (ws x n).any (fun p => (ws y k).any (fun q =>
      (a.1 == b.1 && p.toNat / 8 == q.toNat / 8)
        || (match s.wordKey t a.1 p, s.wordKey t b.1 q with | some u, some v => u == v | _, _ => false)))
  | .acc _, .mem _ _ | .mem _ _, .acc _ => false

/-- The flags dword that a walker's run writes when it completes (R160). -/
def CuRun.flagsPlace (r : CuRun) : List CuPlace := match r.recAddr with | some a => [.mem (a + 48) 8] | none => []

/-- What the runs of a channel have still to write, with the ASID: the flights of a run in issue order, then the flags dword of its
record (R133, R160). -/
def CuRun.writes (r : CuRun) : List (BitVec 12 × CuPlace) :=
  (r.flights.flatMap (fun f => f.dests r.cmd) ++ r.flagsPlace).map (fun p => (r.cmd.asid, p))

/-- A write of run `i`, after the first `j` of its flights, has to wait for an access of the channel that was issued before it and has
still to write to one of its words (R133). -/
def State.writeBlocked (s : State) (t : TileId) (c : Fin 5) (i j : Nat) (asid : BitVec 12) (dst : CuPlace) : Bool :=
  let runs := (s.tile t).m.ch[c.val].runs
  let own := match runs[i]? with
    | some r => (r.flights.take j).flatMap (fun f => (f.dests r.cmd).map (fun p => (r.cmd.asid, p)))
    | none => []
  ((runs.take i).flatMap CuRun.writes ++ own).any (fun e => s.sameDest t e (asid, dst))

/-! ### What a member that stops has still to land (R135, R194, R214, R384) -/

/-- Each flight of a channel stays: it is parked, or it is a write to a word for which one that stays goes first (R133, R135). `held` are
the places of those that stay. -/
def State.heldBehind (s : State) (t : TileId) : List (BitVec 12 × CuPlace) → List (Cmd × Flight) → Bool
  | _, [] => true
  | held, (c, f) :: fs =>
    let ps := (f.dests c).map (fun p => (c.asid, p))
    let waits := match f.stage with | .write .. | .rmw _ => true | .read | .ret _ => false
    (f.parked.isSome || (waits && ps.any (fun p => held.any (fun h => s.sameDest t h p))))
      && State.heldBehind s t (held ++ ps) fs

/-- Every access that the units of a member issued has landed, those of the copy unit aside. -/
def Member.unitsLanded (m : Member) : Bool :=
  m.su.loads.isEmpty && m.su.stores.isEmpty && m.su.slow.isEmpty && m.su.semRds.isEmpty && m.vu.lq.isEmpty && m.vu.sq.isEmpty
    && !m.vu.flip && m.mbq.isEmpty

/-- Every access that a stopped member issued has landed; parked accesses of the copy unit stay, and so do those that wait behind one
for their word (R133, R135, R194, R214, R384). -/
def State.landed (s : State) (t : TileId) : Bool :=
  let m := (s.tile t).m
  m.unitsLanded && m.ch.toList.all (fun c => s.heldBehind t [] (c.runs.flatMap (fun r => r.flights.map (fun f => (r.cmd, f)))))

end Sys2Proof.Machine
end

