-- ==== Sys2Proof/Machine/Saved.lean ====
section
/-! DEFINITION. Members that leave their tile and return: context images, the service of their lines, held posts, and the
replay of a halted member (R317, R384 to R388, R394 to R400). -/

namespace Sys2Proof.Machine

/-! ### Registrations of lines (R118, R387) -/

/-- Every directory record and every started collective command passes to another owner by a map of owners (R307, R387). -/
def State.moveOwner (s : State) (f : Owner → Owner) : State :=
  { s with
    ms := { s.ms with dir := s.ms.dir.map (fun e => (e.1, f e.2)) }
    dies := vmap s.dies (fun (d : Die) => { d with ce := d.ce.map (fun c => { c with home := f c.home }) }) }

/-- The lines of a tile pass to a slot. -/
def toSlot (t : TileId) (k : Nat) : Owner → Owner
  | .tile o l => if o = t then .slot k l else .tile o l
  | .slot j l => .slot j l

/-- The lines of a slot pass to a tile. -/
def toTile (t : TileId) (k : Nat) : Owner → Owner
  | .tile o l => .tile o l
  | .slot j l => if j = k then .tile t l else .slot j l

/-! ### Images (R385) -/

/-- The stash of a live head that a replay sets aside (R400): a line with D = 0 is EMPTY, and every other one stays as it is. -/
def Stash.parked (x : Stash) : Stash := { x with lines := x.lines.filter (fun e => e.2.d) }

/-- The stash as an image holds it (R122, R385): a line with D = 0 is EMPTY, and I clears. -/
def Stash.image (x : Stash) : Stash :=
  { x with lines := (x.lines.filter (fun e => e.2.d)).map (fun e => (e.1, { e.2 with i := false })), pend := [] }

/-- The image of a member (R384, R385): an abandoned wait is gone, the windows of R362 are the tile's, and `cls` is the class
held. A member that has retired stays so. -/
def Member.image (m : Member) (cls : Option (BitVec 3)) : Member :=
  { m with
    su := { m.su with wait := (if m.su.wait = .retired then .retired else .no), flip := false, win := [], vwin := [] }
    stash := m.stash.image
    dirty := Dirty.clean
    rep := { m.rep with preempt := false }
    id := { m.id with cls := cls } }

/-- The lines of a stash that a save writes: those with D = 1 and I = 1 (R385). -/
def Stash.dirtyLines (x : Stash) : List Nat := (x.lines.filter (fun e => e.2.d && e.2.i)).map (fun e => e.1)

/-- The granules of a slot that hold a dirty part (R385): their places in the slot's layout. -/
def Member.dirtyGranules (m : Member) : List Nat :=
  [0] ++ (if m.dirty.steer then [1] else []) ++ (if m.dirty.vector then [2] else []) ++ (if m.dirty.tables then [3] else []) ++ [4]
    ++ (m.stash.dirtyLines.map (fun l => 5 + l / 256)).dedup ++ m.dirty.acc.map (fun k => 69 + k)
    ++ m.dirty.wb.flatMap (fun k => [85 + 2 * k, 86 + 2 * k]) ++ (if m.dirty.code then [101, 102] else [])

/-- The address of a granule of a slot. -/
def State.slotGranule (s : State) (k g : Nat) : Nat := s.cfg.contextBase + k * 0x680000 + g * 65536

/-- The dirty parts of a member, and other writes of the same step, cannot be written yet (R390). -/
def State.saveHeld (s : State) (m : Member) (k : Nat) (more : List Nat) : Bool :=
  s.ceilAll (m.dirtyGranules.map (s.slotGranule k) ++ more.filterMap s.dramPlace)

/-- The granules of a slot that hold a dirty part other than stash lines (R385). -/
def Member.partGranules (m : Member) : List Nat := m.dirtyGranules.filter (fun g => g < 5 || 68 < g)

/-- Free bytes: the part of an image whose layout the spec leaves to the implementation (log 66). -/
def State.freeBytes (s : State) (n : Nat) : List Byte × State :=
  let f := s.tickFree
  ((List.range n).map (Config.freeByte f.1), f.2)

/-- `n` free bytes are written in DRAM. -/
def State.freePut (s : State) (a n : Nat) : State :=
  let f := s.freeBytes n
  f.2.dramPut a f.1

/-- The dirty parts of a member are written to its slot, and the context directory entry of the slot (R384 steps 4 and 5, R386, R389):
each dirty stash line at its offset; the layout of the other parts within their sections and that of the directory are not stated, and
the bytes of their granules and of the entry are free (log 66). -/
def State.writeParts (s : State) (m : Member) (k : Nat) : State :=
  let s1 := m.partGranules.foldl (fun st g => st.freePut (st.slotGranule k g) 65536) s
  let s2 := m.stash.dirtyLines.foldl (fun st l =>
    st.dramPut (st.slotByte k (256 * l)) (bytesAt m.stash.bytes (256 * l) 256)) s1
  s2.freePut (s2.cfg.contextDir + 8 * k) 8

/-- The poison bits of a stash line whose copy in a slot has poisoned blocks (R78). -/
def State.slotPoison (s : State) (k l : Nat) : BitVec 4 :=
  BitVec.ofNat 4 ((List.range 4).foldl (fun a j =>
    if s.ms.poison.contains (s.slotByte k (256 * l + 64 * j) / 64) then a + 2 ^ j else a) 0)

/-- The stash that a slot gives back (R387, R388): the bytes of its lines with D = 1 stand in the slot, and with them the poison of its
blocks and words (R78, R409). -/
def State.fromSlot (s : State) (k : Nat) (x : Stash) : Stash :=
  x.lines.foldl (fun (st : Stash) e =>
    if e.2.d then
      { st with
        lines := st.lines.map (fun y => if y.1 == e.1 then (y.1, { y.2 with poison := y.2.poison ||| s.slotPoison k e.1 }) else y)
        bytes := putBytes st.bytes (256 * e.1) (bytesAt s.mem (s.slotByte k (256 * e.1)) 256)
        bad := st.bad ++ ((List.range 32).map (fun j => 32 * e.1 + j)).filter (fun w =>
          s.ms.bad.contains (s.slotByte k (8 * w) / 8) && !st.bad.contains w) }
    else st) x

/-- A number above that of every save so far. -/
def State.nextStamp (s : State) : Nat := s.slots.foldl (fun a e => max a (e.2.stamp + 1)) 0

/-- A tile that holds no member (R384 step 6, R385). Its debug block stays (R394). -/
def Tile.vacate (x0 : Tile) : Tile :=
  let x := x0.takeDbg
  { x with
    st := .idle, m := Member.reset, oc := [], grant := none, sunk := false, reassigned := false, drop := false
    dbg := { x.dbg with hst := .running, trace := Trace.reset, goal := none } }

/-- Saves a tile's member in a slot (R384 steps 4 to 6, R387): its dirty parts, the image, the returned grant, the line records,
the idle tile. -/
def State.saveMember (s : State) (t : TileId) (k : Nat) : State :=
  let x := s.tile t
  let img := x.m.image x.grant
  let sl : Slot := ⟨{ img with stash := { img.stash with bytes := [] } }, t, [], [], s.nextStamp, false, x.dbg.trace⟩
  let s1 := ((s.writeParts x.m k).moveOwner (toSlot t k)).modTile t Tile.vacate
  { s1 with
    slots := SMap.insert s1.slots k sl
    dies := vmap s1.dies (fun (d : Die) => { d with fifo := d.fifo.filter (fun y => y != t) })
    ms := { s1.ms with waiters := s1.ms.waiters.filter (fun w => w.tile != t) } }

/-- Applies the posts and the mailbox writes that a slot holds, and the completions held in its image whose stores have landed (R273,
R307, R317, R388). -/
def State.applyHeld (s : State) (t : TileId) (posts : List (BitVec 8 × Nat × Poster)) (mbs : List MbWrite) : State :=
  (posts.foldl (fun st p => st.post t p.1 p.2.1 p.2.2) (s.landMail t mbs)).applyRel t

/-- The number of a tile's sample interval and of its timer period at a fleet time (R375, R378). -/
def State.beginCounts (s : State) (x : Tile) : Tile :=
  { x with
    smp := (0, 0, 0, 0)
    sampled := s.fleet.toNat / 10000
    timed := if s.cfg.timerPeriod = 0 then 0 else s.fleet.toNat / s.cfg.timerPeriod }

/-- A member takes its tile with its visible `GEAR` and `OPREQ` (R360, R369, R374). -/
def State.takeTile (s : State) (t : TileId) : State :=
  let m := (s.tile t).m
  let hi := (m.ctl .gear).getLsbD 0
  let op := m.ctl .opreq
  let s1 := s.modTile t (fun x => { x with fast := hi, gated := x.gated || (x.fast != hi) })
  s1.setTarget t (min (fld op 0 4) 13) (if op.getLsbD 15 then some (op.extractLsb' 8 6) else none)

/-- A claimed tile starts, or enters the arbiter's FIFO for a class first (R367). -/
def State.startOrWait (s : State) (t : TileId) (cls : Option (BitVec 3)) : State :=
  match cls with
  | none => s.modTile t (fun x => { s.beginCounts x with st := .running })
  | some c =>
    (s.modM t (fun m => { m with id := { m.id with cls := some c } })).request t

/-- Restores the member of a slot on a claimed tile of a gang (R374, R387, R388); a slot that has been restored gives none. A
cancel that reached the claimed tile stays pending (R349). -/
def State.restoreMember (s : State) (t : TileId) (k : Nat) : State :=
  match s.slots.find? (fun e => e.1 == k && !e.2.restored) with
  | none => s
  | some (_, sl) =>
    let s1 := (s.moveOwner (toTile t k)).modTile t (fun x => { x with
      m := { sl.img with
        su := { sl.img.su with ready := sl.img.ctr.cycle }, stash := s.fromSlot k sl.img.stash, dirty := Dirty.clean
        rep := { sl.img.rep with cancel := if x.m.rep.cancel.isSome then x.m.rep.cancel else sl.img.rep.cancel } }
      oc := [], dbg := { x.dbg with trace := sl.trace } })
    let s2 := s1.modSlot k (fun y => { y with restored := true, posts := [], mbs := [] })
    ((s2.applyHeld t sl.posts sl.mbs).takeTile t).startOrWait t sl.img.id.cls

/-! ### Proofs (R395, R396) -/

/-- A proof of the member as it stands. -/
def State.proofOf (s : State) (t : TileId) : Proof :=
  let x := s.tile t
  ⟨x.m.ctr.retired, x.m.ctr.cycle, s.fleet, x.dbg.trace.base + x.dbg.trace.log.length, x.m⟩

/-- Adds a proof (R396): the oldest of nine is merged into the base; where the log is full the oldest proof and the log before the one
after it are reclaimed. No state before the oldest proof is reached any more. -/
def Trace.addProof (x : Trace) (p : Proof) (full : Bool) : Trace :=
  let ps := x.proofs ++ [p]
  let ps1 := if 8 < ps.length ∨ (full ∧ 1 < ps.length) then ps.tail else ps
  match ps1 with
  | [] => x
  | q :: _ => { x with
    proofs := ps1
    log := if full ∧ 1 < ps.length then x.log.drop (q.pos - x.base) else x.log
    base := if full ∧ 1 < ps.length then max x.base q.pos else x.base
    hist := x.hist.filter (fun e => decide (q.retired.toNat ≤ e.1.toNat)) }

/-- A proof is taken. How many records fill a log of LOGSZ bytes is not stated, so whether the log has filled since the last
proof is a free choice, but a record takes at least one byte (log 72). -/
def State.takeProof (s : State) (t : TileId) : State :=
  let f := s.freeBit
  f.2.modTile t (fun x => { x with dbg := { x.dbg with
    trace := x.dbg.trace.addProof (s.proofOf t) (f.1 || decide (s.cfg.logSize ≤ x.dbg.trace.log.length)) } })

/-- The debug block acts at this boundary before the member goes on (R394, R395). -/
def Tile.dbgFirst (x : Tile) : Bool := x.dbg.dmReq.isSome || x.dbg.recReq.isSome || x.owesProof

/-! ### Replay (R398 to R400) -/

/-- Records the member of a recording tile at a boundary (R398): the first with each count of RETIRED. -/
def State.note (s : State) (t : TileId) : State :=
  let x := s.tile t
  if x.dbg.recording && !x.m.su.inHandler && !x.dbg.trace.hist.any (fun e => e.1 == x.m.ctr.retired) then
    s.modTile t (fun y => { y with dbg := { y.dbg with trace := { y.dbg.trace with
      hist := y.dbg.trace.hist ++ [(y.m.ctr.retired, y.m)] } } })
  else s

/-- The bytes that a re-executed access reads (R397, R398): those of a READY line of the recorded stash, or of the unit in the log. -/
def replayBytes (m : Member) (log : List (Nat × LogRec)) (va : W64) (tgt : Target) (n : Nat) : Option (List Byte) :=
  let logged := log.findSome? (fun e => match e.2 with
    | .read a bs => if m.ctr.cycle ≤ e.1 ∧ a = va &&& ~~~(63 : W64) then some ((bs.drop (va.toNat % 64)).take n) else none
    | _ => none)
  match tgt with
  | .own off => if m.ownReady tgt then some (bytesAt m.stash.bytes off n) else logged
  | .pa _ _ => logged

/-- The value that a load of a recorded member brought (R397, R398): its landing value, or that of the bytes it reads. -/
def loadValue (m : Member) (log : List (Nat × LogRec)) (x : SuLoad) : Option W512 :=
  match x.got with
  | some (v, p, _) => if p then none else some v
  | none => (replayBytes m log x.va x.tgt x.n).map (fun bs => extendLoad x.kind x.n (mergeBytes x.fwd bs))

/-- An unlanded load of a recorded member lands in re-execution. A descriptor that fails its checks is discarded and reported
(R209). -/
def Member.replayLoad (m : Member) (log : List (Nat × LogRec)) (a : Member) (x : SuLoad) : Member :=
  match loadValue m log x with
  | some v => (match x.kind, tdCheck v with
    | .desc w, some reason => { a with rep := { a.rep with
        deferred := a.rep.deferred ++ [(x.id, suReport 0x06 reason ((w.setWidth 64 <<< 32) ||| reason.setWidth 64))] } }
    | _, _ => if x.live then a.land x.id x.dst (fullMask x.dst) (v.setWidth 4096) else a)
  | none => a

/-- The writes of re-execution: those in the own stash are made, every other one is discarded (R398). -/
def Stash.replayWrites (x : Stash) (ws : List (Target × W64 × List Byte)) : Stash :=
  ws.foldl (fun st w => match w.1 with | .own off => (st.write off w.2.2).1 | .pa _ _ => st) x

/-- An unlanded vector entry of a recorded member lands in re-execution (R216, R244): what it reads, its register write, its
writes. -/
def Member.replayEntry (m : Member) (log : List (Nat × LogRec)) (a : Member) (x : VEntry) : Member :=
  let got := x.rest.filterMap (fun l => (replayBytes m log l.va l.tgt (readSize x.kind)).map (fun bs => (l.lane, natOfBytes bs)))
  let y := if x.read then x else { x with codes := x.codes ++ got, rest := [] }.take
  let a1 := { a with
    stash := a.stash.replayWrites y.writes
    vu := a.vu.drop x.id
    ctr := { a.ctr with nfCount := a.ctr.nfCount + BitVec.ofNat 64 (nfLanes x) } }
  match y.kind with
  | .store _ => a1
  | .load _ | .kload | .update _ _ => a1.land y.id y.dst ((a.vu.entry x.id).getD x).mask y.data

/-- The vector entries that the drain of R173 lets land: loads and updates, and the stores that a mark of `vqmark` puts before one of
them (R223). -/
def Vu.draining (v : Vu) : List VEntry :=
  let writes := fun (x : VEntry) => match x.kind with | .load _ | .kload | .update _ _ => true | .store _ => false
  let all := v.lq ++ v.sq
  let l := all.filter (fun x => writes x || v.marks.any (fun k => decide (x.id < k) && all.any (fun y => writes y && decide (k ≤ y.id))))
  (l.foldl (fun q x => keyInsert (x.id, x.id) q) []).filterMap (fun e => v.entry e.1)

/-- The drain of R173 on a recorded member. Its stores stay in the forwarding table (R194). -/
def Member.settled (m : Member) (log : List (Nat × LogRec)) : Member :=
  let m1 := m.su.loads.foldl (fun a x => m.replayLoad log a x) (m.landSlow (2 ^ 64))
  let m2 := m.vu.draining.foldl (fun a x => m.replayEntry log a x) m1
  { m2 with su := { m2.su with loads := [] } }

/-- The live head of a tile gives way to a replay (R400): its lines are served as a non-resident member's. -/
def State.parkLive (s : State) (t : TileId) : State :=
  let x := s.tile t
  let m := { x.m with stash := x.m.stash.parked }
  let s1 := s.moveOwner (toSlot t (replaySlot t))
  { s1 with slots := SMap.insert s1.slots (replaySlot t) ⟨m, t, [], [], s1.nextStamp, false, Trace.reset⟩ }

/-- A halted replay returns to the live head (R399). -/
def State.unparkLive (s : State) (t : TileId) : State :=
  match s.slots.find? (fun e => e.1 == replaySlot t) with
  | none => s
  | some (_, sl) =>
    let s1 := (s.moveOwner (toTile t (replaySlot t))).modTile t (fun x => { x with
      m := sl.img, dbg := { x.dbg with hst := .liveHead } })
    { s1 with slots := SMap.erase s1.slots (replaySlot t) }.applyHeld t sl.posts sl.mbs

/-- The RETIRED count of the live head of a halted tile. -/
def State.liveRetired (s : State) (t : TileId) : W64 :=
  match s.slots.find? (fun e => e.1 == replaySlot t) with
  | some (_, sl) => sl.img.ctr.retired
  | none => (s.tile t).m.ctr.retired

/-- A count lies below every remaining proof (R396). -/
def Trace.noProof (x : Trace) (n : W64) : Bool := !x.proofs.any (fun p => decide (p.retired.toNat ≤ n.toNat))

/-- A stop at a count on a halted tile (R398): the live head, or the state that re-execution reaches. A stop below the head waits
until the accesses of the live head have landed; then the tile replays (R394). -/
def State.stopAt (s : State) (t : TileId) (n : W64) : State :=
  let x := s.tile t
  let head := s.liveRetired t
  let status := fun (st : State) (v : DbgStatus) =>
    st.modTile t (fun y => { y with dbg := { y.dbg with status := v, goal := none } })
  if head.toNat ≤ n.toNat then status (if x.dbg.hst = .replayHalt then s.unparkLive t else s) .ok
  else if x.dbg.trace.noProof n then status s .noproof
  else if x.dbg.hst ≠ .replayHalt ∧ s.landed t = false then
    s.modTile t (fun y => { y with dbg := { y.dbg with goal := some n } })
  else
    if x.dbg.trace.hist.any (fun e => e.1 == n) then
      (if x.dbg.hst = .replayHalt then s else s.parkLive t).modTile t (fun y =>
        { y with dbg := { y.dbg with hst := .replaying, goal := some n } })
    else status s .noproof

/-- Re-execution reaches its goal and halts there (R398): every register, face, W bit, stash line and queue equals what the live run
held. -/
def State.replayTo (s : State) (t : TileId) : State :=
  s.modTile t (fun y =>
    let m := match y.dbg.goal.bind (fun n => y.dbg.trace.hist.find? (fun e => e.1 == n)) with
      | some e => e.2.settled y.dbg.trace.log
      | none => y.m
    { y with m := m, dbg := { y.dbg with hst := .replayHalt, status := .ok, goal := none } })

/-- What a halted tile still does of itself: it replays, or a stop that waited for the live head's accesses is taken (R398). -/
def State.haltedStep (s : State) (t : TileId) : Option State :=
  let x := s.tile t
  match x.dbg.hst, x.dbg.goal with
  | .replaying, _ => some (s.replayTo t)
  | .liveHead, some n => if s.landed t then some (s.stopAt t n) else none
  | .liveHead, none | .running, _ | .replayHalt, _ => none

/-- The tile halts at a boundary (R175, R323, R365, R394): a wait is abandoned, and a stop that waited is taken. -/
def State.haltHere (s : State) (t : TileId) : State :=
  let s1 := (s.abandon t).modTile t (fun x => { x with dbg := { x.dbg with hst := .liveHead } })
  match (s.tile t).dbg.goal with
  | some n => s1.stopAt t n
  | none => s1

end Sys2Proof.Machine
end

