-- ==== Sys2Proof/Machine/Turn.lean ====
section
/-! DEFINITION. Fetching, and what one turn of the schedule does: which instruction or step runs next, on which state
(R50 to R54, R67, R168, R323, R380, R384). -/

namespace Sys2Proof.Machine

/-! ### Fetching (R50, R53, R54) -/

/-- Four bytes at an address lie in the section that applies: inside a handler the handler section, which begins at vis(TVEC)
(R50). DESIGN CHOICE (log 81): the code store holds what the launch fetched, so a handler section that a handler has moved reads
the bytes that the store has at its new place. -/
def Member.inSection (m : Member) (a : W64) : Bool :=
  if m.su.inHandler then
    decide ((m.ctl .tvec).toNat ≤ a.toNat) && decide (a.toNat + 4 ≤ (m.ctl .tvec).toNat + m.code.hlen)
  else decide (m.code.scb.toNat ≤ a.toNat) && decide (a.toNat + 4 ≤ m.code.scb.toNat + m.code.scl)

/-- A steering word of the code store (R53). -/
def Member.suWord (m : Member) (a : W64) : W32 := BitVec.ofNat 32 (numAt m.code.bytes a.toNat 4)

/-- What a fetch brings: an instruction, a word that encodes nothing, or an address outside the section. -/
inductive Fetched where
  | ok (i : Instr)
  | bad (b : BadWord)
  | outside (a : W64)
  deriving DecidableEq, Repr

/-- The number of further words of a steering instruction (R54). -/
def moreWords (w : W32) : Nat := if w.extractLsb' 30 2 = 1#2 then 1 else if w.extractLsb' 30 2 = 2#2 then 3 else 0

/-- The steering fetch at the program counter (R50, R54). DESIGN CHOICE (log 82): where a later word of a long instruction lies
outside the section, that is reported before anything the first word may encode. -/
def Member.fetchSu (m : Member) : Fetched :=
  let pc := m.su.pc
  if !m.inSection pc then .outside pc
  else
    let w := m.suWord pc
    let more := (List.range (moreWords w)).map (fun k => pc + BitVec.ofNat 64 (4 * (k + 1)))
    match more.find? (fun a => !m.inSection a) with
    | some a => .outside a
    | none =>
      match decodeSuWords w (more.map m.suWord) with
      | .ok i _ => .ok i
      | .badCmd r => .bad (.cmd w r)
      | .noWord | .short => .bad (.su w)

/-- The vector fetch at the vector program counter (R50, R64). -/
def Member.fetchVu (m : Member) : Fetched :=
  let a := m.vu.vpc
  if decide (m.code.vcb.toNat ≤ a.toNat) && decide (a.toNat + 8 ≤ m.code.vend) then
    let w := BitVec.ofNat 64 (numAt m.code.bytes a.toNat 8)
    match decodeVu w with
    | some i => .ok i
    | none => .bad (.vu w)
  else .outside a

/-! ### Turns -/

/-- What a turn comes to: an instruction or step to run on a state, or a state with nothing to run. -/
inductive Plan where
  | run (i : Instr) (s : State)
  | stay (s : State)
  | off
  deriving DecidableEq, Repr

/-- Every access numbered below its tile's mark that leaves the tile has reached its memory point (R108). -/
def State.reached (s : State) (marks : List Nat) : Bool :=
  (List.finRange 128).all (fun t =>
    let m := (s.tile t).m
    let k := marks.getD t.val 0
    m.su.loads.all (fun x => decide (k ≤ x.id) || !x.tgt.leaves || x.got.isSome)
      && m.su.stores.all (fun x => decide (k ≤ x.id) || !x.tgt.leaves)
      && (m.vu.lq ++ m.vu.sq).all (fun x => decide (k ≤ x.id) || x.lanes.all (fun a => !a.tgt.leaves)
          || (x.read && x.writes.isEmpty)))

/-- Nothing that a boundary takes first is pending, where the steering unit stands at a boundary or in a wait that it abandons (R323,
R380, R384, R394, R395). -/
def Tile.mayGo (x : Tile) : Bool :=
  x.suLive && !x.m.rep.preempt
    && (!x.m.su.wait.boundary || (!x.dbg.hreq && !x.dbgFirst && (x.m.su.inHandler || x.m.nextReport.isNone)))

/-- The steering unit stands before the word at its program counter. -/
def Tile.beforeWord (x : Tile) : Bool :=
  x.mayGo && x.m.su.wait == .no && !x.m.su.flip && decide (x.m.su.ready ≤ x.m.ctr.cycle)

/-- An instruction that acts at the end of its issue cycle, after the starts of the cycle (R320). -/
def Instr.actsLast : Instr → Bool
  | .qdrop .. => true
  | _ => false

/-- The instruction at the program counter, where it acts at the end of the cycle. -/
def State.lastOf (s : State) (t : TileId) : Option Instr :=
  if (s.tile t).beforeWord then
    (match (s.tile t).m.fetchSu with
    | .ok i => if Instr.actsLast i then some i else none
    | .bad _ | .outside _ => none)
  else none

/-- The vector unit's next word in the current cycle, if it has one (R212, R213). While the debugger waits for the drain of R175 at
a steering boundary, or a proof is to be taken there (R395), no further word issues. -/
def State.vuIssue (s : State) (t : TileId) : Option Plan :=
  let x := s.tile t
  let m := x.m
  if x.gated ∨ x.st ≠ .running ∨ x.dbg.hst ≠ .running ∨ m.ctr.cycle < m.vu.ready ∨ m.vu.flip = true ∨ m.vu.vending = true
      ∨ m.vu.halted ≠ none ∨ m.vu.cmd = none
      ∨ ((x.dbg.hreq || x.owesProof) = true ∧ m.su.wait.boundary = true ∧ m.su.ready ≤ m.ctr.cycle) then
    none
  else
    some (match m.fetchVu with
      | .ok i => .run i { s with cur := t }
      | .bad b => .run (.wordEncodingNothing b) { s with cur := t }
      | .outside a => .stay (s.vecTrap t 0x01 0 a))

/-- What goes before an instruction that acts at the end of its cycle: completions, the vector word, the starts. -/
def State.beforeLast (s : State) (t : TileId) : Option Plan :=
  match s.dueDone t with
  | some i => some (.run i s)
  | none =>
    match s.vuIssue t with
    | some p => some p
    | none => (s.dueStart t).map (fun i => .run i s)

/-- Stores that a freeze recorded are issued again and have not landed (R392): the unit goes on with an empty forwarding table
(R194). -/
def Member.reissues (m : Member) : Bool := m.su.stores.any (fun x => decide (x.id < m.su.record))

/-- The steering unit's next instruction in the current cycle, if it has one (R380, R384, R394, R395): pre-emption first, then what the
debug block does at a boundary, a report, the instruction that waits or the one fetched. -/
def State.suIssue (s : State) (t : TileId) : Option Plan :=
  let x := s.tile t
  let m := x.m
  let on := { s with cur := t }
  if x.gated ∨ x.st ≠ .running ∨ x.dbg.hst ≠ .running ∨ m.ctr.cycle < m.su.ready ∨ m.reissues = true then none
  else if m.su.wait.boundary ∧ x.dbg.hreq = true then
    (if m.drained && m.vecDrained then some (.stay (on.haltHere t)) else none)
  else if (m.su.wait.boundary || m.su.wait == .retired) = true ∧ m.rep.preempt = true then some (.run (.preempt t) on)
  else if m.su.wait.boundary ∧ (x.dbg.dmReq.isSome || x.dbg.recReq.isSome) = true then some (.stay (on.modTile t Tile.takeDbg))
  else if m.su.wait.boundary ∧ x.owesProof = true then (if s.landed t then some (.stay (on.takeProof t)) else none)
  else if m.su.wait.boundary ∧ m.su.inHandler = false ∧ m.nextReport.isSome then some (.run (.trapEntry t) on)
  else if m.su.flip then none
  else
    match m.su.wait with
    | .no => some (match m.fetchSu with
      | .ok i => ((if Instr.actsLast i then s.beforeLast t else none).getD (.run i (on.note t)))
      | .bad b => .run (.wordEncodingNothing b) (on.note t)
      | .outside a => .stay ((on.note t).takeTrap t (illegal a) m.su.pc))
    | .again i => some (.run i on)
    | .drain i marks => if s.reached marks then some (.run i on) else none
    | .waita _ _ _ _ woken => if woken then some (.run (.waitaWake t) on) else none
    | .barWait _ _ _ sink woken =>
      if woken then some (.run (if sink then .barWaitSinkRelease t else .waitaWake t) on) else none
    | .trap _ _ => if s.trapReady t then some (.run (.trapEntry t) on) else none
    | .eret abort => if s.eretReady t then some (.run (if abort then .eretAbort else .eret) on) else none
    | .acq _ | .retired => none

/-- The address register and offset of a steering load or store (R187, R209). -/
def Instr.access : Instr → Option (SReg × BitVec 12)
  | .ldB _ a o | .ldBu _ a o | .ldH _ a o | .ldHu _ a o | .ldW _ a o | .ldWu _ a o | .ldD _ a o | .tdLoad _ a o
  | .stB _ a o | .stH _ a o | .stW _ a o | .stD _ a o => some (a, o)
  | _ => none

/-- A tile whose cycles run on: its clock runs, and no replay stands on it (R398). -/
def Tile.clocked (x : Tile) : Bool := (x.st == .running || x.st == .stopped) && !x.gated && !x.replays

/-- The next steering instruction is an access whose translation misses the first-level TLB, which may hold back its issue (R100,
R179). -/
def State.suMisses (s : State) (t : TileId) : Bool :=
  let m := (s.tile t).m
  match m.su.wait, m.fetchSu with
  | .no, .ok i =>
    (match Instr.access i with
    | some (a, o) =>
      let va := siAddr (m.sreg a) o
      (m.stash.route m.asid va.toNat).isNone
        && (tlbFind ((s.tile t).tlb.filter (fun e => e.cls == EngCls.su.code)) m.asid va).isNone
    | none => false)
  | _, _ => false

/-- A resident tile whose clock runs owes the sample of a multiple of 10,000 ns (R375). A member stopped for a freeze runs no cycle, and
a replay stands in place of one that is not resident (R392, R400). -/
def State.owesSample (s : State) (t : TileId) : Bool :=
  (s.tile t).st == .running && !(s.tile t).gated && !(s.tile t).replays && decide ((s.tile t).sampled < s.fleet.toNat / 10000)

/-- What still has to fall in the current cycle of a tile (R3, R74, R179, R212): a sample (R375), completions, the issue of each unit
that can issue, then the starts of commands. An access that misses its TLB need not issue yet (`free`). -/
def State.inThisCycle (s : State) (t : TileId) (free : Bool) : Option Plan :=
  match s.owesSample t, s.dueDone t with
  | true, _ => some (.run (.sample t) s)
  | false, some i => some (.run i s)
  | false, none =>
    match (if free && s.suMisses t then none else s.suIssue t), s.vuIssue t, s.dueStart t with
    | some p, _, _ => some p
    | none, some p, _ => some p
    | none, none, some i => some (.run i s)
    | none, none, none => none

/-- The cycle of a tile ends (R3, R74). -/
def State.closeCycle (s : State) (t : TileId) : State := { s.endCycle t with closing := none }

/-- The cycle of a tile ends, unless something still has to fall in it. -/
def State.endPlan (s : State) (t : TileId) (free : Bool) : Plan :=
  match s.inThisCycle t free with
  | some p => p
  | none => .stay (s.closeCycle t)

/-- Nothing more falls in the current cycle of a tile. -/
def State.cycleOver (s : State) (t : TileId) : Bool := (s.inThisCycle t true).isNone

/-- A turn of the steering unit of a tile: the cycle ends where the unit does not issue in it. A halted tile may replay, or take the
stop that it owes (R398). -/
def State.planSu (s : State) (t : TileId) : Plan :=
  let x := s.tile t
  if x.gated ∨ x.st ≠ .running ∨ x.dbg.hst ≠ .running then .stay ((s.haltedStep t).getD s)
  else match s.suIssue t with
    | some p => p
    | none => s.endPlan t false

/-- A turn of the vector unit of a tile. -/
def State.planVu (s : State) (t : TileId) : Plan :=
  let x := s.tile t
  if x.gated ∨ x.st ≠ .running ∨ x.dbg.hst ≠ .running then .stay s
  else match s.vuIssue t with
    | some p => p
    | none => s.endPlan t false

/-! ### Fleet time (R288, R290) -/

/-- Timestamps go out over every link that is up (R288), once for each multiple of 16,000 ns. -/
def State.sendStamps (s : State) : State :=
  let k := s.fleet.toNat / 16000 + 1
  if s.fleet.toNat % 16000 ≠ 0 ∨ k ≤ s.fleetSync.exchanged then s
  else { s with
    fleetSync := { s.fleetSync with exchanged := k }
    links := vmap s.links (fun y => if y.lanes = 0 then y else { y with ctl := y.ctl ++ [CtlPacket.time s.fleet] }) }

/-- A shadow table written before this multiple of 262,144 ns replaces its active table, and its `cslot` has committed (R290). -/
def State.commitTable (s : State) (l : LinkId) : State :=
  match s.links[l.val].commit with
  | some w =>
    if s.fleet.toNat % 262144 = 0 ∧ s.fleet ≠ w then
      (s.modLink l (fun y => { y with active := y.shadow, commit := none })).modDie (dieOfLink l) (fun x => { x with
        ce := x.ce.map (fun r =>
          match r.cmd.op with
          | .cslot _ k _ _ _ true => if k = l ∧ r.progress = 1 then { r with progress := 2 } else r
          | _ => r) })
    else s
  | none => s

/-- A freeze has still to record what is outstanding 15 us after SEIZE (R392). -/
def State.recordDue (s : State) : Bool := s.seize.st == .stopping && s.seize.accs.isNone

/-- The nanoseconds until that record, or as many as no turn brings. -/
def State.toRecord (s : State) : Nat := if s.recordDue then s.seize.t0.toNat + 15000 - s.fleet.toNat else 2 ^ 64

/-- The regulators' next point in fleet time (R371, R377): the end of a step or a settle of an island, or of a step of a low rail. -/
def State.rampTimes (s : State) : List Nat :=
  (s.tiles.toList.filter (fun x => x.isl.reg != .idle)).map (fun x => x.isl.until_.toNat)
    ++ (s.dies.toList.filter (fun d => d.lowMv != d.lowTarget)).map (fun d => d.lowUntil.toNat)

/-- A step or settle of a tile's island, or a step of its die's low rail, whose time has come (R371, R377). -/
def State.rampDue (s : State) (t : TileId) : Option Instr :=
  let x := (s.tile t).isl
  let d := s.dies[(dieOfTile t).val]
  let past := fun (w : W64) => decide (w.toNat ≤ s.fleet.toNat)
  match x.reg with
  | .settle _ => if past x.until_ then some (.rampSettleEnd t) else none
  | .stepUp | .stepDown => if past x.until_ then some (.rampVoltageStep t) else none
  | .idle => if d.lowMv != d.lowTarget && past d.lowUntil then some (.rampVoltageStep t) else none

/-- Fleet time goes on by at most `ns`, and no further than the next point at which something hangs on it: the exchanges and the
commits of the time that it leaves come first, at the middle of a thousand one nanosecond is slewed (R288), and at a thousand the
waits on words that no table watches read again (R322). -/
def State.passTime (s : State) (ns : Nat) : State :=
  let s1 := (List.finRange 18).foldl (fun st l => st.commitTable l) s.sendStamps
  let now := s1.fleet.toNat
  let ramp := (s1.rampTimes.filter (fun w => decide (now < w))).foldl (fun a w => min a (w - now)) (2 ^ 64)
  let n := min ns (min (min (500 - now % 500) (262144 - now % 262144)) (min s.toRecord ramp))
  let k := (now + n) / 1000 + 1
  let y := s1.fleetSync
  if (now + n) % 1000 = 500 ∧ y.slewed < k ∧ y.due ≠ 0 ∧ 0 < n then
    { s1 with
      fleet := s1.fleet + BitVec.ofNat 64 (if 0 < y.due then n + 1 else n - 1)
      fleetSync := { y with due := if 0 < y.due then y.due - 1 else y.due + 1, slewed := k } }
  else
    let s2 := { s1 with fleet := s1.fleet + BitVec.ofNat 64 n }
    if (now + n) % 1000 = 0 ∧ 0 < n then s2.wakeUnwatched else s2

/-- What has to happen before fleet time goes on: the record of a freeze (R392), a rotation quantum (R340), what a regulator owes (R371,
R377), or a sample whose edge has passed (R375). -/
def State.dueAt (s : State) : Option Instr :=
  let now := s.fleet.toNat
  if s.recordDue && decide (s.seize.t0.toNat + 15000 ≤ now) then some .seizeAccessRecord
  else if now % 2000000 = 0 ∧ s.fleetSync.rotated ≤ now / 2000000 then some .rotationQuantum
  else
    match (List.finRange 128).findSome? s.rampDue with
    | some i => some i
    | none =>
      if now % 10000 = 0 then none
      else ((List.finRange 128).find? (fun t => s.owesSample t)).map (fun t => Instr.sample t)

/-! ### Fabric cycles (R338, R354) -/

/-- The dispatch round of a multiple of 64 fabric cycles has not run on a die (R338, R428). -/
def State.roundDue (s : State) (d : DieId) : Bool :=
  decide (s.dies[d.val].round ≤ s.fabric / 64) && s.seize.st == .none && s.fw.valid

/-- A running table has not acted in this fabric cycle (R354); those of a seized package stand still (R419). -/
def State.tideDue (s : State) (d : DieId) : Bool :=
  s.dies[d.val].tide.st == .running && decide (s.dies[d.val].tide.cyc ≤ s.fabric) && s.seize.st == .none

end Sys2Proof.Machine
end

