-- ==== Sys2Proof/Machine/Control.lean ====
section
/-! DEFINITION. Face, control-register and probe instructions, branches and calls, traps and returns, gears and current,
and `tlbi` (R107, R108, R168, R177, R309 to R313, R355, R359, R365, R366, R370, R383). -/

namespace Sys2Proof.Machine

/-! ### Control and probe registers (R176 to R178) -/

/-- The fields of a control register that are not reserved (R10, R358, R369, R379, R391). -/
def ctlMask : Ctl → W64
  | .gear => 0xBF01
  | .opreq => 0xBF0F
  | .tcause => 0xFFFFFFFF00FFFFFF
  | .dceil => 0xFFFFFFFF
  | .rank | .taskid | .jobid | .asid | .tvec | .tpc | .tval | .srseed => BitVec.allOnes 64

/-- Registers read from a handler only (R176). -/
def ctlPrivRead : Ctl → Bool
  | .gear | .opreq | .rank | .taskid | .jobid => false
  | .asid | .tvec | .tcause | .tpc | .tval | .dceil | .srseed => true

/-- Registers written from a handler only (R176). -/
def ctlPrivWrite : Ctl → Bool
  | .gear => false
  | .opreq | .rank | .taskid | .jobid | .asid | .tvec | .tcause | .tpc | .tval | .dceil | .srseed => true

/-- The tide table of a tile's own job on its die (R355). -/
def State.ownTide (s : State) (t : TileId) : Option Tide :=
  let x := s.dies[(dieOfTile t).val].tide
  if x.st ≠ .idle ∧ x.job = (s.tile t).m.job then some x else none

/-- The live value of a probe register (R178). The slack probes read the counters of the tide table (R355), which a launch and a
restore of the tile's member leave as they are, though R178 counts every probe as part of the member (DEDUCED, log 96). -/
def State.probeVal (s : State) (t : TileId) (p : Prb) : W64 :=
  let c := (s.tile t).m.ctr
  let tide := fun (f : Tide → W64) => ((s.ownTide t).map f).getD 0
  match p with
  | .cycle => BitVec.ofNat 64 c.cycle
  | .retired => c.retired
  | .phaseS => c.phaseS
  | .phaseV => c.phaseV
  | .flipwait => c.flipwait
  | .smpMem => c.smpMem
  | .smpIssue => c.smpIssue
  | .smpBusy => c.smpBusy
  | .smpSeq => c.smpSeq
  | .nfCount => c.nfCount
  | .slackIn => tide (fun x => x.slackIn)
  | .slackCredit => tide (fun x => x.slackCredit)
  | .slackSlot => tide (fun x => x.slackSlot)
  | .pseq => c.pseq

/-- What a control register reads as (R177): `DCEIL` reads as the ceiling in force (R391, log 102). -/
def State.ctlVal (s : State) (c : Ctl) : W64 :=
  if c = .dceil then BitVec.ofNat 64 s.ceiling else (s.tile s.cur).m.ctl c

/-- The sum that the steering window would have held (R362). -/
def State.suSum (s : State) : Nat := let m := (s.tile s.cur).m; m.su.winWith m.ctr.cycle 1

/-- `mov` (R177). -/
def execMov (d : SReg) (i : MIx) (s : State) : Ans := .next (s.opS d (fun m => m.mbox i) 0 4)

/-- `ctl.rd` (R176, R177). -/
def execCtlRd (d : SReg) (c : Ctl) (s : State) : Ans :=
  .next (s.issue 1 (fun st =>
    if ctlPrivRead c && !(st.tile st.cur).m.su.inHandler then (st, some (illegal (wordOf (.ctlRd d c))))
    else (st.modM st.cur (fun m => (m.writeS d (s.ctlVal c) 0).retire 4), none)))

/-- `ctl.wr` (R176, R177, R359): reserved fields are ignored; a high gear needs a grant. -/
def execCtlWr (c : Ctl) (a : SReg) (s : State) : Ans :=
  .next (s.issue 1 (fun st =>
    let x := st.tile st.cur
    let v := x.m.sreg a &&& ctlMask c
    if ctlPrivWrite c && !x.m.su.inHandler then (st, some (illegal (wordOf (.ctlWr c a))))
    else if c = .gear ∧ v.getLsbD 0 = true ∧ x.grant = none then (st, some (powerOver 2 st.suSum))
    else (st.modM st.cur (fun m => (m.putReg (.ctl c) (v.setWidth 512)).retire 4), none)))

/-- `probe` (R177, R178). -/
def execProbe (d : SReg) (p : Prb) (s : State) : Ans :=
  .next (s.opS d (fun _ => s.probeVal s.cur p) 0 4)

/-- `flip` (R168): it has issued, and stays at its word until the exchange at the end of a cycle. -/
def execFlip (s : State) : Ans :=
  .next (s.opM (fun m => { m with su := { m.su with flip := true, wait := .no, ready := m.ctr.cycle } }))

/-- `nop` (R313). -/
def execNop (s : State) : Ans := .next (s.opM (fun m => m.retire 4))

/-! ### Branches and calls (R309 to R312) -/

/-- The shape of a conditional branch (R309, R310). -/
def State.branchS (s : State) (off : BitVec 12) (c : Member → Bool) : State :=
  s.opM (fun m => if c m then m.retireTo (relTarget m.su.pc off) 2 else m.retire 4)

/-- `beq` (R310). -/
def execBeq (a b : SReg) (off : BitVec 12) (s : State) : Ans := .next (s.branchS off (fun m => m.sreg a == m.sreg b))
/-- `bne` (R310). -/
def execBne (a b : SReg) (off : BitVec 12) (s : State) : Ans := .next (s.branchS off (fun m => m.sreg a != m.sreg b))
/-- `blt` (R310). -/
def execBlt (a b : SReg) (off : BitVec 12) (s : State) : Ans := .next (s.branchS off (fun m => slt64 (m.sreg a) (m.sreg b)))
/-- `bge` (R310). -/
def execBge (a b : SReg) (off : BitVec 12) (s : State) : Ans := .next (s.branchS off (fun m => !slt64 (m.sreg a) (m.sreg b)))
/-- `bltu` (R310). -/
def execBltu (a b : SReg) (off : BitVec 12) (s : State) : Ans :=
  .next (s.branchS off (fun m => ult64 (m.sreg a) (m.sreg b)))
/-- `bgeu` (R310). -/
def execBgeu (a b : SReg) (off : BitVec 12) (s : State) : Ans :=
  .next (s.branchS off (fun m => !ult64 (m.sreg a) (m.sreg b)))

/-- `jal` (R311). -/
def execJal (d : SReg) (imm : W32) (s : State) : Ans :=
  .next (s.opM (fun m => (m.writeS d (m.su.pc + 8) 0).retireTo (relTarget m.su.pc imm) 2))

/-- A jump to a register's value (R312): a target off a multiple of 4 is ALIGNMENT at the jump. -/
def State.jumpS (s : State) (a : SReg) (link : Option SReg) : State :=
  s.issue 1 (fun st =>
    let m := (st.tile st.cur).m
    let target := m.sreg a
    if target.toNat % 4 ≠ 0 then (st, some (suReport 0x02 0 target))
    else (st.modM st.cur (fun m =>
      (match link with | some d => m.writeS d (m.su.pc + 4) 0 | none => m).retireTo target 2), none))

/-- `jr` (R312). -/
def execJr (a : SReg) (s : State) : Ans := .next (s.jumpS a none)
/-- `callr` (R312). -/
def execCallr (d a : SReg) (s : State) : Ans := .next (s.jumpS a (some d))

/-! ### Traps and returns (R382, R383) -/

/-- `trap` (R383): it completes, and SW_TRAP holds the next address; inside a handler it is a double fault. -/
def execTrap (imm : BitVec 12) (s : State) : Ans :=
  .next (s.issue 1 (fun st =>
    let r := suReport 0x15 0 (imm.setWidth 64)
    if (st.tile st.cur).m.su.inHandler then (st, some r)
    else
      let s1 := st.modM st.cur (fun m => m.retire 4)
      (s1.takeTrap st.cur r (s1.tile st.cur).m.su.pc, none)))

/-- `eret` (R383): outside a handler it encodes nothing. -/
def execEret (s : State) : Ans :=
  .next (s.issue 1 (fun st =>
    if (st.tile st.cur).m.su.inHandler then (st.doEret st.cur false, none) else (st, some (illegal (wordOf .eret)))))

/-- `eret.abort` (R383). -/
def execEretAbort (s : State) : Ans :=
  .next (s.issue 1 (fun st =>
    if (st.tile st.cur).m.su.inHandler then (st.doEret st.cur true, none) else (st, some (illegal (wordOf .eretAbort)))))

/-- `retire` (R350): one sequence number, and nothing issues after it. It waits until each queue can take its marker. -/
def execRetire (s : State) : Ans :=
  .next (s.issue 1 (fun st =>
    let m := (st.tile st.cur).m
    if m.su.inHandler then (st, some (illegal (wordOf .retire)))
    else if [QId.mu, .cu, .vu, .ce].all (fun q => decide (st.qUsed st.cur q < qCap q)) then
      (st.modM st.cur (fun m =>
        let m1 := m.retire 4
        { m1 with su := { m1.su with wait := .retired }, ctr := { m1.ctr with pseq := m1.ctr.pseq + 1 } }), none)
    else (st.hold .retire, none)))

/-! ### Gears, operating points and current (R359, R365, R366, R370) -/

/-- A `gear` word (R359). -/
def State.gearS (s : State) (hi : Bool) : State :=
  s.issue 1 (fun st =>
    let x := st.tile st.cur
    if hi && x.grant.isNone then (st, some (powerOver 2 st.suSum))
    else
      let v := (x.m.ctl .gear &&& ~~~(1 : W64)) ||| boolW hi
      (st.modM st.cur (fun m => (m.putReg (.ctl .gear) (v.setWidth 512)).retire 4), none))

/-- `gear lo` (R359). -/
def execGearLo (s : State) : Ans := .next (s.gearS false)
/-- `gear hi` (R359). -/
def execGearHi (s : State) : Ans := .next (s.gearS true)

/-- `pwr.acq` (R365): the request enters the die's FIFO, and the unit waits for the grant. -/
def execPwrAcq (c : BitVec 3) (s : State) : Ans :=
  .next (s.issue 1 (fun st =>
    let t := st.cur
    if (st.tile t).grant.isSome then (st, some (powerOver 4 st.suSum))
    else
      ((st.request t).modM t (fun m => { m with su := { m.su with wait := .acq c, ready := m.ctr.cycle + 1 } }), none)))

/-- `pwr.rel` (R366): the grant returns at the end of the issue cycle. -/
def execPwrRel (s : State) : Ans :=
  .next (s.issue 1 (fun st =>
    let t := st.cur
    let x := st.tile t
    let g := x.m.f.ctl[Ctl.gear.index.val]
    if x.grant.isNone then (st.modM t (fun m => m.retire 4), none)
    else if g.vis.getLsbD 0 || (g.w && g.hid.getLsbD 0) then (st, some (powerOver 3 st.suSum))
    else ((st.modTile t (fun x => { x with drop := true })).modM t (fun m => m.retire 4), none)))

/-- `pwr.req` (R370). -/
def execPwrReq (d a : SReg) (pv : Bool) (n : BitVec 6) (s : State) : Ans :=
  .next (s.issue 1 (fun st =>
    let t := st.cur
    let x := st.tile t
    let v := x.m.sreg a
    if v.toInt < 0 then (st.modM t (fun m => (m.writeS d 2 0).retire 4), none)
    else
      let code : W64 := if x.isl.point ≠ x.isl.target ∨ (x.m.f.ctl[Ctl.opreq.index.val]).w = true then 1 else 0
      let req : Nat := min v.toNat 13 + (if pv then 32768 else 0) + n.toNat * 256
      (st.modM t (fun m => ((m.putReg (.ctl .opreq) (BitVec.ofNat 512 req)).writeS d code 0).retire 4), none)))

/-! ### tlbi (R107, R108) -/

/-- Removes matching translations from every TLB of the package (R108). -/
def State.tlbDrop (s : State) (keep : TlbEntry → Bool) : State :=
  { s with
    tiles := vmap s.tiles (fun x => { x with tlb := x.tlb.filter keep })
    dies := vmap s.dies (fun (x : Die) => { x with tlb := x.tlb.filter keep }) }

/-- The shape of a `tlbi` (R108): the entries go, and the unit waits for the accesses that were issued before. -/
def State.tlbiS (s : State) (i : Instr) (keep : Member → TlbEntry → Bool) : State :=
  s.issue 1 (fun st =>
    let t := st.cur
    let m := (st.tile t).m
    if !m.su.inHandler then (st, some (illegal (wordOf i)))
    else
      let s1 := st.tlbDrop (keep m)
      let marks := match m.su.wait with
        | .drain _ ms => ms
        | .no | .again _ | .waita .. | .barWait .. | .acq .. | .trap .. | .eret _ | .retired =>
          st.tiles.toList.map (fun x => x.m.su.nextId)
      if s1.reached marks then (s1.modM t (fun m => m.retire 4), none)
      else (s1.modM t (fun m => { m with su := { m.su with wait := .drain i marks, ready := m.ctr.cycle + 1 } }), none))

/-- `tlbi.all` (R107). -/
def execTlbiAll (s : State) : Ans := .next (s.tlbiS .tlbiAll (fun _ _ => false))
/-- `tlbi.asid` (R107). -/
def execTlbiAsid (a : SReg) (s : State) : Ans :=
  .next (s.tlbiS (.tlbiAsid a) (fun m e => e.asid != (m.sreg a).setWidth 12))
/-- `tlbi.va` (R107). -/
def execTlbiVa (a b : SReg) (s : State) : Ans :=
  .next (s.tlbiS (.tlbiVa a b) (fun m e =>
    e.asid != (m.sreg a).setWidth 12 || decide ((m.sreg b).toNat % 2 ^ 55 / 2 ^ e.span ≠ e.page)))

end Sys2Proof.Machine
end

