-- ==== Sys2Proof/Machine/Sync.lean ====
section
/-! DEFINITION. Fences, waits on a word, barriers, semaphores and `qdrop` (R76, R276, R314 to R329). -/

namespace Sys2Proof.Machine

/-! ### Fences (R276) -/

/-- A result of a task instruction that has not landed: no load (R343). -/
def SuLoad.isResult (x : SuLoad) : Bool := x.fwd.isEmpty

/-- Every earlier load has landed, and every earlier store whose memory point lies within the scope (R276). -/
def State.fenceOk (s : State) (t : TileId) (sc : Scope) : Bool :=
  let m := (s.tile t).m
  m.su.loads.all SuLoad.isResult && m.su.stores.all (fun x => decide (scopeRank sc < scopeRank (s.scopeOf t x.tgt)))

/-- The shape of a fence: the next instruction issues in the cycle after the one at whose end the last access landed (R276). A fence
that waited finds that in the cycle after. -/
def State.fenceS (s : State) (i : Instr) (sc : Scope) : State :=
  s.issue 1 (fun st =>
    if st.fenceOk st.cur sc then
      (st.modM st.cur (fun m => m.retireTo (m.su.pc + 4) (if m.su.wait.waiting then 0 else 1)), none)
    else (st.hold i, none))

/-- `fence.t` (R276). -/
def execFenceT (s : State) : Ans := .next (s.fenceS .fenceT .tile)
/-- `fence.q` (R276). -/
def execFenceQ (s : State) : Ans := .next (s.fenceS .fenceQ .quadrant)
/-- `fence.d` (R276). -/
def execFenceD (s : State) : Ans := .next (s.fenceS .fenceD .die)
/-- `fence.p` (R276). -/
def execFenceP (s : State) : Ans := .next (s.fenceS .fenceP .package)
/-- `fence.s` (R276). -/
def execFenceS (s : State) : Ans := .next (s.fenceS .fenceS .system)

/-! ### Waiting on a word (R321 to R323) -/

/-- Registers a tile on the word of a target (R321, R322). -/
def State.register (s : State) (t : TileId) (tgt : Target) : State :=
  let w : Waiter := ⟨t, s.paOfTarget t tgt / 8⟩
  if s.watched tgt then { s with ms := { s.ms with waiters := s.ms.waiters.filter (fun x => x.tile != t) ++ [w] } } else s

/-- Removes a tile's registration. -/
def State.unregister (s : State) (t : TileId) : State :=
  { s with ms := { s.ms with waiters := s.ms.waiters.filter (fun x => x.tile != t) } }

/-- What one read of a waited word comes to: its value, a line that fills, or the trap in place of it (R129, R321). -/
inductive WordRead where
  | val (v : W64)
  | wait
  | trap (r : Report)
  deriving DecidableEq, Repr

/-- Reads a waited word at its memory point, with MEM_POISON logged (R321): `va` is the word's address. -/
def State.readWord (s : State) (t : TileId) (tgt : Target) (va : W64) : State × WordRead :=
  let r := s.readT t tgt 8
  match r.2 with
  | .ok bs => (r.1.logRead t va tgt, .val (BitVec.ofNat 64 (natOfBytes bs)))
  | .wait | .dropped => (r.1, .wait)
  | .poison => (r.1.logPoison (srcTile t) (s.paOfTarget t tgt), .trap (suReport 0x05 0 va))
  | .pending => (r.1, .trap (suReport 0x0E 0 va))

/-- The condition of `waita` (R321). -/
def waitaHolds (x z : W64) : Bool := decide (z.toInt ≤ x.toInt)

/-- `waita` is satisfied: sd lands in this cycle and the next instruction issues in the following one (R321). -/
def State.waitaDone (s : State) (t : TileId) (d : SReg) (x : W64) : State :=
  (s.unregister t).modM t (fun m => (m.writeS d x 0).retire 4)

/-- `waita` (R321). -/
def execWaita (d a b : SReg) (s : State) : Ans :=
  .next (s.issue 1 (fun st =>
    let t := st.cur
    let m := (st.tile t).m
    let va := m.sreg a
    let r := st.suCheck t va 8 .read
    match r.2 with
    | .error e => (r.1, some e)
    | .ok tgt =>
      let w := r.1.readWord t tgt va
      match w.2 with
      | .trap rep => (w.1, some rep)
      | .wait => (w.1.hold (.waita d a b), none)
      | .val x =>
        if waitaHolds x (m.sreg b) then (w.1.waitaDone t d x, none)
        else
          ((w.1.register t tgt).modM t (fun m => { m with su := { m.su with
            wait := .waita d (m.sreg b) va tgt false, ready := m.ctr.cycle + 1 } }), none)))

/-! ### Barriers (R324 to R328) -/

/-- A target moved by some bytes. -/
def Target.shift (tgt : Target) (n : Nat) : Target :=
  match tgt with
  | .own off => .own (off + n)
  | .pa a mt => .pa (a + n) mt

/-- `bar.init` (R324). -/
def execBarInit (a b : SReg) (s : State) : Ans :=
  .next (s.issue 1 (fun st =>
    let t := st.cur
    let m := (st.tile t).m
    let va := m.sreg a
    let e := (m.sreg b).toNat
    let r := st.suCheck t va 16 .rmw
    let invalid := suReport 0x10 0 va
    let done := fun (x : State) => x.modM t (fun m => m.retire 4)
    match r.2 with
    | .error rep => (r.1, some rep)
    | .ok (.own _) => (r.1, some invalid)
    | .ok (.pa p mt) =>
      if mt ≠ 0 ∨ regionOf p ≠ .dram ∨ (r.1.ownerOf p).isSome = true ∨ 2 ^ 24 - 1 < e then (r.1, some invalid)
      else if e = 0 then
        (done { r.1 with ms := { r.1.ms with bars := r.1.ms.bars.filter (fun x => x.1 != p) } }, none)
      else if r.1.inBarrier p then (r.1, some (suReport 0x0D 0 va))
      else if 256 ≤ (r.1.ms.bars.filter (fun x => sliceOf x.1 == sliceOf p && dieOfPa x.1 == dieOfPa p)).length then (r.1, some invalid)
      else if r.1.ceilHolds p then (r.1.hold (.barInit a b), none)
      else
        let s1 := r.1.dramPut p (List.replicate 8 0)
        (done { s1 with ms := { s1.ms with bars := s1.ms.bars ++ [(p, e)] } }, none)))

/-- The end of a sunk tile's wait (R328): it returns to high gear, or learns of its reassigned grant. -/
def State.rise (s : State) (t : TileId) : State :=
  let x := s.tile t
  let hi := (x.m.ctl .gear).getLsbD 0
  if !x.sunk then s
  else if x.reassigned then
    (s.modTile t (fun x => { x with sunk := false, reassigned := false })).modM t (fun m =>
      m.putReg (.ctl .gear) ((m.ctl .gear &&& ~~~(1 : W64)).setWidth 512))
  else s.modTile t (fun x => { x with sunk := false, fast := x.fast || hi, gated := x.gated || (hi && !x.fast) })

/-- The first wait of a `bar.wait.sink` (R328): the tile goes to the low rail. -/
def State.sink (s : State) (t : TileId) : State :=
  s.modTile t (fun x => { x with sunk := true, fast := false, gated := x.gated || x.fast })

/-- A barrier wait is satisfied (R327, R328). -/
def State.barDone (s : State) (t : TileId) : State :=
  (s.unregister t).modM t (fun m => m.retire 4)

/-- The shape of a barrier wait (R327). -/
def State.barS (s : State) (i : Instr) (a b : SReg) (sink : Bool) : State :=
  s.issue 1 (fun st =>
    let t := st.cur
    let m := (st.tile t).m
    let va := m.sreg a
    let g := m.sreg b
    let r := st.suCheck t va 16 .read
    match r.2 with
    | .error e => (r.1, some e)
    | .ok tgt0 =>
      let tgt := tgt0.shift 8
      let w := r.1.readWord t tgt (va + 8)
      match w.2 with
      | .trap rep => (w.1, some rep)
      | .wait => (w.1.hold i, none)
      | .val x =>
        if x ≠ g then (((if sink then w.1.rise t else w.1).barDone t), none)
        else
          let s1 := if sink then w.1.sink t else w.1
          ((s1.register t tgt).modM t (fun m => { m with su := { m.su with
            wait := .barWait g va tgt sink false, ready := m.ctr.cycle + 1 } }), none))

/-- `bar.wait` (R327). -/
def execBarWait (a b : SReg) (s : State) : Ans := .next (s.barS (.barWait a b) a b false)
/-- `bar.wait.sink` (R328). -/
def execBarWaitSink (a b : SReg) (s : State) : Ans := .next (s.barS (.barWaitSink a b) a b true)

/-- A tile that waits on a word reads it again (R322): it goes on, traps on poison, or waits on, registered where the word now lies. The
read is routed and translated afresh, so that none uses a translation that a `tlbi` has removed (R108, R114). -/
def State.reread (s : State) (t : TileId) : State :=
  let m := (s.tile t).m
  match m.su.wait with
  | .waita d z va _ _ =>
    let r := s.suCheck t va 8 .read
    (match r.2 with
    | .error rep => r.1.takeTrap t rep m.su.pc
    | .ok tgt =>
      let w := r.1.readWord t tgt va
      (match w.2 with
      | .trap rep => w.1.takeTrap t rep m.su.pc
      | .wait => w.1
      | .val x =>
        if waitaHolds x z then w.1.waitaDone t d x
        else ((w.1.unregister t).register t tgt).modM t (fun m => { m with su := { m.su with
          wait := .waita d z va tgt false } })))
  | .barWait g va _ sink _ =>
    let r := s.suCheck t va 16 .read
    (match r.2 with
    | .error rep => r.1.takeTrap t rep m.su.pc
    | .ok tgt0 =>
      let tgt := tgt0.shift 8
      let w := r.1.readWord t tgt (va + 8)
      (match w.2 with
      | .trap rep => w.1.takeTrap t rep m.su.pc
      | .wait => w.1
      | .val x =>
        if x ≠ g then (if sink then w.1.rise t else w.1).barDone t
        else ((w.1.unregister t).register t tgt).modM t (fun m => { m with su := { m.su with
          wait := .barWait g va tgt sink false } })))
  | .no | .again _ | .drain .. | .acq .. | .trap .. | .eret _ | .retired => s

/-- A wake is due on a wait of the given kind. -/
def SuWait.wokenKind (sink : Bool) : SuWait → Bool
  | .waita _ _ _ _ w => !sink && w
  | .barWait _ _ _ k w => (k == sink) && w
  | .no | .again _ | .drain .. | .acq .. | .trap .. | .eret _ | .retired => false

/-- A tile waits on a word that is not watched (R322). -/
def State.polls (s : State) (t : TileId) : Bool :=
  match (s.tile t).m.su.wait with
  | .waita _ _ _ tgt _ | .barWait _ _ tgt _ _ => !s.watched tgt
  | .no | .again _ | .drain .. | .acq .. | .trap .. | .eret _ | .retired => false

/-- WAITA_WAKE (R322, R327): a woken wait of `waita` or `bar.wait` tests its condition again. -/
def execWaitaWake (t : TileId) (s : State) : Ans :=
  .next (if (s.tile t).m.su.wait.wokenKind false && (s.tile t).mayGo then s.reread t else s)

/-- WAITA_PERIODIC_REREAD (R322): at a multiple of 1,000 ns, for a word that is not watched. -/
def execWaitaPeriodicReread (t : TileId) (s : State) : Ans :=
  .next (if s.fleet.toNat % 1000 = 0 ∧ s.polls t = true ∧ (s.tile t).mayGo = true then s.reread t else s)

/-- BAR_WAIT_SINK_RELEASE (R328): a woken `bar.wait.sink` observes the generation. -/
def execBarWaitSinkRelease (t : TileId) (s : State) : Ans :=
  .next (if (s.tile t).m.su.wait.wokenKind true && (s.tile t).mayGo then s.reread t else s)

/-! ### Semaphore instructions (R314 to R319) -/

/-- A trap with the semaphore's index in TVAL (R378). -/
def semReport (code : BitVec 8) (n : BitVec 8) : Report := suReport code 0 (n.setWidth 64)

/-- `sem.post` (R315). -/
def execSemPost (n : BitVec 8) (v : BitVec 24) (s : State) : Ans :=
  .next (s.issue 1 (fun st =>
    let t := st.cur
    let m := (st.tile t).m
    let by_ : Poster := ⟨4, BitVec.ofNat 7 t.val, 0⟩
    if isLocal n && decide (semMax < m.semP n + v.toNat) then (st, some (semReport 0x08 n))
    else
      let s1 := st.postOwn t n v.toNat by_
      (s1.modM t (fun m => (if isLocal n then m.setP n (m.semP n + v.toNat) else m).retire 8), none)))

/-- The waits of the queued commands and of the loaded chain records of a member: none has passed (R76, R426). -/
def Member.waits (m : Member) : List QWait :=
  (m.q.mu ++ m.q.cu ++ m.q.vu ++ m.q.ce).filterMap (fun c => c.wait)
    ++ m.ch.toList.filterMap (fun c => match c.pending with | some x => x.1.wait | none => none)

/-- A remaining wait passes the check of R76 against P and Q. -/
def waitCovered (p q : Nat) (w : QWait) : Bool :=
  decide ((w.thr.toNat : Int) ≤ (p : Int) - ((q : Int) - (if w.consume then (w.thr.toNat : Int) else 0)))

/-- `sem.set` (R315). -/
def execSemSet (n : BitVec 8) (v : BitVec 24) (s : State) : Ans :=
  .next (s.issue 1 (fun st =>
    let t := st.cur
    let m := (st.tile t).m
    let by_ : Poster := ⟨4, BitVec.ofNat 7 t.val, 0⟩
    let set := fun (m : Member) =>
      let m1 := m.setSem n v.toNat
      { m1 with sems := { m1.sems with posts := ⟨n, m.sem n, v.toNat, by_, m.ctr.cycle⟩ :: m1.sems.posts } }
    if isLocal n then
      let p := m.semP n + v.toNat - m.sem n
      if semMax < p then (st, some (semReport 0x08 n))
      else if (m.waits.filter (fun w => w.sem == n)).all (waitCovered p (m.semQ n)) then
        (st.modM t (fun m => ((set m).setP n p).retire 8), none)
      else (st, some (semReport 0x07 n))
    else (st.modM t (fun m => (set m).retire 8), none)))

/-- `sem.rd` (R316): the value at the end of the cycle, landing one cycle on. -/
def execSemRd (d : SReg) (n : BitVec 8) (s : State) : Ans :=
  .next (s.opM (fun m => ({ m with su := { m.su with semRds := m.su.semRds ++ [(m.sref d, n)] } }).retire 8))

/-- `sem.post.tile` (R317): a post to the tile itself acts as `sem.post`. -/
def execSemPostTile (a : SReg) (n : BitVec 8) (v : BitVec 24) (s : State) : Ans :=
  .next (s.issue 1 (fun st =>
    let t := st.cur
    let m := (st.tile t).m
    let dst : TileId := ⟨(m.sreg a).toNat % 128, Nat.mod_lt _ (by decide)⟩
    let s1 :=
      if dst = t then st.postOwn t n v.toNat ⟨4, BitVec.ofNat 7 t.val, 0⟩
      else { st with tposts := st.tposts ++ [⟨t, dst, m.job, n, v.toNat⟩] }
    (s1.modM t (fun m => m.retire 8), none)))

/-- SEM_POST_TILE_LANDS (R317): a post between tiles lands; an older one of the same pair goes first. -/
def execSemPostTileLands (k : Nat) (s : State) : Ans :=
  .next (match s.tposts[k]? with
    | none => s
    | some p =>
      if (s.tposts.take k).any (fun q => q.src == p.src && q.dst == p.dst) then s
      else { s with tposts := s.tposts.eraseIdx k }.landTilePost p.src none p.dst p.job p.sem p.inc)

/-! ### qdrop (R76, R320) -/

/-- A command of a named queue that `qdrop` selects: its sequence number exceeds `s`, signed (R320). -/
def dropSel (sv : W64) (c : Cmd) : Bool := decide (sv.toInt < (c.seq.toNat : Int))

/-- Withdraws one command's promises from P and Q (R76). -/
def Member.unpromise (m : Member) (c : Cmd) : Member :=
  let m1 := match c.post with
    | some p => if isLocal p.sem then m.setP p.sem (m.semP p.sem - p.inc.toNat) else m
    | none => m
  match c.wait with
  | some w => if isLocal w.sem ∧ w.consume = true then m1.setQ w.sem (m1.semQ w.sem - w.thr.toNat) else m1
  | none => m1

/-- The queues without the commands of a mask that `qdrop` selects (R320). -/
def Queues.without (q : Queues) (mask : BitVec 4) (sv : W64) : Queues :=
  let keep := fun (k : Nat) (l : List Cmd) => if mask.getLsbD k then l.filter (fun c => !dropSel sv c) else l
  ⟨keep 0 q.mu, keep 1 q.cu, keep 2 q.vu, keep 3 q.ce⟩

/-- The commands of a mask that `qdrop` selects (R320). -/
def Queues.selected (q : Queues) (mask : BitVec 4) (sv : W64) : List Cmd :=
  let sel := fun (k : Nat) (l : List Cmd) => if mask.getLsbD k then l.filter (dropSel sv) else []
  sel 0 q.mu ++ sel 1 q.cu ++ sel 2 q.vu ++ sel 3 q.ce

/-- `qdrop` (R76, R320). -/
def execQdrop (d a : SReg) (mask : BitVec 4) (s : State) : Ans :=
  .next (s.issue 1 (fun st =>
    let t := st.cur
    let m := (st.tile t).m
    let sv := m.sreg a
    let sel := m.q.selected mask sv
    let m1 := sel.foldl (fun x c => x.unpromise c) { m with q := m.q.without mask sv }
    match m1.waits.find? (fun w => isLocal w.sem && !waitCovered (m1.semP w.sem) (m1.semQ w.sem) w) with
    | some w => (st, some (semReport 0x07 w.sem))
    | none => (st.modM t (fun _ => (m1.writeS d (BitVec.ofNat 64 sel.length) 0).retire 4), none)))

end Sys2Proof.Machine
end

