-- ==== Sys2Proof/Machine/Task.lean ====
section
/-! DEFINITION. Task, pool and tide-table instructions (R343 to R356). -/

namespace Sys2Proof.Machine

/-- A cycle that no tile reaches: a result with no bound waits for its landing step. -/
def noBound : Nat := 2 ^ 64

/-- A result with no bound in cycles (R343): a slow writer that SU_LOAD_LANDS lands. -/
def State.slowResult (s : State) (t : TileId) (d : SReg) (v : W64) : State :=
  s.modM t (fun m =>
    let x : SuLoad := { id := m.su.nextId, dst := m.sref d, live := true, va := 0, n := 8, kind := .unsigned, fwd := [],
                        tgt := .own 0, port := none, got := some (v.setWidth 512, false, noBound) }
    { m with su := { m.su with loads := m.su.loads ++ [x], nextId := m.su.nextId + 1 } })

/-- A report taken at the next boundary, with no effect of the instruction (R192, R343). -/
def State.defer (s : State) (t : TileId) (r : Report) (len : Nat) : State :=
  s.modM t (fun m => ({ m with
    rep := { m.rep with deferred := m.rep.deferred ++ [(m.su.nextId, r)] }
    su := { m.su with nextId := m.su.nextId + 1 } }).retire len)

/-- TASK_INVALID with the address operand (R378). -/
def taskInvalid (a : W64) : Report := suReport 0x11 0 a

/-- CMD_ERROR (R68, R209, R343): the first word and the reason. -/
def cmdError (i : Instr) (reason : BitVec 8) : Report :=
  suReport 0x06 reason ((wordOf i <<< 32) ||| reason.setWidth 64)

/-- What a read of 64 bytes by a task instruction comes to. -/
inductive RecRead where
  | ok (r : W512) (tgt : Target)
  | hold
  | trap (r : Report)
  | later (r : Report)
  deriving DecidableEq, Repr

/-- Reads 64 bytes at a virtual address as the steering unit does (R188, R192). DESIGN CHOICE (log 112): R188 speaks of loads and
stores, and the spec names nothing for a record or a table image at an address that is no multiple of 64; the model raises ALIGNMENT. -/
def State.readRec (s : State) (t : TileId) (va : W64) (kind : AccKind) : State × RecRead :=
  let r := s.suCheck t va 64 kind
  match r.2 with
  | .error e => (r.1, .trap e)
  | .ok tgt =>
    let w := r.1.readT t tgt 64
    match w.2 with
    | .ok bs => (w.1.logRead t va tgt, .ok (BitVec.ofNat 512 (natOfBytes bs)) tgt)
    | .wait | .dropped => (w.1, .hold)
    | .poison => (w.1.logPoison (srcTile t) (w.1.paOfTarget t tgt), .later (suReport 0x05 0 va))
    | .pending => (w.1, .trap (suReport 0x0E 0 (va + BitVec.ofNat 64 (w.1.pendDist t tgt 64))))

/-- The shape of an instruction that begins with `fence.p` (R343). -/
def State.afterFence (s : State) (i : Instr) (body : State → State × Option Report) : State :=
  s.issue 1 (fun st => if st.fenceOk st.cur .package then body st else (st.hold i, none))

/-- The shape of an instruction that begins with `fence.p` and reads a 64-byte record (R343). -/
def State.withRec (s : State) (i : Instr) (a : SReg) (kind : AccKind) (body : State → W512 → Target → State × Option Report) :
    State :=
  s.afterFence i (fun st =>
    let t := st.cur
    let r := st.readRec t ((st.tile t).m.sreg a) kind
    match r.2 with
    | .trap e => (r.1, some e)
    | .hold => (r.1.hold i, none)
    | .later e => (r.1.defer t e 8, none)
    | .ok w tgt => body r.1 w tgt)

/-- A steering instruction of 8 bytes retires. -/
def State.done8 (s : State) (t : TileId) : State := s.modM t (fun m => m.retire 8)

/-- The words of a write of a task instruction, in order: the addresses of those that a live barrier drops, or none where one has to
wait (R329). -/
def State.recWords (s : State) (t : TileId) (tgt : Target) (va : W64) : List (W64 × List Byte) → State × Option (List W64)
  | [] => (s, some [])
  | (a, bs) :: ws =>
    let w := s.writeT t (tgt.plus (a - va).toNat) true bs
    match w.2 with
    | .ok () => State.recWords w.1 t tgt va ws
    | .dropped =>
      let r := State.recWords w.1 t tgt va ws
      (r.1, r.2.map (fun l => a :: l))
    | .wait | .poison | .pending => (w.1, none)

/-- A write of a task instruction into a record at a physical address or in the own stash, as a steering store, word by word: none where
it has to wait, and BARRIER_CLOBBER at the next boundary where a live barrier drops a word (R192, R329). -/
def State.recWrite (s : State) (t : TileId) (tgt : Target) (va : W64) (bs : List Byte) : State × Bool :=
  let ws := (pieces (bs.length + 1) va bs.length).map (fun p => (p.1, (bs.drop (p.1 - va).toNat).take p.2))
  let w := s.recWords t tgt va ws
  match w.2 with
  | some [] => (w.1.renew t (ws.map (fun e => (tgt.plus (e.1 - va).toNat, e.2.length))), true)
  | some (a :: _) => (w.1.modM t (fun m => { m with
      rep := { m.rep with deferred := m.rep.deferred ++ [(m.su.nextId, suReport 0x0D 0 a)] }
      su := { m.su with nextId := m.su.nextId + 1 } }), true)
  | none => (w.1, false)

/-- The record that `spawn` makes of a template (R344). -/
def spawnedRec (tpl : W512) (pool : BitVec 8) : W512 := setFld (setFld (setFld tpl 457 1 1) 456 1 1) 448 8 pool.toNat

/-- The addresses that a `spawn` may write at their shelves: the pool's words, the block, the level entries, the ring slot. -/
def State.spawnWrites (s : State) (pool : BitVec 8) (r : W512) (b : Nat) : List Nat :=
  let c := s.pcbOf pool
  let top := poolStack c + 4 * (fld c 128 24 - 1)
  let q := s.qcbOf (recQueue r)
  [poolBitmap c + s.peek top 4 / 8, top, b] ++ s.levelAddrs r
    ++ (if recJoin r = 0 ∧ qRoom q = true then [qSlot q (fld q 64 32)] else [])

/-- What `spawn` does once the block holds the record (R344): the block is taken, the record counted and, without a join, ready: it is
pushed, or a cancel discards and finishes it (R349). -/
def State.spawnAt (s : State) (t : TileId) (d : SReg) (pool : BitVec 8) (b : W64) (r : W512) : State :=
  let s1 := (s.poolGet pool).1.countRec r
  if recJoin r = 0 ∧ s1.recCancelled r b.toNat = true then ((s1.finishWhole r b.toNat).slowResult t d b).done8 t
  else if recJoin r = 0 then
    let p := s1.pushQueue (recQueue r) r b.toNat true
    if p.2 then (p.1.slowResult t d b).done8 t
    else (((p.1.uncountRec r).poolPut pool b).slowResult t d 1).done8 t
  else (s1.slowResult t d b).done8 t

/-- What `spawn` does with a checked template (R344). The block is written at its memory point, by the address that is both its
virtual and its physical one. -/
def State.spawnRec (s : State) (t : TileId) (d a : SReg) (pool : BitVec 8) (tpl : W512) : State :=
  let b := (s.poolGet pool).2
  if b = 0 then (s.slowResult t d 0).done8 t
  else
    let r := spawnedRec tpl pool
    if s.shelfHolds (s.spawnWrites pool r b.toNat) then s.hold (.spawn d a pool)
    else
      let w := s.recWrite t (.pa b.toNat 0) b (bytesOfNat 64 r.toNat)
      if w.2 then w.1.spawnAt t d pool b r else w.1.hold (.spawn d a pool)

/-- `spawn` (R344). -/
def execSpawn (d a : SReg) (pool : BitVec 8) (s : State) : Ans :=
  .next (s.withRec (.spawn d a pool) a .read (fun st tpl _ =>
    let t := st.cur
    match recSpawnCheck tpl true with
    | some reason => (st.defer t (cmdError (.spawn d a pool) reason) 8, none)
    | none =>
      if fld (st.pcbOf pool) 4 4 ≠ 0 then (st.defer t (taskInvalid ((st.tile t).m.sreg a)) 8, none)
      else if st.ms.setup.contains pool.toNat then (st.hold (.spawn d a pool), none)
      else (st.spawnRec t d a pool tpl, none)))

/-- JREADY (R341). -/
def jready : W64 := 0x4000000000000000

/-- The join word reads PUB = 1 (R341). -/
def joinPub (v : W64) : Bool := decide ((2 : Int) ^ 61 ≤ v.toInt)

/-- The record after `publish` and the write of its CTD (R332, R345), and whether it could be written. -/
def State.countOnce (s : State) (t : TileId) (r : W512) (tgt : Target) (va : W64) : State × W512 × Bool :=
  if recCtd r then (s, r, true)
  else
    let r1 := setFld r 457 1 1
    let w := s.recWrite t (tgt.shift 57) (va + 57) [r1.extractLsb' 456 8]
    if w.2 then (w.1.countRec r1, r1, true) else (w.1, r, false)

/-- The physical address of a record. -/
def State.recPa (s : State) (t : TileId) (tgt : Target) : Nat := s.paOfTarget t tgt

/-- `publish` past its checks (R345): the word takes n + 2^62, and the record is ready or registered. -/
def State.publishAt (s : State) (t : TileId) (r : W512) (rpa p : Nat) (n : W64) : State :=
  let v : W64 := BitVec.ofNat 64 (s.peek p 8)
  let v1 := v + n + 0x4000000000000000
  let s1 := (s.putAt p (bytesOfNat 8 v1.toNat)).1
  if v1 = jready then s1.makeReady r rpa
  else { s1 with ms := { s1.ms with joins := s1.ms.joins ++ [(p / 8, BitVec.ofNat 64 rpa, (s.tile t).m.asid)] } }

/-- The permission to write the record that `publish` counts (R99, R345): a record with CTD = 1 is not written. -/
def State.mayCount (s : State) (t : TileId) (r : W512) (va : W64) : State × Option Report :=
  if recCtd r then (s, none)
  else
    let x := s.suCheck t va 64 .write
    match x.2 with
    | .error e => (x.1, some e)
    | .ok _ => (x.1, none)

/-- `publish` of a checked record (R345), whose word `c` and address `a` are steering registers. A join word in a live barrier object
rejects the write as BARRIER_CLOBBER (DEDUCED, log 32). -/
def State.publishRec (s : State) (t : TileId) (c a : SReg) (r : W512) (tgt : Target) : State × Option Report :=
  let i : Instr := .publish c a
  let m := (s.tile t).m
  let va := m.sreg a
  let n := m.sreg c
  let j := recJoin r
  if j = 0 ∨ j.toNat % 8 ≠ 0 then (s.defer t (taskInvalid va) 8, none)
  else
    let x := s.routeT t .su m.asid j .rmw m.su.inHandler
    match x.2 with
    | .tfault reason => (x.1, some (suFault reason .rmw j))
    | .paRange => (x.1, some (suReport 0x04 0 j))
    | .to (.own _) => (x.1.defer t (taskInvalid va) 8, none)
    | .to (.pa p _) =>
      let s1 := x.1
      let invalid := (s1.defer t (taskInvalid va) 8, (none : Option Report))
      if regionOf p ≠ .dram ∨ (s1.ownerOf p).isSome = true then invalid
      else if s1.poisoned p 8 then (((s1.logPoison (srcTile t) p).defer t (suReport 0x05 0 j) 8), none)
      else if s1.inBarrier p then (s1.defer t (suReport 0x0D 0 j) 8, none)
      else if 2 ^ 61 ≤ n.toNat ∨ joinPub (BitVec.ofNat 64 (s1.peek p 8)) = true
          ∨ s1.ms.joins.any (fun e => e.1 == p / 8) = true then invalid
      else
        let rpa := s1.recPa t tgt
        if s1.readyHeldWith r rpa (p :: (if recCtd r then [] else s1.levelAddrs r ++ [rpa + 57])) then (s1.hold i, none)
        else
          let y := s1.countOnce t r tgt va
          if !y.2.2 then (y.1.hold i, none) else (((y.1.publishAt t y.2.1 rpa p n).done8 t), none)

/-- `publish` (R345). -/
def execPublish (c a : SReg) (s : State) : Ans :=
  .next (s.withRec (.publish c a) a .read (fun st r tgt =>
    let t := st.cur
    let chk := st.mayCount t r ((st.tile t).m.sreg a)
    match chk.2, recSpawnCheck r false with
    | some e, _ => (chk.1, some e)
    | none, some reason => (chk.1.defer t (cmdError (.publish c a) reason) 8, none)
    | none, none => chk.1.publishRec t c a r tgt))

/-- The gang of a tile's member. -/
def State.gangOf (s : State) (t : TileId) : Option Gang := s.gangs.find? (fun g => g.id == (s.tile t).m.id.gang)

/-- `yield` (R348): refused for a gang of several members and where the queue is full. -/
def execYield (d : SReg) (s : State) : Ans :=
  .next (s.afterFence (.yield d) (fun st =>
    let t := st.cur
    let m := (st.tile t).m
    let size := match st.gangOf t with | some g => g.size | none => 1
    if 1 < size ∨ qRoom (st.qcbOf (recQueue m.id.record)) = false then
      (st.modM t (fun m => (m.writeS d 1 0).retire 8), none)
    else
      (st.modM t (fun m => let m1 := (m.writeS d 0 0).retire 8; { m1 with rep := { m1.rep with preempt := true } }), none)))

/-- The records that the package knows of: those of its gangs, its queues, and those on their way to a queue. -/
def State.records (s : State) : List W512 :=
  s.gangs.map (fun g => g.record)
    ++ (s.ms.qcb.map (fun e => (List.range (qLen e.2)).map (fun k =>
          BitVec.ofNat 512 (s.peek (qSlot e.2 (fld e.2 96 32 + k)) 64)))).flatten
    ++ (s.ms.held ++ s.pushes).map (fun p => p.record)
    ++ s.ms.joins.map (fun j => BitVec.ofNat 512 (s.peek j.2.1.toNat 64))

/-- Every tile that runs a record of a kind owes TASK_CANCEL (R349), one that waits for its class before its first instruction
included. -/
def State.cancelTiles (s : State) (f : Gang → Bool) : State :=
  { s with tiles := vmap s.tiles (fun x =>
      if x.st != .idle && s.gangs.any (fun g => g.id == x.m.id.gang && f g) then
        { x with m := { x.m with rep := { x.m.rep with cancel := some x.m.id.recAddr } } }
      else x) }

/-- The place of a level among the four of a record (R332). -/
def levelIx : Level → Nat
  | .launch => 0 | .graph => 1 | .step => 2 | .job => 3

/-- `cancel.L` (R349). The job owns a launch, graph or step entry where no known record that names it is another job's
(DEDUCED, log 31). -/
def execCancel (l : Level) (a : SReg) (s : State) : Ans :=
  .next (s.afterFence (.cancel l a) (fun st =>
    let t := st.cur
    let m := (st.tile t).m
    let v := m.sreg a
    let k := levelIx l
    let id := if k = 3 then v.toNat % 4096 else v.toNat % 65536
    let owned := match l with
      | .job => decide (id = m.job.toNat)
      | .launch | .graph | .step =>
        (st.records.filter (fun r => recLevel r k == id)).all (fun r => recJob r == m.job)
    if !m.su.inHandler && !owned then (st.defer t (taskInvalid 0) 8, none)
    else if st.ceilHolds (st.levelAddr k id) then (st.hold (.cancel l a), none)
    else
      let s1 := st.setLevel k id (setFld (st.levelEntry k id) 96 1 1)
      ((s1.cancelTiles (fun g => recLevel g.record k == id)).done8 t, none)))

/-- `cancel.task` (R349): CX in memory, the join registration, and the gangs that run the record. -/
def execCancelTask (a : SReg) (s : State) : Ans :=
  .next (s.withRec (.cancelTask a) a .rmw (fun st r tgt =>
    let t := st.cur
    let pa := st.recPa t tgt
    let r1 := setFld r 458 1 1
    let reg := st.ms.joins.any (fun j => j.2.1.toNat == pa)
    let w := st.recWrite t (tgt.shift 57) ((st.tile t).m.sreg a + 57) [r1.extractLsb' 456 8]
    if reg && st.finishHeldWith r1 pa [pa + 57] then (st.hold (.cancelTask a), none)
    else if !w.2 then (w.1.hold (.cancelTask a), none)
    else
      let s1 := w.1
      let s2 := if reg then
          { s1 with ms := { s1.ms with joins := s1.ms.joins.filter (fun j => j.2.1.toNat != pa) } }.finishWhole r1 pa
        else s1
      ((s2.cancelTiles (fun g => g.orig == pa)).done8 t, none)))

/-- `pool.get` (R89, R346). -/
def execPoolGet (d : SReg) (pool : BitVec 8) (s : State) : Ans :=
  .next (s.issue 1 (fun st =>
    if st.ms.setup.contains pool.toNat || st.getHeld pool then (st.hold (.poolGet d pool), none)
    else
      let g := st.poolGet pool
      ((g.1.slowResult st.cur d g.2).done8 st.cur, none)))

/-- `pool.put` (R89, R346). -/
def execPoolPut (a : SReg) (pool : BitVec 8) (s : State) : Ans :=
  .next (s.afterFence (.poolPut a pool) (fun st =>
    if st.ms.setup.contains pool.toNat || st.putHeld pool ((st.tile st.cur).m.sreg a) then (st.hold (.poolPut a pool), none)
    else ((st.poolPut pool ((st.tile st.cur).m.sreg a)).done8 st.cur, none)))

/-! ### The tide table (R351 to R353, R356) -/

/-- The check of a tide entry (R351, R352): none, or the reason of CMD_ERROR. -/
def tideCheck (e : W512) : Option (BitVec 8) :=
  if fld e 100 412 ≠ 0 ∨ fld e 92 4 ≠ 0 ∨ fld e 66 6 ≠ 0 ∨ fld e 55 9 ≠ 0 then some 2
  else if fld e 0 55 % 64 ≠ 0 ∨ (tideKind e ≠ 0 ∧ tideCredit e ≠ 0) ∨ (2 ≤ tideKind e ∧ tideSlots e ≠ 0) then some 5
  else none

/-- Reads tide entries from a virtual address on (R352): the entries, or what stopped the read. -/
def State.tideRead (s : State) (t : TileId) (va : W64) : Nat → State × Except RecRead (List W512)
  | 0 => (s, .ok [])
  | n + 1 =>
    let r := s.readRec t va .read
    match r.2 with
    | .ok e _ =>
      let rest := State.tideRead r.1 t (va + 64) n
      (match rest.2 with
      | .ok es => (rest.1, .ok (e :: es))
      | .error x => (rest.1, .error x))
    | x => (r.1, .error x)

/-- `tide.load` (R352). -/
def execTideLoad (a : SReg) (n1 : BitVec 8) (s : State) : Ans :=
  .next (s.afterFence (.tideLoad a n1) (fun st =>
    let t := st.cur
    let i : Instr := .tideLoad a n1
    let d := dieOfTile t
    let m := (st.tile t).m
    let va := m.sreg a
    let x := st.dies[d.val].tide
    if x.st = .running ∨ (x.st = .loaded ∧ x.job ≠ m.job) then (st.defer t (taskInvalid va) 8, none)
    else
      let r := st.tideRead t va (n1.toNat + 1)
      match r.2 with
      | .error (.trap e) => (r.1, some e)
      | .error (.later e) => (r.1.defer t e 8, none)
      | .error .hold | .error (.ok _ _) => (r.1.hold i, none)
      | .ok es =>
        match es.filterMap tideCheck with
        | reason :: _ => (r.1.defer t (cmdError i reason) 8, none)
        | [] =>
          ((r.1.modDie d (fun y => { y with tide := { y.tide with
            st := .loaded, job := m.job, entries := es, head := 0, credits := 0, finished := [], post := none
            slackIn := 0, slackSlot := 0, slackCredit := 0 } })).done8 t, none)))

/-- The configuration operand of `tide.go` is legal (R353). -/
def tideCfgOk (v : W64) : Bool :=
  fld v 48 16 == 0 && fld v 22 2 == 0 && !v.getLsbD 15 && !v.getLsbD 6 && decide (fld v 16 5 ≤ 17)

/-- `tide.go` (R352, R353). -/
def execTideGo (a : SReg) (post : Option (BitVec 8)) (s : State) : Ans :=
  .next (s.afterFence (.tideGo a post) (fun st =>
    let t := st.cur
    let d := dieOfTile t
    let m := (st.tile t).m
    let v := m.sreg a
    let x := st.dies[d.val].tide
    if x.st ≠ .loaded ∨ x.job ≠ m.job ∨ tideCfgOk v = false then (st.defer t (taskInvalid 0) 8, none)
    else
      let s1 := st.modDie d (fun y => { y with tide := { y.tide with
        st := .running
        cyc := st.fabric + 1
        credits := min (y.tide.credits + fld v 32 16) 65535
        free := fld v 24 8
        fbase := y.rc[(r6 (v.extractLsb' 0 6)).val]
        ebase := y.rc[(r6 (v.extractLsb' 8 6)).val]
        cfg := v
        asid := m.asid
        post := post.map (fun n => (t, n)) } })
      ((s1.tideDone d).done8 t, none)))

/-- The number of a table's state (R356). -/
def TideSt.code : TideSt → Nat
  | .idle => 0 | .loaded => 1 | .running => 2 | .done => 3

/-- The result of `tide.rd` (R356). -/
def tideVal (x : Tide) (sel : Bool) : W64 :=
  if sel then
    let h := if x.st = .idle then 0 else x.entries.getD x.head 0
    BitVec.ofNat 64 (tideKind h * 2 ^ 32 + fld h 72 8 * 2 ^ 24 + fld h 80 8 * 2 ^ 16 + x.finished.length % 512)
  else
    BitVec.ofNat 64 (x.st.code * 2 ^ 62 + x.head % 512 * 2 ^ 41 + x.entries.length % 512 * 2 ^ 32
      + x.free % 256 * 2 ^ 24 + x.credits % 65536)

/-- `tide.rd` (R356). -/
def execTideRd (d : SReg) (sel : Bool) (s : State) : Ans :=
  .next (s.issue 1 (fun st =>
    let t := st.cur
    ((st.slowResult t d (tideVal st.dies[(dieOfTile t).val].tide sel)).done8 t, none)))

end Sys2Proof.Machine
end

