-- ==== Sys2Proof/Machine/Checks.lean ====
section
/-! DEFINITION. What a command captures and the limits that its push checks: descriptors and operands (R136 to R160, R211,
R250 to R266, R297 to R305), the push view of the mapping table and bank conflicts (R113, R125, R126), rate classes (R363). -/

namespace Sys2Proof.Machine

/-! ### Operands -/

/-- The registers c.x, c.y and c.z of a command; `s0` where it has none (R70, R137, R297). -/
def cmdRegs : Instr → SReg × SReg × SReg
  | .cpMc _ _ _ x _ | .fill _ _ x | .chain _ _ x | .offload _ _ _ x | .crcSet _ _ x _ | .cslot _ _ x _ _ _
  | .atomArrive _ _ x => (x, 0, 0)
  | .atomAdd _ _ x y | .atomSwap _ _ x y | .atomMin _ _ x y | .atomMax _ _ x y | .note _ x y => (x, y, 0)
  | .atomAddthr _ _ x y z | .atomCas _ _ x y z => (x, y, z)
  | .csend _ (.off x) _ _ _ | .cstep _ (.off x) _ _ _ _ _ _ | .cef _ (.off x) _ _ _ _ _ => (x, 0, 0)
  | .carm _ (.off x) _ _ _ _ y => (x, y, 0)
  | .carm _ (.sch _) _ _ _ _ y | .carm _ .blk _ _ _ _ y => (0, y, 0)
  | _ => (0, 0, 0)

/-- The descriptors that a command names, in operand order (R137, R250, R297). -/
def cmdTds : Instr → List TdIx
  | .mma _ _ a b _ _ _ | .mmaSp _ _ a b _ _ _ => [a, b]
  | .wload _ _ b | .wloadT _ _ b _ => [b]
  | .ainit _ _ d | .adrain _ _ d _ _ | .adrainMx _ _ d _ _ => [d]
  | .cp _ d x _ | .cpAccF32 _ d x _ | .cpAccBf16 _ d x | .cpAccI32 _ d x | .cpMc _ d x _ _ | .offload _ d x _ => [d, x]
  | .gather _ d t l _ => [d, t, l]
  | .scatter _ t x l _ | .scatterAccF32 _ t x l _ | .scatterAccBf16 _ t x l _ | .scatterAccI32 _ t x l _ => [t, x, l]
  | .fill _ d _ | .stashMap _ d _ _ | .stashUnmap _ d | .stashWb _ d => [d]
  | .csend _ _ _ _ d | .carm _ _ _ _ d _ _ | .crecv _ _ _ d _ => [d]
  | .cstep _ _ _ _ d k x _ => [d, k, x]
  | .cef _ _ _ _ x r w => [x, r, w]
  | _ => []

/-- The number of the descriptors that a command names. -/
def Cmd.tds (c : Cmd) : List W512 := [c.d0, c.d1, c.d2].take (cmdTds c.op).length

/-- What the push of a command captures (R70, R71, R297). -/
def Member.capture (m : Member) (i : Instr) (h : Head) : Cmd :=
  let r := cmdRegs i
  let d := fun k => match (cmdTds i)[k]? with | some n => m.tdesc n | none => 0
  ⟨i, h.wait, h.post, h.scope, m.ctr.pseq, m.sreg r.1, m.sreg r.2.1, m.sreg r.2.2, d 0, d 1, d 2, m.asid,
    (m.ctl .rank).setWidth 32, m.su.nextId, none⟩

/-! ### Limits (R68, R208) -/

/-- Reason 5 where a condition fails. -/
def lim (b : Bool) : Option (BitVec 8) := if b then none else some 5

/-- A format of the matrix unit's operands (R253, R256). -/
def matFmt (t : Td) : Bool := t.fmtc != 7 && t.fmtc != 9

/-- A number in a range. -/
def within (lo x hi : Nat) : Bool := decide (lo ≤ x) && decide (x ≤ hi)

/-- The shape of an A operand (R256). -/
def mmaLimits (a : Td) (ta : Bool) : Bool :=
  a.ndim == 2 && matFmt a && within 1 (a.extent (if ta then 0 else 1)) 128 && within 1 (a.extent (if ta then 1 else 0)) 8192
    && !(ta && a.scaled)

/-- The limits of a load of B (R253): `kd` is the dimension of k. -/
def wloadLimits (b : Td) (kd : Nat) (sparse : Bool) : Bool :=
  let k := b.extent kd
  let n := b.extent (1 - kd)
  b.ndim == 2 && within 1 n 256 && within 1 k 8192 && matFmt b && !(kd == 1 && b.scaled)
    && (sparse || decide (k * n * b.w / 8 + (if b.scaled then k / 2 ^ b.blkl * n else 0) ≤ 131072))

/-- The limits of `ainit` (R264). -/
def ainitLimits (d : Td) : Bool :=
  !d.scaled && d.fmtc != 9 && within 1 (d.extent 0) 256 && (d.ndim == 1 || (d.ndim == 2 && within 1 (d.extent 1) 128))

/-- The limits of a drain (R265, R266). -/
def drainLimits (d : Td) (trans mx : Bool) : Bool :=
  d.ndim == 2 && d.scaled == mx && within 1 (d.extent (if trans then 0 else 1)) 128
    && within 1 (d.extent (if trans then 1 else 0)) 256

/-- The FMT code of an accumulation's elements (R195). -/
def AccTy.fmtc : AccTy → Nat
  | .f32 => 0 | .bf16 => 1 | .i32 => 7

/-- The format and rounding conditions of R138. -/
def accFmtOk (acc : Option AccTy) (d x : Td) : Bool :=
  match acc with
  | none => true
  | some a => d.fmtc == a.fmtc && x.fmtc == a.fmtc && d.round != .sr

/-- The conditions of R138, and of R141 for an accumulator destination, whose base is an offset in a slot and meets no
byte of memory. -/
def copyLimits (acc : Option AccTy) (slot : Bool) (d x : Td) : Bool :=
  within 1 d.ndim 3 && sameExtents d x && d.w == x.w && accFmtOk acc d x
    && (if slot then
          decide (0 ≤ (d.base.toNat : Int) + d.spanLo) && decide ((d.base.toNat : Int) + d.spanHi < 131072)
            && (acc != none || d.fmtc == 0)
        else spansApart d x)

/-- The conditions of R146 on the table, the rows and the list. -/
def listLimits (acc : Option AccTy) (t r l : Td) : Bool :=
  l.ndim == 1 && l.fmtc == 9 && within 1 t.ndim 3 && t.ndim == r.ndim
    && (List.range (t.ndim - 1)).all (fun d => t.extent d == r.extent d)
    && r.extent (r.ndim - 1) == l.extent 0 && t.w == r.w && (decide (8 ≤ t.w) || decide (2 ≤ t.ndim)) && accFmtOk acc t r

/-- The conditions on every descriptor of a collective-engine command (R298). -/
def ceTd (d : Td) : Bool := within 1 d.ndim 3 && !d.scaled && decide (8 ≤ d.w) && decide (d.count ≤ 2 ^ 24 - 1)

/-- A format from fp32, bf16, fp16 and `mf` (R298). -/
def ceFloat (d : Td) : Bool := decide (d.fmtc ≤ 3)

/-- The conditions of `cstep` (R298). -/
def cstepLimits (d k x : Td) : Bool :=
  sameExtents d k && sameExtents d x && k.fmtc == x.fmtc && k.fmt == x.fmt
    && ((ceFloat x && ceFloat d) || (x.fmtc == 7 && d.fmtc == 7)) && d.round != .sr && spansApart x d
    && ((k.base == d.base && (List.range d.ndim).all (fun i => k.stride i == d.stride i)) || spansApart k d)

/-- The conditions of `cef` (R298). -/
def cefLimits (x r w : Td) : Bool :=
  ceFloat x && ceFloat w && r.fmtc == 0 && sameExtents x r && sameExtents x w && w.round != .sr && spansApart x r

/-- The limits of a command's own chapter (R68); `vlen` is the length of the vector code section in bytes. -/
def ownLimits (vlen : Nat) (c : Cmd) : Bool :=
  let a := tdOf c.d0
  let b := tdOf c.d1
  let d := tdOf c.d2
  match c.op with
  | .mma _ _ _ _ _ ta _ | .mmaSp _ _ _ _ _ ta _ => mmaLimits a ta
  | .wload .. => wloadLimits a 1 false
  | .wloadT _ _ _ sp => wloadLimits a 0 sp
  | .ainit .. => ainitLimits a
  | .adrain _ _ _ tr _ => drainLimits a tr false
  | .adrainMx _ _ _ tr _ => drainLimits a tr true
  | .cp _ _ _ slot => copyLimits none slot.isSome a b
  | .cpAccF32 _ _ _ slot => copyLimits (some .f32) slot.isSome a b
  | .cpAccBf16 .. => copyLimits (some .bf16) false a b
  | .cpAccI32 .. => copyLimits (some .i32) false a b
  | .cpMc .. | .offload .. => copyLimits none false a b
  | .gather .. => listLimits none b a d
  | .scatter .. => listLimits none a b d
  | .scatterAccF32 .. => listLimits (some .f32) a b d
  | .scatterAccBf16 .. => listLimits (some .bf16) a b d
  | .scatterAccI32 .. => listLimits (some .i32) a b d
  | .atomAdd .. | .atomAddthr .. | .atomSwap .. | .atomCas .. | .atomMin .. | .atomMax .. | .atomArrive .. | .note .. =>
    decide (c.x.toNat % 8 = 0)
  | .chain .. => decide (c.x.toNat % 64 = 0)
  | .csend .. | .crecv .. | .carm .. => ceTd a
  | .cstep .. => ceTd a && ceTd b && ceTd d && cstepLimits a b d
  | .cef .. => ceTd a && ceTd b && ceTd d && cefLimits a b d
  | .cslot .. => decide (c.x.toNat % 2 = 0)
  | .vrun _ imm => decide (8 * imm.toNat < vlen)
  | _ => true

/-- The reason of CMD_ERROR at the push, or none (R68): the descriptors named are valid (R208, R210), and the limits hold. -/
def pushLimits (vlen : Nat) (c : Cmd) : Option (BitVec 8) :=
  match c.tds.filterMap tdCheck with
  | r :: _ => some r
  | [] => lim (ownLimits vlen c)

/-! ### The mapping table as stage 1 sees it (R113, R157, R158) -/

/-- The least k with n ≤ 2^k. -/
def clog2 (n : Nat) : Nat := if n ≤ 1 then 0 else Nat.log2 (n - 1) + 1

/-- LSIZE of a range (R157): the smallest power of two of at least 4 KiB that covers the span. -/
def mapLsize (t : Td) : Nat := clog2 (max 4096 (t.spanHi + 1).toNat) - 12

/-- Two intervals meet. -/
def meets (a la b lb : Nat) : Bool := decide (a < b + lb) && decide (b < a + la)

/-- Stage 1 of R113: the entry to make and its index, or none. -/
def mapStage1 (tbl : List MapEntry) (asid : BitVec 12) (t : Td) (mode : Bool) (soff : BitVec 10) : Option (Nat × MapEntry) :=
  let ls := mapLsize t
  let size := 2 ^ (ls + 12)
  let e : MapEntry := ⟨asid, .mapping, mode, BitVec.ofNat 4 ls, soff, BitVec.ofNat 43 (t.base.toNat / 4096), [], 0⟩
  if t.spanLo < 0 ∨ 8 < ls ∨ t.base.toNat % size ≠ 0 ∨ soff.toNat * 4096 % size ≠ 0 then none
  else if tbl.any (fun x => x.st != .free && meets (x.soff.toNat * 4096) x.size (soff.toNat * 4096) size) then none
  else if tbl.any (fun x => x.st != .free && x.asid == asid && meets x.va x.size e.va size) then none
  else match tbl.findIdx? (fun x => x.st == .free) with
    | some i => some (i, e)
    | none => none

/-- The entry in STATE 10 that a `stash.unmap` or `stash.wb` names (R158). -/
def mapFind (tbl : List MapEntry) (asid : BitVec 12) (base : W64) : Option Nat :=
  tbl.findIdx? (fun e => e.st == .live && e.asid == asid && e.va == base.toNat)

/-- What a pushed `stash.map` or `stash.unmap` does to the push view (R126). -/
def viewStep (tbl : List MapEntry) (c : Cmd) : List MapEntry :=
  match c.op with
  | .stashMap _ _ zero soff =>
    (match mapStage1 tbl c.asid (tdOf c.d0) zero soff with
    | some (i, e) => tbl.set i { e with st := .live }
    | none => tbl)
  | .stashUnmap .. =>
    (match mapFind tbl c.asid (tdOf c.d0).base with
    | some i => tbl.set i MapEntry.reset
    | none => tbl)
  | _ => tbl

/-- The push view (R126): the table once every running and queued `stash.map` and `stash.unmap` of channel 0 has
completed. An entry in transit counts as live. -/
def Member.pushView (m : Member) : List MapEntry :=
  let now := m.stash.map.toList.map (fun e => if e.st == .free then e else { e with st := .live })
  let runs := ((m.ch[0]).runs.filter (fun r => !r.noEffect)).map (fun r => r.cmd)
  (runs ++ m.q.cu).foldl viewStep now

/-! ### Bank conflicts (R125, R126) -/

/-- Puts a unit into a rising list. -/
def unitInsert (u : Nat) : List Nat → List Nat
  | [] => [u]
  | x :: xs => if u < x then u :: x :: xs else if u = x then x :: xs else x :: unitInsert u xs

/-- The 64-byte units that a row touches, in rising order. -/
def rowUnits (t : Td) (i1 i2 i3 : Nat) : List Nat :=
  (List.range (t.extent 0)).foldl (fun l i0 => unitInsert ((t.ea [i0, i1, i2, i3]).toNat / 64) l) []

/-- A unit lies in the stash under a view. -/
def inView (view : List MapEntry) (asid : BitVec 12) (u : Nat) : Bool :=
  view.any (fun e => e.st == .live && e.asid == asid && decide (e.va ≤ u * 64) && decide (u * 64 < e.va + e.size))

/-- The first unit of one cycle's reads that lies in the bank of a different earlier one. -/
def conflictIn (view : List MapEntry) (asid : BitVec 12) : List Nat → List Nat → Option Nat
  | _, [] => none
  | seen, u :: us =>
    if !inView view asid u then conflictIn view asid seen us
    else if seen.any (fun v => v != u && v % 32 == u % 32) then some u
    else conflictIn view asid (u :: seen) us

/-- The address that a BANK_CONFLICT reports for a descriptor's read groups, or none (R125, R126). -/
def bankConflict (view : List MapEntry) (asid : BitVec 12) (t : Td) : Option W64 :=
  if t.ndim < 2 ∨ view.all (fun e => e.st == .free || e.asid != asid) then none
  else
    (List.range (t.extent 3 * t.extent 2)).findSome? (fun o =>
      (List.range ((t.extent 1 + 31) / 32)).findSome? (fun g =>
        let rows := (List.range (min 32 (t.extent 1 - 32 * g))).map (fun j =>
          rowUnits t (32 * g + j) (o % t.extent 2) (o / t.extent 2))
        let deep := rows.foldl (fun n r => max n r.length) 0
        (List.range deep).findSome? (fun k =>
          (conflictIn view asid [] (rows.filterMap (fun r => r[k]?))).map (fun u => BitVec.ofNat 64 (u * 64)))))

/-- The descriptor whose reads are checked for bank conflicts (R125): A of an `mma`, the source of a copy. `offload` is a
`cp` (DEDUCED from R145, log 33). -/
def bankTd (c : Cmd) : Option W512 :=
  match c.op with
  | .mma .. | .mmaSp .. => some c.d0
  | .cp .. | .cpAccF32 .. | .cpAccBf16 .. | .cpAccI32 .. | .cpMc .. | .offload .. => some c.d1
  | _ => none

/-- The address of a command's bank conflict under a view. -/
def cmdConflict (view : List MapEntry) (c : Cmd) : Option W64 :=
  match bankTd c with
  | some d => bankConflict view c.asid (tdOf d)
  | none => none

/-- The rate class of a matrix multiply, in half cycles (R363). -/
def cmdRate (c : Cmd) : Option Nat :=
  match c.op with
  | .mma .. | .mmaSp .. => some (max (rateHalves (tdOf c.d0).fmt) (rateHalves (tdOf c.d1).fmt))
  | _ => none

end Sys2Proof.Machine
end

