-- ==== Sys2Proof/Machine/Push.lean ====
section
/-! DEFINITION. Pushes (R69 to R72, R76): the shared operation, and the push of every command. -/

namespace Sys2Proof.Machine

/-- Appends a command to a queue. -/
def Queues.enqueue (x : Queues) (q : QId) (c : Cmd) : Queues :=
  match q with
  | .mu => { x with mu := x.mu ++ [c] }
  | .cu => { x with cu := x.cu ++ [c] }
  | .vu => { x with vu := x.vu ++ [c] }
  | .ce => { x with ce := x.ce ++ [c] }

/-- The checks of a push against R68, R126 and R363, in that order; the sum of the window goes into POWER_OVER. -/
def State.pushChecks (s : State) (t : TileId) (c : Cmd) : Option Report :=
  let x := s.tile t
  let m := x.m
  match pushLimits (m.code.vend - m.code.vcb.toNat) c with
  | some r => some (cmdError c.op r)
  | none =>
    match cmdConflict m.pushView c with
    | some a => some (suReport 0x0A 0 a)
    | none =>
      match cmdRate c with
      | some h => if rateOk (classOf x.grant) h then none else some (powerOver 5 (m.su.winWith m.ctr.cycle 2))
      | none => none

/-- The wait check of R70: FORWARD_WAIT where the promises do not cover a local wait. -/
def Member.forwardWait (m : Member) (w : Option QWait) : Option (BitVec 8) :=
  match w with
  | some w => if isLocal w.sem && decide (m.semP w.sem < m.semQ w.sem + w.thr.toNat) then some w.sem else none
  | none => none

/-- The post check of R70: SEM_OVERFLOW. -/
def Member.overflows (m : Member) (p : Option QPost) : Option (BitVec 8) :=
  match p with
  | some p => if isLocal p.sem && decide (semMax < m.semP p.sem + p.inc.toNat) then some p.sem else none
  | none => none

/-- The accounting of R70: the threshold enters Q and the increment enters P. -/
def Member.promise (m : Member) (w : Option QWait) (p : Option QPost) : Member :=
  let m1 := match w with
    | some w => if isLocal w.sem && w.consume then m.setQ w.sem (m.semQ w.sem + w.thr.toNat) else m
    | none => m
  match p with
  | some p => if isLocal p.sem then m1.setP p.sem (m1.semP p.sem + p.inc.toNat) else m1
  | none => m1

/-- The push of a command (R70): its checks, the wait for space, which no check is raised in, then the accounting, the
sequence number, the capture and the queue. -/
def State.pushS (s : State) (i : Instr) (h : Head) (q : QId) : State :=
  s.issue 2 (fun st =>
    let t := st.cur
    let m := (st.tile t).m
    let c := m.capture i h
    match (if m.su.wait.waiting then none else st.pushChecks t c) with
    | some r => (st, some r)
    | none =>
      if qCap q ≤ st.qUsed t q then (st.hold i, none)
      else
        match m.forwardWait h.wait, m.overflows h.post with
        | some n, _ => (st, some (semReport 0x07 n))
        | none, some n => (st, some (semReport 0x08 n))
        | none, none =>
          (st.modM t (fun m =>
            let m1 := m.promise h.wait h.post
            { m1 with q := m1.q.enqueue q c, ctr := { m1.ctr with pseq := m1.ctr.pseq + 1 } }.retire 16), none))

/-! ### Matrix-unit commands (R250) -/

/-- The push of `mma` (R259). -/
def execMma (h : Head) (acc : BitVec 3) (tda tdb : TdIx) (sat ta z : Bool) (s : State) : Ans :=
  .next (s.pushS (.mma h acc tda tdb sat ta z) h .mu)
/-- The push of `mma.sp` (R259). -/
def execMmaSp (h : Head) (acc : BitVec 3) (tda tdb : TdIx) (sat ta z : Bool) (s : State) : Ans :=
  .next (s.pushS (.mmaSp h acc tda tdb sat ta z) h .mu)
/-- The push of `wload` (R254). -/
def execWload (h : Head) (wb : BitVec 3) (tdb : TdIx) (s : State) : Ans := .next (s.pushS (.wload h wb tdb) h .mu)
/-- The push of `wload.t` (R254). -/
def execWloadT (h : Head) (wb : BitVec 3) (tdb : TdIx) (sparse : Bool) (s : State) : Ans :=
  .next (s.pushS (.wloadT h wb tdb sparse) h .mu)
/-- The push of `aclr` (R263). -/
def execAclr (h : Head) (acc : BitVec 3) (s : State) : Ans := .next (s.pushS (.aclr h acc) h .mu)
/-- The push of `ainit` (R264). -/
def execAinit (h : Head) (acc : BitVec 3) (tds : TdIx) (s : State) : Ans := .next (s.pushS (.ainit h acc tds) h .mu)
/-- The push of `adrain` (R265). -/
def execAdrain (h : Head) (acc : BitVec 3) (tdd : TdIx) (trans clear : Bool) (s : State) : Ans :=
  .next (s.pushS (.adrain h acc tdd trans clear) h .mu)
/-- The push of `adrain.mx` (R266). -/
def execAdrainMx (h : Head) (acc : BitVec 3) (tdd : TdIx) (trans clear : Bool) (s : State) : Ans :=
  .next (s.pushS (.adrainMx h acc tdd trans clear) h .mu)
/-- The push of `fence.oc` (R258). -/
def execFenceOc (h : Head) (s : State) : Ans := .next (s.pushS (.fenceOc h) h .mu)

/-! ### Copy-unit commands (R137) -/

/-- The push of `cp` (R139). -/
def execCp (h : Head) (tdd tds : TdIx) (slot : Option (BitVec 3)) (s : State) : Ans :=
  .next (s.pushS (.cp h tdd tds slot) h .cu)
/-- The push of `cp.acc.f32` (R140). -/
def execCpAccF32 (h : Head) (tdd tds : TdIx) (slot : Option (BitVec 3)) (s : State) : Ans :=
  .next (s.pushS (.cpAccF32 h tdd tds slot) h .cu)
/-- The push of `cp.acc.bf16` (R140). -/
def execCpAccBf16 (h : Head) (tdd tds : TdIx) (s : State) : Ans := .next (s.pushS (.cpAccBf16 h tdd tds) h .cu)
/-- The push of `cp.acc.i32` (R140). -/
def execCpAccI32 (h : Head) (tdd tds : TdIx) (s : State) : Ans := .next (s.pushS (.cpAccI32 h tdd tds) h .cu)
/-- The push of `cp.mc` (R143). -/
def execCpMc (h : Head) (tdd tds : TdIx) (x : SReg) (mask : BitVec 16) (s : State) : Ans :=
  .next (s.pushS (.cpMc h tdd tds x mask) h .cu)
/-- The push of `gather` (R147). -/
def execGather (h : Head) (tdd tdt tdl : TdIx) (strict : Bool) (s : State) : Ans :=
  .next (s.pushS (.gather h tdd tdt tdl strict) h .cu)
/-- The push of `scatter` (R147). -/
def execScatter (h : Head) (tdt tds tdl : TdIx) (strict : Bool) (s : State) : Ans :=
  .next (s.pushS (.scatter h tdt tds tdl strict) h .cu)
/-- The push of `scatter.acc.f32` (R147). -/
def execScatterAccF32 (h : Head) (tdt tds tdl : TdIx) (strict : Bool) (s : State) : Ans :=
  .next (s.pushS (.scatterAccF32 h tdt tds tdl strict) h .cu)
/-- The push of `scatter.acc.bf16` (R147). -/
def execScatterAccBf16 (h : Head) (tdt tds tdl : TdIx) (strict : Bool) (s : State) : Ans :=
  .next (s.pushS (.scatterAccBf16 h tdt tds tdl strict) h .cu)
/-- The push of `scatter.acc.i32` (R147). -/
def execScatterAccI32 (h : Head) (tdt tds tdl : TdIx) (strict : Bool) (s : State) : Ans :=
  .next (s.pushS (.scatterAccI32 h tdt tds tdl strict) h .cu)
/-- The push of `fill` (R144). -/
def execFill (h : Head) (tdd : TdIx) (x : SReg) (s : State) : Ans := .next (s.pushS (.fill h tdd x) h .cu)
/-- The push of `atom.add` (R151). -/
def execAtomAdd (h : Head) (ret : Option MIx) (x y : SReg) (s : State) : Ans :=
  .next (s.pushS (.atomAdd h ret x y) h .cu)
/-- The push of `atom.addthr` (R152). -/
def execAtomAddthr (h : Head) (ret : Option MIx) (x y z : SReg) (s : State) : Ans :=
  .next (s.pushS (.atomAddthr h ret x y z) h .cu)
/-- The push of `atom.swap` (R151). -/
def execAtomSwap (h : Head) (ret : Option MIx) (x y : SReg) (s : State) : Ans :=
  .next (s.pushS (.atomSwap h ret x y) h .cu)
/-- The push of `atom.cas` (R151). -/
def execAtomCas (h : Head) (ret : Option MIx) (x y z : SReg) (s : State) : Ans :=
  .next (s.pushS (.atomCas h ret x y z) h .cu)
/-- The push of `atom.min` (R151). -/
def execAtomMin (h : Head) (ret : Option MIx) (x y : SReg) (s : State) : Ans :=
  .next (s.pushS (.atomMin h ret x y) h .cu)
/-- The push of `atom.max` (R151). -/
def execAtomMax (h : Head) (ret : Option MIx) (x y : SReg) (s : State) : Ans :=
  .next (s.pushS (.atomMax h ret x y) h .cu)
/-- The push of `atom.arrive` (R325). -/
def execAtomArrive (h : Head) (ret : Option MIx) (x : SReg) (s : State) : Ans :=
  .next (s.pushS (.atomArrive h ret x) h .cu)
/-- The push of `note` (R156). -/
def execNote (h : Head) (x y : SReg) (s : State) : Ans := .next (s.pushS (.note h x y) h .cu)
/-- The push of `chain` (R160). -/
def execChain (h : Head) (w : BitVec 2) (x : SReg) (s : State) : Ans := .next (s.pushS (.chain h w x) h .cu)
/-- The push of `stash.map` (R113). -/
def execStashMap (h : Head) (td : TdIx) (zero : Bool) (soff : BitVec 10) (s : State) : Ans :=
  .next (s.pushS (.stashMap h td zero soff) h .cu)
/-- The push of `stash.unmap` (R121). -/
def execStashUnmap (h : Head) (td : TdIx) (s : State) : Ans := .next (s.pushS (.stashUnmap h td) h .cu)
/-- The push of `stash.wb` (R120). -/
def execStashWb (h : Head) (td : TdIx) (s : State) : Ans := .next (s.pushS (.stashWb h td) h .cu)
/-- The push of `offload` (R145). -/
def execOffload (h : Head) (tdd tds : TdIx) (x : SReg) (s : State) : Ans :=
  .next (s.pushS (.offload h tdd tds x) h .cu)

/-! ### Collective-engine commands (R297) -/

/-- The push of `csend` (R299). -/
def execCsend (h : Head) (c : CeClass) (link : LinkId) (tag : BitVec 8) (tds : TdIx) (s : State) : Ans :=
  .next (s.pushS (.csend h c link tag tds) h .ce)
/-- The push of `crecv` (R300). -/
def execCrecv (h : Head) (link : LinkId) (tag : BitVec 8) (tdd : TdIx) (rc : BitVec 6) (s : State) : Ans :=
  .next (s.pushS (.crecv h link tag tdd rc) h .ce)
/-- The push of `cstep` (R301). -/
def execCstep (h : Head) (c : CeClass) (link : LinkId) (tag : BitVec 8) (tdd tdk tds : TdIx) (rc : BitVec 6) (s : State) : Ans :=
  .next (s.pushS (.cstep h c link tag tdd tdk tds rc) h .ce)
/-- The push of `carm` (R299). -/
def execCarm (h : Head) (c : CeClass) (link : LinkId) (tag : BitVec 8) (tds : TdIx) (rc : BitVec 6) (y : SReg) (s : State) : Ans :=
  .next (s.pushS (.carm h c link tag tds rc y) h .ce)
/-- The push of `crc.set` (R304). -/
def execCrcSet (h : Head) (rc : BitVec 6) (x : SReg) (die : DieId) (s : State) : Ans :=
  .next (s.pushS (.crcSet h rc x die) h .ce)
/-- The push of `crc.rd` (R304). -/
def execCrcRd (h : Head) (m : MIx) (rc : BitVec 6) (die : DieId) (fleet : Bool) (s : State) : Ans :=
  .next (s.pushS (.crcRd h m rc die fleet) h .ce)
/-- The push of `cslot` (R305). -/
def execCslot (h : Head) (link : LinkId) (x : SReg) (first count1 : BitVec 10) (commit : Bool) (s : State) : Ans :=
  .next (s.pushS (.cslot h link x first count1 commit) h .ce)
/-- The push of `cef` (R303). -/
def execCef (h : Head) (c : CeClass) (link : LinkId) (tag : BitVec 8) (tds tdr tdw : TdIx) (s : State) : Ans :=
  .next (s.pushS (.cef h c link tag tds tdr tdw) h .ce)

/-! ### Blocks (R211) -/

/-- The push of `vrun` (R211). -/
def execVrun (h : Head) (imm : W32) (s : State) : Ans := .next (s.pushS (.vrun h imm) h .vu)

end Sys2Proof.Machine
end

