-- ==== Sys2Proof/Machine/Vector.lean ====
section
/-! DEFINITION. Issue of vector words, lane arithmetic, permutes, reductions, block scalars, predicates, loops and block ends
(R211 to R238, R243, R246, R247, R362). -/

namespace Sys2Proof.Machine

/-! ### Issue (R67, R102, R212, R362) -/

/-- What stops a vector word: a precise trap, an engine fault, or a full queue that it waits for. -/
inductive VStop where
  | trap (code : BitVec 8) (tval : W64)
  | fault (r : Report)
  | hold
  deriving DecidableEq, Repr

/-- The sequence number of the running block. -/
def Member.blockSeq (m : Member) : W64 := match m.vu.cmd with | some c => c.seq | none => 0

/-- An engine fault of the vector unit at a word: it halts there (R102). -/
def State.vecFault (s : State) (t : TileId) (r : Report) : State :=
  s.modM t (fun m => { m with vu := { m.vu with halted := some r }, rep := { m.rep with engine := m.rep.engine ++ [(m.su.nextId, r)] } })

/-- Adds an issue's weight to the vector window (R362). -/
def Member.addVWeight (m : Member) (wt : Nat) : Member :=
  let c := m.ctr.cycle
  { m with su := { m.su with vwin := (c, wt) :: m.su.vwin.filter (fun e => decide (c < e.1 + 256)) } }

/-- The issue of a vector word on the current tile (R362): a word that finds its queue full does not issue in this cycle (R221); an
issue is POWER_OVER with reason 1, else its own checks and effect. -/
def State.issueV (s : State) (i : Instr) (body : State → State × Option VStop) : State :=
  let t := s.cur
  let m := (s.tile t).m
  let wt := vuWeight i
  let sum := windowSum m.su.vwin m.ctr.cycle + wt
  let r := body s
  if r.2 = some .hold then r.1.modM t (fun m => { m with vu := { m.vu with ready := m.ctr.cycle + 1 } })
  else if vuLimit (classOf (s.tile t).grant) < sum then s.vecTrap t 0x0C 1 (BitVec.ofNat 64 (sum * 2 ^ 32 + 1))
  else
    match r.2 with
    | none | some .hold => r.1.modM t (fun m => m.addVWeight wt)
    | some (.trap code tval) => r.1.vecTrap t code 0 tval
    | some (.fault rep) => r.1.vecFault t rep

/-- The open loops and the next address after the instruction at `a` (R219): each loop that ends there is tested, innermost
first. -/
def advLoops (a : W64) : List Loop → List Loop × W64
  | [] => ([], a + 8)
  | l :: ls =>
    if a = l.last then
      if 1 < l.remaining then ({ l with remaining := l.remaining - 1 } :: ls, l.first) else advLoops a ls
    else (l :: ls, a + 8)

/-- The vector unit goes on after a word (R212, R219). -/
def Member.vNext (m : Member) : Member :=
  let x := advLoops m.vu.vpc m.vu.loops
  { m with vu := { m.vu with loops := x.1, vpc := x.2, ready := m.ctr.cycle + 1 } }

/-- A register write of a vector word with a latency in cycles after its issue cycle (R164, R217). -/
def Member.writeV (m : Member) (r : DbgReg) (mask v : W4096) (lat : Nat) : Member :=
  if isConst r then m
  else if lat = 0 then
    let m1 := m.land m.su.nextId r mask v
    { m1 with su := { m1.su with nextId := m1.su.nextId + 1 } }
  else m.putSlow r mask v (m.ctr.cycle + lat)

/-- The shape of a vector word that changes the current member and goes on. -/
def State.opV (s : State) (i : Instr) (f : Member → Member) : State :=
  s.issueV i (fun st => (st.modM st.cur (fun m => (f m).vNext), none))

/-! ### Element-wise words (R228) -/

/-- The elements of `ty` computed where the predicate is set. -/
def elems (ty : VTy) (p : BitVec 256) (f : Nat → Nat) : W4096 := vecOf ty (fun e => if active ty p e then f e else 0)

/-- The shape of an element-wise word (R228). -/
def State.elemS (s : State) (i : Instr) (ty : VTy) (d : VReg) (pm : PReg) (lat : Nat) (f : Member → Nat → Nat) : State :=
  s.opV i (fun m => m.writeV (.v d) (maskOf ty (m.preg pm)) (elems ty (m.preg pm) (f m)) lat)

/-- A generator stepped some times (R204). -/
def stepN : Nat → W32 → W32
  | 0, x => x
  | n + 1, x => stepN n (genStep x)

/-- How the elements of a word use the generators (R205, R228, R234, R235): the lane of an element, and whether it
converts. -/
structure GenUse where
  n : Nat
  lane : Nat → Nat
  on : Nat → Bool

/-- The converting elements of a lane below a bound. -/
def GenUse.before (u : GenUse) (l e : Nat) : Nat := ((List.range e).filter (fun k => u.on k && u.lane k == l)).length

/-- The random bits of an element (R203, R204). -/
def GenUse.bits (u : GenUse) (b : Vector W32 128) (e : Nat) : Nat :=
  match b[u.lane e]? with
  | some x => genBits (stepN (u.before (u.lane e) e + 1) x)
  | none => 0

/-- The bank after the word. -/
def GenUse.after (u : GenUse) (b : Vector W32 128) : Vector W32 128 := Vector.ofFn (fun l => stepN (u.before l.val u.n) b[l])

/-- The generators of an element-wise word: slots 2i and 2i + 1 share lane i (R228). -/
def elemGen (ty : VTy) (p : BitVec 256) : GenUse :=
  ⟨ty.count, fun e => if ty.is16 then e / 2 else e, fun e => active ty p e⟩

/-- The random bits of an element under a mode, 0 but for `sr`. -/
def srBits (m : Member) (rm : RMode) (u : GenUse) (e : Nat) : Nat :=
  if rm = .sr then u.bits m.vbank e else 0

/-- The vector bank steps where the mode is `sr` (R205). -/
def Member.stepBank (m : Member) (rm : RMode) (u : GenUse) : Member :=
  if rm = .sr then { m with vbank := u.after m.vbank } else m

/-- The shape of an element-wise word that rounds: `f` gets the random bits of its element. -/
def State.roundS (s : State) (i : Instr) (ty : VTy) (rm : RMode) (d : VReg) (pm : PReg) (lat : Nat)
    (f : Member → Nat → Nat → Nat) : State :=
  s.opV i (fun m =>
    let u := elemGen ty (m.preg pm)
    (m.writeV (.v d) (maskOf ty (m.preg pm)) (elems ty (m.preg pm) (fun e => f m (srBits m rm u e) e)) lat).stepBank rm u)

/-! ### Lane arithmetic (R230, R231) -/

/-- sat of R230: clamps, or wraps. -/
def satInt (ty : VTy) (sat : Bool) (n : Int) : Nat :=
  let w := vtyBits ty
  match vtyFmt ty with
  | .int _ sg =>
    let lo : Int := if sg then -((2 ^ (w - 1) : Nat) : Int) else 0
    let hi : Int := if sg then ((2 ^ (w - 1) : Nat) : Int) - 1 else ((2 ^ w : Nat) : Int) - 1
    codeOfInt w (if sat then min (max n lo) hi else n)
  | .fp .. => 0

/-- The integer that an element of an integer type reads as (R230). -/
def elemInt (ty : VTy) (c : Nat) : Int :=
  match vtyFmt ty with
  | .int w sg => intOfCode w sg c
  | .fp .. => 0

/-- The value of an element. -/
def elemVal (ty : VTy) (c : Nat) : FVal := valOf (vtyFmt ty) c

/-- `vadd`, `vsub` and `vmul` on two elements (R230). -/
inductive VOp where
  | add | sub | mul
  deriving DecidableEq, Repr

/-- f of R230 for `vadd`, `vsub` and `vmul`. -/
def arith (op : VOp) (ty : VTy) (rm : RMode) (sat : Bool) (r a b : Nat) : Nat :=
  if ty.isInt then
    let x := elemInt ty a
    let y := elemInt ty b
    satInt ty sat (match op with | .add => x + y | .sub => x - y | .mul => x * y)
  else
    let x := elemVal ty a
    let y := elemVal ty b
    let z := match op with
      | .add => x.add y (rm == .rd)
      | .sub => x.add y.neg (rm == .rd)
      | .mul => x.mul y
    cvt z (vtyFmt ty) rm sat r

/-- f of `vfma` (R230): one rounding. -/
def fma (ty : VTy) (rm : RMode) (sat : Bool) (r a b c : Nat) : Nat :=
  cvt (((elemVal ty a).mul (elemVal ty b)).add (elemVal ty c) (rm == .rd)) (vtyFmt ty) rm sat r

/-- f of `vmin` and `vmax` (R230). -/
def minMax (ty : VTy) (max? : Bool) (a b : Nat) : Nat :=
  if ty.isInt then
    let lt := decide (elemInt ty a < elemInt ty b)
    if lt == max? then b else a
  else cvt ((if max? then FVal.maxv else FVal.minv) (elemVal ty a) (elemVal ty b)) (vtyFmt ty) .rne false

/-- The latency of `vadd`, `vsub`, `vmin` and `vmax` (R217). -/
def addLat (ty : VTy) : Nat := if ty.isInt then 0 else 3

/-- `vadd` (R230). -/
def execVadd (ty : VTy) (rm : RMode) (sat : Bool) (d a b : VReg) (pm : PReg) (s : State) : Ans :=
  .next (s.roundS (.vadd ty rm sat d a b pm) ty rm d pm (addLat ty) (fun m r e =>
    arith .add ty rm sat r (elemOf ty (m.vreg a) e) (elemOf ty (m.vreg b) e)))
/-- `vsub` (R230). -/
def execVsub (ty : VTy) (rm : RMode) (sat : Bool) (d a b : VReg) (pm : PReg) (s : State) : Ans :=
  .next (s.roundS (.vsub ty rm sat d a b pm) ty rm d pm (addLat ty) (fun m r e =>
    arith .sub ty rm sat r (elemOf ty (m.vreg a) e) (elemOf ty (m.vreg b) e)))
/-- `vmul` (R230). -/
def execVmul (ty : VTy) (rm : RMode) (sat : Bool) (d a b : VReg) (pm : PReg) (s : State) : Ans :=
  .next (s.roundS (.vmul ty rm sat d a b pm) ty rm d pm 3 (fun m r e =>
    arith .mul ty rm sat r (elemOf ty (m.vreg a) e) (elemOf ty (m.vreg b) e)))
/-- `vfma` (R230). -/
def execVfma (ty : VTy) (rm : RMode) (sat : Bool) (d a b c : VReg) (pm : PReg) (s : State) : Ans :=
  .next (s.roundS (.vfma ty rm sat d a b c pm) ty rm d pm 3 (fun m r e =>
    fma ty rm sat r (elemOf ty (m.vreg a) e) (elemOf ty (m.vreg b) e) (elemOf ty (m.vreg c) e)))
/-- `vmin` (R230). -/
def execVmin (ty : VTy) (d a b : VReg) (pm : PReg) (s : State) : Ans :=
  .next (s.elemS (.vmin ty d a b pm) ty d pm (addLat ty) (fun m e =>
    minMax ty false (elemOf ty (m.vreg a) e) (elemOf ty (m.vreg b) e)))
/-- `vmax` (R230). -/
def execVmax (ty : VTy) (d a b : VReg) (pm : PReg) (s : State) : Ans :=
  .next (s.elemS (.vmax ty d a b pm) ty d pm (addLat ty) (fun m e =>
    minMax ty true (elemOf ty (m.vreg a) e) (elemOf ty (m.vreg b) e)))

/-- A shift amount (R231). -/
def vshAmt (ty : VTy) (b : Nat) : Nat := b % vtyBits ty

/-- f of `vsra` (R231). -/
def vsraVal (ty : VTy) (a b : Nat) : Nat :=
  codeOfInt (vtyBits ty) (intOfCode (vtyBits ty) true a / ((2 ^ vshAmt ty b : Nat) : Int))

/-- The shape of a bitwise word (R231). -/
def State.bitS (s : State) (i : Instr) (ty : VTy) (d a b : VReg) (pm : PReg) (f : Nat → Nat → Nat) : State :=
  s.elemS i ty d pm 0 (fun m e => f (elemOf ty (m.vreg a) e) (elemOf ty (m.vreg b) e))

/-- `vand` (R231). -/
def execVand (ty : VTy) (d a b : VReg) (pm : PReg) (s : State) : Ans :=
  .next (s.bitS (.vand ty d a b pm) ty d a b pm (fun x y => x &&& y))
/-- `vor` (R231). -/
def execVor (ty : VTy) (d a b : VReg) (pm : PReg) (s : State) : Ans :=
  .next (s.bitS (.vor ty d a b pm) ty d a b pm (fun x y => x ||| y))
/-- `vxor` (R231). -/
def execVxor (ty : VTy) (d a b : VReg) (pm : PReg) (s : State) : Ans :=
  .next (s.bitS (.vxor ty d a b pm) ty d a b pm (fun x y => x ^^^ y))
/-- `vshl` (R231). -/
def execVshl (ty : VTy) (d a b : VReg) (pm : PReg) (s : State) : Ans :=
  .next (s.bitS (.vshl ty d a b pm) ty d a b pm (fun x y => x * 2 ^ vshAmt ty y))
/-- `vshr` (R231). -/
def execVshr (ty : VTy) (d a b : VReg) (pm : PReg) (s : State) : Ans :=
  .next (s.bitS (.vshr ty d a b pm) ty d a b pm (fun x y => x / 2 ^ vshAmt ty y))
/-- `vsra` (R231). -/
def execVsra (ty : VTy) (d a b : VReg) (pm : PReg) (s : State) : Ans :=
  .next (s.bitS (.vsra ty d a b pm) ty d a b pm (vsraVal ty))

/-! ### Compares and select (R232, R233) -/

/-- The shape of a compare (R232). -/
def State.cmpS (s : State) (i : Instr) (r : VRel) (ty : VTy) (d : PReg) (a b : VReg) (pm : PReg) : State :=
  s.opV i (fun m =>
    let x := cmpBits ty (m.preg pm) (fun e => vrel ty r (elemOf ty (m.vreg a) e) (elemOf ty (m.vreg b) e))
    m.writeV (.p d) (x.1.setWidth 4096) (x.2.setWidth 4096) 0)

/-- `vcmp.eq` (R232). -/
def execVcmpEq (ty : VTy) (d : PReg) (a b : VReg) (pm : PReg) (s : State) : Ans :=
  .next (s.cmpS (.vcmpEq ty d a b pm) .eq ty d a b pm)
/-- `vcmp.lt` (R232). -/
def execVcmpLt (ty : VTy) (d : PReg) (a b : VReg) (pm : PReg) (s : State) : Ans :=
  .next (s.cmpS (.vcmpLt ty d a b pm) .lt ty d a b pm)
/-- `vcmp.le` (R232). -/
def execVcmpLe (ty : VTy) (d : PReg) (a b : VReg) (pm : PReg) (s : State) : Ans :=
  .next (s.cmpS (.vcmpLe ty d a b pm) .le ty d a b pm)
/-- `vsel` (R233). -/
def execVsel (ty : VTy) (d a b : VReg) (pc pm : PReg) (s : State) : Ans :=
  .next (s.elemS (.vsel ty d a b pc pm) ty d pm 0 (fun m e =>
    if active ty (m.preg pc) e then elemOf ty (m.vreg a) e else elemOf ty (m.vreg b) e))

/-! ### Conversions and packs (R234, R235) -/

/-- `vcvt` (R234): lane by lane, whatever the widths. -/
def execVcvt (ty src : VTy) (rm : RMode) (sat : Bool) (d a : VReg) (pm : PReg) (s : State) : Ans :=
  .next (s.roundS (.vcvt ty src rm sat d a pm) .f32 rm d pm 3 (fun m r e =>
    cvt (valOf (vtyFmt src) ((lane32 (m.vreg a) e).toNat % 2 ^ vtyBits src)) (vtyFmt ty) rm sat r))

/-- The source format of `vpack` (R235). -/
def packSrc (ty : VTy) : NumFmt :=
  match ty with
  | .i16 => .int 32 true
  | .u16 => .int 32 false
  | .f32 | .bf16 | .f16 | .i32 | .u32 => fp32

/-- The generators of `vpack` (R235): slots i and i + 128 share lane i. -/
def packGen (p : BitVec 256) : GenUse := ⟨256, fun e => e % 128, fun e => p.getLsbD e⟩

/-- `vpack` (R235). -/
def execVpack (ty : VTy) (rm : RMode) (sat : Bool) (d a b : VReg) (pm : PReg) (s : State) : Ans :=
  .next (s.opV (.vpack ty rm sat d a b pm) (fun m =>
    let p := m.preg pm
    let u := packGen p
    let f := fun j =>
      cvt (valOf (packSrc ty) (lane32 (if j < 128 then m.vreg a else m.vreg b) (j % 128)).toNat) (vtyFmt ty) rm sat
        (srBits m rm u j)
    (m.writeV (.v d) (maskOf .u16 p) (elems .u16 p f) 3).stepBank rm u))

/-! ### Permutes, slides and broadcast (R236, R237) -/

/-- `vperm` (R236). -/
def execVperm (ty : VTy) (d a b : VReg) (pm : PReg) (s : State) : Ans :=
  .next (s.elemS (.vperm ty d a b pm) ty d pm 2 (fun m e => elemOf ty (m.vreg a) (elemOf ty (m.vreg b) e % ty.count)))
/-- `vbcast` (R237). -/
def execVbcast (ty : VTy) (d : VReg) (pm : PReg) (imm : W32) (s : State) : Ans :=
  .next (s.elemS (.vbcast ty d pm imm) ty d pm 0 (fun _ _ => imm.toNat))
/-- `vslide.up` (R237). -/
def execVslideUp (ty : VTy) (d a : VReg) (pm : PReg) (n : W32) (s : State) : Ans :=
  .next (s.elemS (.vslideUp ty d a pm n) ty d pm 2 (fun m e =>
    if n.toNat ≤ e then elemOf ty (m.vreg a) (e - n.toNat) else 0))
/-- `vslide.dn` (R237). -/
def execVslideDn (ty : VTy) (d a : VReg) (pm : PReg) (n : W32) (s : State) : Ans :=
  .next (s.elemS (.vslideDn ty d a pm n) ty d pm 2 (fun m e =>
    if e + n.toNat < ty.count then elemOf ty (m.vreg a) (e + n.toNat) else 0))

/-! ### Reductions (R238) -/

/-- One level of the tree. -/
def pairUp (comb : Nat → Nat → Nat) : List Nat → List Nat
  | a :: b :: l => comb a b :: pairUp comb l
  | l => l

/-- The tree over some levels. -/
def treeOf (comb : Nat → Nat → Nat) : Nat → List Nat → List Nat
  | 0, l => l
  | n + 1, l => treeOf comb n (pairUp comb l)

/-- The result of a reduction: inactive elements enter as the identity. -/
def reduce (ty : VTy) (p : BitVec 256) (v : W4096) (ident : Nat) (comb : Nat → Nat → Nat) : Nat :=
  (treeOf comb 8 ((List.range ty.count).map (fun e => if active ty p e then elemOf ty v e else ident))).headD 0

/-- The shape of a reduction: every element is written. -/
def State.redS (s : State) (i : Instr) (ty : VTy) (d a : VReg) (pm : PReg) (ident : Nat) (comb : Nat → Nat → Nat) : State :=
  s.opV i (fun m =>
    let x := reduce ty (m.preg pm) (m.vreg a) ident comb
    m.writeV (.v d) (BitVec.allOnes 4096) (vecOf ty (fun _ => x)) 6)

/-- The identity of a maximum or minimum (R238). -/
def extremeId (ty : VTy) (max? : Bool) : Nat :=
  match vtyFmt ty with
  | .int w sg =>
    if max? then (if sg then 2 ^ (w - 1) else 0) else (if sg then 2 ^ (w - 1) - 1 else 2 ^ w - 1)
  | .fp .. => cvt (.inf max?) (vtyFmt ty) .rne false

/-- `vred.sum` (R238). -/
def execVredSum (ty : VTy) (rm : RMode) (d a : VReg) (pm : PReg) (s : State) : Ans :=
  .next (s.redS (.vredSum ty rm d a pm) ty d a pm (if ty.isInt then 0 else 2 ^ (vtyBits ty - 1)) (arith .add ty rm false 0))
/-- `vred.max` (R238). -/
def execVredMax (ty : VTy) (d a : VReg) (pm : PReg) (s : State) : Ans :=
  .next (s.redS (.vredMax ty d a pm) ty d a pm (extremeId ty true) (minMax ty true))
/-- `vred.min` (R238). -/
def execVredMin (ty : VTy) (d a : VReg) (pm : PReg) (s : State) : Ans :=
  .next (s.redS (.vredMin ty d a pm) ty d a pm (extremeId ty false) (minMax ty false))

/-! ### Table interpolation (R227, R243) -/

/-- A coefficient of a row. -/
def Member.coeff (m : Member) (row k : Nat) : FVal := v32 (SMap.get 0 m.rows (3 * row + k))

/-- The segment of u (R227). -/
def segOf (u : FVal) (n : Nat) : Nat :=
  match u with
  | .inf false => n - 1
  | .nan | .inf true | .zero _ => 0
  | .num .. => (min (max u.floor 0) ((n : Int) - 1)).toNat

/-- tip(x, T, ext) as an FP32 code (R227). -/
def Member.tip (m : Member) (t : Table) (ext : Bool) (c : W32) : Nat :=
  let x := v32 c
  if x.isNan then 0x7FC00000
  else
    let lo := v32 t.lo
    let hi := v32 t.hi
    let b : Option FVal := if x.cmpKey lo < 0 then some lo else if 0 < x.cmpKey hi then some hi else none
    let xe := b.getD x
    let d := rv32 (xe.add lo.neg)
    let u := rv32 (d.mul (v32 t.inv))
    let row := t.org + segOf u t.nseg
    let c0 := m.coeff row 0
    let c1 := m.coeff row 1
    let c2 := m.coeff row 2
    let h1 := rv32 (c2.mul xe)
    let h2 := rv32 (c1.add h1)
    let h3 := rv32 (h2.mul xe)
    let y := rnd32 (c0.add h3)
    match b with
    | none => y
    | some bv =>
      if !ext then y
      else
        let g := rv32 (c1.add (rv32 ((FVal.ofInt 2).mul (rv32 (c2.mul bv)))))
        (match g with
        | .zero _ => y
        | .nan | .inf _ | .num .. => rnd32 ((valOf fp32 y).add (rv32 (g.mul (rv32 (x.add bv.neg))))))

/-- The shape of a table word (R243): a header with V = 0 is ILLEGAL_ENCODING at the word. -/
def State.tipS (s : State) (i : Instr) (d a : VReg) (tbl pm : PReg) (ext : Bool) : State :=
  s.issueV i (fun st =>
    let t := ((st.tile st.cur).m).tbl[(r3 tbl).val]
    if !t.v then (st, some (.trap 0x01 (wordOf i)))
    else (st.modM st.cur (fun m =>
      (m.writeV (.v d) (maskOf .f32 (m.preg pm)) (elems .f32 (m.preg pm) (fun e => m.tip t ext (lane32 (m.vreg a) e))) 8).vNext),
      none))

/-- `vtip` (R243). -/
def execVtip (d a : VReg) (tbl pm : PReg) (s : State) : Ans := .next (s.tipS (.vtip d a tbl pm) d a tbl pm false)
/-- `vtip.x` (R243). -/
def execVtipX (d a : VReg) (tbl pm : PReg) (s : State) : Ans := .next (s.tipS (.vtipX d a tbl pm) d a tbl pm true)

/-! ### Block scalars and predicates (R246, R247) -/

/-- A write of a block scalar. -/
def Member.writeK (m : Member) (d : PReg) (v : W64) : Member := m.writeV (.k d) (fullMask (.k d)) (v.setWidth 4096) 0

/-- A write of a whole predicate. -/
def Member.writeP (m : Member) (d : PReg) (v : BitVec 256) : Member := m.writeV (.p d) (fullMask (.p d)) (v.setWidth 4096) 0

/-- `kli` (R246). -/
def execKli (d : PReg) (imm : W32) (s : State) : Ans := .next (s.opV (.kli d imm) (fun m => m.writeK d (imm.signExtend 64)))
/-- `kadd` (R246). -/
def execKadd (d a : PReg) (src : VSrc) (n : BitVec 6) (imm : BitVec 24) (s : State) : Ans :=
  .next (s.opV (.kadd d a src n imm) (fun m => m.writeK d ((m.kreg a + vsrc m src (imm.signExtend 64)) >>> n.toNat)))
/-- `kmov` (R246). -/
def execKmov (d : PReg) (src : VSrc) (s : State) : Ans := .next (s.opV (.kmov d src) (fun m => m.writeK d (vsrc m src 0)))
/-- The count of a `plen` (R247). -/
def Member.plenCount (m : Member) (src : VSrc) (imm : W32) : Nat := ((vsrc m src (imm.setWidth 64)).setWidth 32).toNat
/-- `plen` (R247). -/
def execPlen (d : PReg) (src : VSrc) (imm : W32) (s : State) : Ans :=
  .next (s.opV (.plen d src imm) (fun m => m.writeP d (plenBits false (m.plenCount src imm))))
/-- `plen.s` (R247). -/
def execPlenS (d : PReg) (src : VSrc) (imm : W32) (s : State) : Ans :=
  .next (s.opV (.plenS d src imm) (fun m => m.writeP d (plenBits true (m.plenCount src imm))))
/-- `pand` (R246). -/
def execPand (d a b : PReg) (s : State) : Ans := .next (s.opV (.pand d a b) (fun m => m.writeP d (m.preg a &&& m.preg b)))
/-- `por` (R246). -/
def execPor (d a b : PReg) (s : State) : Ans := .next (s.opV (.por d a b) (fun m => m.writeP d (m.preg a ||| m.preg b)))
/-- `pnot` (R246). -/
def execPnot (d a : PReg) (s : State) : Ans := .next (s.opV (.pnot d a) (fun m => m.writeP d (~~~(m.preg a))))
/-- `vnop` (R246). -/
def execVnop (s : State) : Ans := .next (s.opV .vnop (fun m => m))

/-! ### Loops and block ends (R168, R213, R218 to R220) -/

/-- The count of a `vloop` (R218). -/
def Member.loopCount (m : Member) (src : VSrc) (count : BitVec 16) : Nat :=
  ((vsrc m src (count.setWidth 64)).setWidth 32).toNat

/-- `vloop` (R218, R220). -/
def execVloop (src : VSrc) (dist count : BitVec 16) (s : State) : Ans :=
  .next (s.issueV (.vloop src dist count) (fun st =>
    let m := (st.tile st.cur).m
    let stop := m.vu.vpc + BitVec.ofNat 64 (8 * dist.toNat)
    if dist.toNat ≤ 1 ∨ 3 ≤ m.vu.loops.length ∨ m.vu.loops.any (fun l => decide (l.last.toNat + 8 < stop.toNat)) = true then
      (st, some (.trap 0x01 (wordOf (.vloop src dist count))))
    else
      let n := m.loopCount src count
      (st.modM st.cur (fun m => { m with vu :=
        if n = 0 then { m.vu with vpc := stop, ready := m.ctr.cycle + 1 }
        else { m.vu with
          loops := ⟨n, m.vu.vpc + 8, stop - 8⟩ :: m.vu.loops, vpc := m.vu.vpc + 8, ready := m.ctr.cycle + 1 } }), none)))

/-- `vflip` (R168): it has issued, and the exchange follows at the end of a cycle. -/
def execVflip (s : State) : Ans :=
  .next (s.opV .vflip (fun m => { m with vu := { m.vu with flip := true } }))

/-- `vend` (R213): it acts as a `vflip`, stays at its word, and the block completes once every store has landed. -/
def execVend (s : State) : Ans :=
  .next (s.issueV .vend (fun st =>
    (st.modM st.cur (fun m => { m with vu := { m.vu with flip := true, vending := true, loops := [] } }), none)))

/-- `vqmark` (R223). -/
def execVqmark (s : State) : Ans :=
  .next (s.opV .vqmark (fun m =>
    let old := m.vu.marks.filter (fun k => (m.vu.lq ++ m.vu.sq).any (fun x => decide (x.id < k)))
    { m with vu := { m.vu with marks := old ++ [m.su.nextId] } }))

end Sys2Proof.Machine
end

