-- ==== Sys2Proof/Machine/VectorMem.lean ====
section
/-! DEFINITION. Vector memory words: loads, stores, indexed forms, the fused update and `kld` (R129, R216, R217, R221, R239 to
R246). -/

namespace Sys2Proof.Machine

/-- The active lanes of a predicate (R215). -/
def activeLanes (p : BitVec 256) : List Nat := (List.range 128).filter (fun i => p.getLsbD (2 * i))

/-- TRANSLATION_FAULT or PA_RANGE of a vector access (R80, R102, R104). -/
def vecAccFault (seq : W64) (code reason : BitVec 8) (kind : AccKind) (va : W64) : Report :=
  ⟨code, seq.setWidth 32, 0, 1, if code = 0x03 then kind.code else 0, reason, va⟩

/-- Routes lane addresses in order (R240): where each goes, or the fault of the first that fails. DESIGN CHOICE (log 90): the spec
does not say whose accesses a handler covers, and a vector access counts as made outside a handler (K = 1, R99) while the
steering unit of its tile is in one. -/
def State.routeLanes (s : State) (t : TileId) (kind : AccKind) : List (Nat × W64) → State × Except Report (List LaneAcc)
  | [] => (s, .ok [])
  | (i, va) :: rest =>
    let m := (s.tile t).m
    let r := s.routeT t .vu m.asid va kind false
    match r.2 with
    | .tfault reason => (r.1, .error (vecAccFault m.blockSeq 0x03 reason kind va))
    | .paRange => (r.1, .error (vecAccFault m.blockSeq 0x04 0 kind va))
    | .to tgt =>
      let x := State.routeLanes r.1 t kind rest
      match x.2 with
      | .ok l => (x.1, .ok (⟨i, va, tgt⟩ :: l))
      | .error e => (x.1, .error e)

/-- A mark of `vqmark` keeps the next load behind every store that has a stash word pending (R223): vector stores older than the mark
cover the word, and no store of the steering unit and no younger vector store does. -/
def Member.markCovers (m : Member) (w : Nat) : Bool :=
  let older := fun (y : VEntry) => m.vu.marks.any (fun k => decide (y.id < k))
  let hits := fun (y : VEntry) => y.writes.any (fun p => (stashWords p.1 p.2.2.length).contains w)
  m.vu.sq.any (fun y => older y && hits y) && m.vu.sq.all (fun y => older y || !hits y)
    && m.su.stores.all (fun x => !(stashWords x.tgt x.n).contains w)

/-- The first lane that would read at its port a word with its pending bit set, in debug mode (R129): the word's address. A load that a
mark delays reads after the stores before the mark (R130, R223). -/
def State.pendLane (s : State) (t : TileId) (l : List LaneAcc) : Option W64 :=
  let m := (s.tile t).m
  if !(s.tile t).dbg.dm then none
  else (l.find? (fun a => match a.tgt with
    | .own off => m.pendNext.contains (off / 8) && !m.markCovers (off / 8)
    | .pa _ _ => false)).map (fun a => a.va &&& ~~~(7 : W64))

/-- The checks of R240 on the lanes of a word: alignment, then routing and translation. DESIGN CHOICE (log 89): of several lanes that
fail one check TVAL names the first in increasing order; `vupd` has all its reads tested before any write. -/
def State.vecCheck (s : State) (t : TileId) (kind : AccKind) (align : Nat) (l : List (Nat × W64)) :
    State × Except VStop (List LaneAcc) :=
  match l.find? (fun a => a.2.toNat % align ≠ 0) with
  | some a => (s, .error (.trap 0x02 a.2))
  | none =>
    let r := s.routeLanes t kind l
    match r.2 with
    | .ok x => (r.1, .ok x)
    | .error e => (r.1, .error (.fault e))

/-- A vector entry as it stands at issue. -/
def Member.newEntry (m : Member) (kind : VKind) (dst : DbgReg) (mask : W4096) (lanes : List LaneAcc)
    (writes : List (Target × W64 × List Byte)) (busy : Nat) : VEntry :=
  { id := m.su.nextId, kind, dst, mask, lanes, rest := (match kind with | .store _ => [] | .load _ | .kload | .update _ _ => lanes),
    codes := [], data := 0, writes, issued := m.ctr.cycle, busy, sent := none, read := false, due := none, hit := false,
    seq := m.blockSeq, arr := 0 }

/-- An entry joins the load queue (R221). -/
def Member.pushLoad (m : Member) (x : VEntry) : Member :=
  { m with vu := { m.vu with lq := m.vu.lq ++ [x] }, su := { m.su with nextId := m.su.nextId + 1 } }

/-- An entry joins the store queue (R221). -/
def Member.pushStore (m : Member) (x : VEntry) : Member :=
  { m with vu := { m.vu with sq := m.vu.sq ++ [x] }, su := { m.su with nextId := m.su.nextId + 1 } }

/-- The shape of a vector load: the queue, the checks, the entry. -/
def State.vloadS (s : State) (i : Instr) (kind : VKind) (dst : DbgReg) (align : Nat) (addrs : Member → List (Nat × W64))
    (mask : Member → W4096) (busy : List LaneAcc → Nat) : State :=
  s.issueV i (fun st =>
    let t := st.cur
    let m := (st.tile t).m
    if 16 ≤ m.vu.loadsHeld then (st, some .hold)
    else
      let r := st.vecCheck t .read align (addrs m)
      match r.2 with
      | .error e => (r.1, some e)
      | .ok l =>
        match r.1.pendLane t l with
        | some va => (r.1, some (.trap 0x0E va))
        | none => (r.1.modM t (fun m => (m.pushLoad (m.newEntry kind dst (mask m) l [] (busy l))).vNext), none))

/-- The shape of a vector store: its data is read at issue. -/
def State.vstoreS (s : State) (i : Instr) (conv : Conv) (v : VReg) (addrs : Member → List (Nat × W64))
    (busy : List LaneAcc → Nat) : State :=
  s.issueV i (fun st =>
    let t := st.cur
    let m := (st.tile t).m
    if 16 ≤ m.vu.storesHeld then (st, some .hold)
    else
      let r := st.vecCheck t .write (convSize conv) (addrs m)
      match r.2 with
      | .error e => (r.1, some e)
      | .ok l =>
        let ws := l.map (fun a => (a.tgt, a.va, bytesOfNat (convSize conv) (narrow conv (lane32 (m.vreg v) a.lane))))
        (r.1.modM t (fun m => (m.pushStore (m.newEntry (.store conv) (.v v) 0 [] ws (busy l))).vNext), none))

/-- Consecutive lane addresses (R239). -/
def lineAddrs (m : Member) (kb pm : PReg) (off : W32) (z : Nat) : List (Nat × W64) :=
  (activeLanes (m.preg pm)).map (fun i => (i, m.kreg kb + off.signExtend 64 + BitVec.ofNat 64 (z * i)))

/-- Indexed lane addresses (R241). -/
def indexAddrs (m : Member) (kc pm : PReg) (va : VReg) : List (Nat × W64) :=
  (activeLanes (m.preg pm)).map (fun i => (i, m.kreg kc + (lane32 (m.vreg va) i).setWidth 64))

/-- The largest number of stash lanes in one bank, and at least 1 (R242). -/
def bankLoad (l : List LaneAcc) : Nat :=
  let own := l.filter (fun a => match a.tgt with | .own _ => true | .pa _ _ => false)
  (List.range 32).foldl (fun n b => max n (own.filter (fun a => a.va.toNat / 64 % 32 == b)).length) 1

/-- `vld` (R239). -/
def execVld (conv : Conv) (v : VReg) (kb pm : PReg) (off : W32) (s : State) : Ans :=
  .next (s.vloadS (.vld conv v kb pm off) (.load conv) (.v v) (convSize conv) (fun m => lineAddrs m kb pm off (convSize conv))
    (fun m => maskOf .f32 (m.preg pm)) (fun _ => 1))
/-- `vst` (R239). -/
def execVst (conv : Conv) (v : VReg) (kb pm : PReg) (off : W32) (s : State) : Ans :=
  .next (s.vstoreS (.vst conv v kb pm off) conv v (fun m => lineAddrs m kb pm off (convSize conv)) (fun _ => 1))
/-- `vldx` (R241, R242). -/
def execVldx (conv : Conv) (v a : VReg) (kc pm : PReg) (s : State) : Ans :=
  .next (s.vloadS (.vldx conv v a kc pm) (.load conv) (.v v) (convSize conv) (fun m => indexAddrs m kc pm a)
    (fun m => maskOf .f32 (m.preg pm)) bankLoad)
/-- `vstx` (R241, R242). -/
def execVstx (conv : Conv) (v a : VReg) (kc pm : PReg) (s : State) : Ans :=
  .next (s.vstoreS (.vstx conv v a kc pm) conv v (fun m => indexAddrs m kc pm a) bankLoad)
/-- `kld` (R246). -/
def execKld (d a : PReg) (off : W32) (s : State) : Ans :=
  .next (s.vloadS (.kld d a off) .kload (.k d) 8 (fun m => [(0, m.kreg a + off.signExtend 64)]) (fun _ => fullMask (.k d))
    (fun _ => 1))

/-- The addresses of an update's record (R244): w of lane i at i, m at i + 128, v at i + 256. -/
def updAddrs (m : Member) (kc pm : PReg) : List (Nat × W64) :=
  let s := m.kreg kc
  ((activeLanes (m.preg pm)).map (fun i =>
    [(i, s + BitVec.ofNat 64 (4 * i)), (i + 128, s + BitVec.ofNat 64 (512 + 4 * i)),
      (i + 256, s + BitVec.ofNat 64 (1024 + 4 * i))])).flatten

/-- `vupd` (R244, R245): it needs a place in both queues, and translates its reads and the writes of the lanes that it will
write before anything is written. -/
def execVupd (d a b : VReg) (kc pm : PReg) (s : State) : Ans :=
  .next (s.issueV (.vupd d a b kc pm) (fun st =>
    let t := st.cur
    let m := (st.tile t).m
    let g := m.vreg a
    if 16 ≤ m.vu.loadsHeld ∨ 16 ≤ m.vu.storesHeld then (st, some .hold)
    else if (m.kreg kc).toNat % 64 ≠ 0 then (st, some (.trap 0x02 (m.kreg kc)))
    else
      let r := st.vecCheck t .read 4 (updAddrs m kc pm)
      match r.2 with
      | .error e => (r.1, some e)
      | .ok l =>
        let wr := (updAddrs m kc pm).filter (fun x => (valOf fp32 (lane32 g (x.1 % 128)).toNat).isFinite)
        let w := r.1.vecCheck t .write 4 wr
        match w.2 with
        | .error e => (w.1, some e)
        | .ok _ =>
          match w.1.pendLane t l with
          | some va => (w.1, some (.trap 0x0E va))
          | none =>
            (w.1.modM t (fun m =>
              (m.pushStore (m.newEntry (.update g (m.vreg b)) (.v d) (maskOf .f32 (m.preg pm)) l [] 1)).vNext), none)))

end Sys2Proof.Machine
end

