-- ==== Sys2Proof/Machine/TileEvents.lean ====
section
/-! DEFINITION. Steps of one tile that no word encodes: a push that waited, flips, landings, mailbox writes, stash lines,
trap entry and words that encode nothing. A step whose condition does not hold leaves the state as it is. -/

namespace Sys2Proof.Machine

/-! ### Pushes and flips -/

/-- QUEUED_PUSH (R70): a push that waited for space takes place once its queue has a free entry. -/
def execQueuedPush (t : TileId) (s : State) : Ans :=
  .next (match (s.tile t).m.su.wait with
    | .again i =>
      (match cmdHead i with
      | some (h, q) => if (s.tile t).mayGo && decide (s.qUsed t q < qCap q) then { s with cur := t }.pushS i h q else s
      | none => s)
    | .no | .drain .. | .waita .. | .barWait .. | .acq .. | .trap .. | .eret _ | .retired => s)

/-- A flip of a domain waits. -/
def Member.flipping (m : Member) (d : Dom) : Bool :=
  match d with
  | .steering => m.su.flip
  | .vector => m.vu.flip

/-- FLIP_EXCHANGE (R168): the cycle at whose end the exchange takes place ends. -/
def execFlipExchange (t : TileId) (d : Dom) (s : State) : Ans :=
  .next (
    let s1 := s.closeCycle t
    if (s.tile t).clocked && s.cycleOver t && (s.tile t).m.flipping d && !(s1.tile t).m.flipping d then s1 else s)

/-- SLOW_WRITE_LANDS (R164): the cycle at whose end a slow write of bounded time lands ends. -/
def execSlowWriteLands (t : TileId) (s : State) : Ans :=
  .next (
    let m := (s.tile t).m
    if (s.tile t).clocked && s.cycleOver t && m.su.slow.any (fun w => decide (w.due ≤ m.ctr.cycle)) then s.closeCycle t else s)

/-! ### Landings with no bound in cycles -/

/-- A steering load with no bound reads its data and lands (R189), or a pending word takes its place (R129). The result of a task
instruction enters the replay log as it lands (R397). -/
def State.looseLoad (s : State) (t : TileId) (x : SuLoad) : State :=
  match x.got, x.port with
  | some (v, p, due), _ => if noBound ≤ due then (s.logReplay t (.value (v.setWidth 64))).landLoad t x v p else s
  | none, some _ => s
  | none, none =>
    let r := s.readLoad t x
    match r.2 with
    | .ok v => (r.1.logRead t x.va x.tgt).landLoad t x v false
    | .poison => r.1.landLoad t x 0 true
    | .pending => r.1.pendLoad t x
    | .wait | .dropped => r.1

/-- SU_LOAD_LANDS (R189, R192, R209). -/
def execSuLoadLands (t : TileId) (k : Nat) (s : State) : Ans :=
  .next (match (s.tile t).m.su.loads[k]? with
    | some x => s.looseLoad t x
    | none => s)

/-- SU_STORE_LANDS (R190, R192): a store that has no bound in cycles. -/
def execSuStoreLands (t : TileId) (k : Nat) (s : State) : Ans :=
  .next (match (s.tile t).m.su.stores[k]? with
    | some x => if x.due.isNone then s.landStore t x else s
    | none => s)

/-- VECTOR_QUEUE_SEND (R221 to R223): a queue sends its next entry in this cycle. -/
def execVectorQueueSend (t : TileId) (store : Bool) (s : State) : Ans :=
  .next (if (s.tile t).clocked then s.sendQueue t store else s)

/-- A sent vector entry reads and writes what has no bound in cycles, and lands once nothing of it is left (R217, R221, R421). -/
def State.looseEntry (s : State) (t : TileId) (x : VEntry) : State :=
  if x.sent.isNone then s
  else s.landEntry t x (fun _ => true) (if x.early (s.tile t).m.ctr.cycle then Target.leaves else fun _ => true)

/-- VU_LOAD_LANDS (R217, R240, R421). -/
def execVuLoadLands (t : TileId) (k : Nat) (s : State) : Ans :=
  .next (match (s.tile t).m.vu.lq[k]? with
    | some x => s.looseEntry t x
    | none => s)

/-- VU_STORE_LANDS (R221, R240, R245, R421). -/
def execVuStoreLands (t : TileId) (k : Nat) (s : State) : Ans :=
  .next (match (s.tile t).m.vu.sq[k]? with
    | some x => s.looseEntry t x
    | none => s)

/-! ### Mailboxes (R166, R167) -/

/-- MAILBOX_OUTSIDE_WRITE (R166): the writes at some places of the queue land together, in the order of R166; one whose source
comes before that of a write that has landed in this cycle stays for the next one. They stand before the current cycle, so an
exchange at the end of this cycle takes them (R167). -/
def execMailboxOutsideWrite (t : TileId) (ks : List Nat) (s : State) : Ans :=
  .next (
    let q := (s.tile t).m.mbq
    let now := fun (k : Nat) (w : MbWrite) => ks.contains k && decide ((s.tile t).m.su.mbRank ≤ w.rank)
    let ws := (List.range q.length).filterMap (fun k => q[k]?.bind (fun w => if now k w then some w else none))
    let rest := (List.range q.length).filterMap (fun k => q[k]?.bind (fun w => if now k w then none else some w))
    (s.modM t (fun m => { m with mbq := rest })).landMail t ws)

/-! ### Stash lines (R83, R116, R122) -/

/-- The virtual address of a stash offset of a range that is not free (R112). -/
def Stash.vaOf (x : Stash) (off : Nat) : Option Nat :=
  (x.map.toList.find? (fun e => e.st != .free && decide (e.soff.toNat * 4096 ≤ off)
      && decide (off < e.soff.toNat * 4096 + e.size))).map (fun e => e.va + (off - e.soff.toNat * 4096))

/-- The four reads of a fill enter the replay log (R397). -/
def State.logFill (s : State) (t : TileId) (l a : Nat) : State :=
  let va := ((s.tile t).m.stash.vaOf (l * 256)).getD 0
  (List.range 4).foldl (fun st k =>
    st.logReplay t (.read (BitVec.ofNat 64 (va + 64 * k)) (bytesAt s.mem (a + 64 * k) 64))) s

/-- STASH_FILL_COMPLETE (R116, R117): the data comes from outside (R397), and the accesses held on the line are applied. -/
def execStashFillComplete (t : TileId) (line : BitVec 14) (s : State) : Ans :=
  .next (
    let x := (s.tile t).m.stash
    match (x.line line.toNat).fill, x.paOf (line.toNat * 256) with
    | .filling, some a => (s.logFill t line.toNat a).fillDone t line.toNat
    | _, _ => s)

/-- STASH_SHADOWING (R122): a READY line with D = 1 or I = 1 is written back, unless the ceiling holds the write (R390), and both
bits clear. -/
def execStashShadowing (t : TileId) (line : BitVec 14) (s : State) : Ans :=
  .next (
    let x := (s.tile t).m.stash
    let l := x.line line.toNat
    match x.paOf (line.toNat * 256) with
    | some a => if (l.d || l.i) && !s.ceilHolds a then s.writeBack t line.toNat true else s
    | none => s)

/-- The slice of a line, with its die (R110). -/
def lineSlice (line : Nat) : DieId × Nat := (dieOfPa (line * 64), sliceOf (line * 64))

/-- LINE_MOVE (R83): a line of DRAM passes between its shelf and its L2 slice, which holds 256 KiB of lines (R110). A
read-modify-write is one step, so none is in progress. -/
def execLineMove (line : Nat) (s : State) : Ans :=
  .next (
    let l2 := s.ms.l2
    if regionOf (line * 64) ≠ .dram then s
    else if l2.contains line then { s with ms := { s.ms with l2 := l2.erase line } }
    else if (s.ownerOf (line * 64)).isSome || decide (4096 ≤ (l2.filter (fun k => lineSlice k == lineSlice line)).length) then s
    else { s with ms := { s.ms with l2 := l2 ++ [line] } })

/-! ### Traps -/

/-- TRAP_ENTRY (R380, R381): the drained trap is entered, or the one report that a boundary takes. -/
def execTrapEntry (t : TileId) (s : State) : Ans :=
  .next (
    let m := (s.tile t).m
    if !(s.tile t).suLive then s
    else
      match m.su.wait with
      | .trap r tpc => if s.trapReady t then s.takeTrap t r tpc else s
      | .no | .again _ | .drain .. | .waita .. | .barWait .. | .acq .. | .eret _ | .retired =>
        if m.su.wait.boundary && !m.su.inHandler && !m.rep.preempt && !(s.tile t).dbg.hreq && !(s.tile t).dbgFirst then
          (match m.nextReport with
          | some (r, rep) => (s.modM t (fun m => { m with rep := rep })).takeTrap t r m.su.pc
          | none => s)
        else s)

/-- WORD_ENCODING_NOTHING (R67, R68): ILLEGAL_ENCODING at a steering or vector word, CMD_ERROR at a command. -/
def execWordEncodingNothing (w : BadWord) (s : State) : Ans :=
  .next (
    let x := s.tile s.cur
    match w with
    | .su v => if x.beforeWord && x.m.fetchSu == .bad w then s.raise (illegal (v.setWidth 64)) else s
    | .cmd v reason =>
      if x.beforeWord && x.m.fetchSu == .bad w then
        s.raise (suReport 0x06 (reason.setWidth 8) ((v.setWidth 64 <<< 32) ||| reason.setWidth 64))
      else s
    | .vu v =>
      if x.suLive && x.m.vu.cmd.isSome && x.m.vu.halted.isNone && !x.m.vu.flip && !x.m.vu.vending
          && decide (x.m.vu.ready ≤ x.m.ctr.cycle) && x.m.fetchVu == .bad w then
        s.vecTrap s.cur 0x01 0 v
      else s)

end Sys2Proof.Machine
end

