-- ==== Sys2Proof/Machine/MatrixUnit.lean ====
section
/-! DEFINITION. The matrix unit: the start of a command, its steps one group, row or column at a time, and its completion
(R248 to R267). -/

namespace Sys2Proof.Machine

/-! ### Slots and panels (R142, R252, R259) -/

/-- The accumulator slot that a matrix-unit command names (R250). -/
def slotOf : Instr → Option (BitVec 3)
  | .mma _ a _ _ _ _ _ | .mmaSp _ a _ _ _ _ _ | .aclr _ a | .ainit _ a _ | .adrain _ a _ _ _ | .adrainMx _ a _ _ _ => some a
  | _ => none

/-- The matrix unit owns a slot (R142). -/
def Member.muOwns (m : Member) (n : BitVec 3) : Bool :=
  match m.mu with
  | some r => r.owns && slotOf r.cmd.op == some n
  | none => false

/-- A channel of the copy unit owns a slot (R142). -/
def Member.cuOwns (m : Member) (n : BitVec 3) : Bool := m.ch.toList.any (fun c => c.runs.any (fun r => r.slot == some n))

/-- An element of a slot. -/
def accKey (slot : BitVec 3) (i n : Nat) : Nat := slot.toNat * 32768 + i * 256 + n

/-- An accumulator element. -/
def Member.accAt (m : Member) (slot : BitVec 3) (i n : Nat) : W32 := SMap.get 0 m.acc (accKey slot i n)

/-- Writes an accumulator element. -/
def Member.accSet (m : Member) (slot : BitVec 3) (i n : Nat) (v : W32) : Member := m.accPut (accKey slot i n) v

/-- Changes the running command of the matrix unit. -/
def State.modMu (s : State) (t : TileId) (f : MuRun → MuRun) : State := s.modM t (fun m => { m with mu := m.mu.map f })

/-- The matrix unit halts at its command with an engine fault; its time is then no longer bounded. -/
def State.muFault (s : State) (t : TileId) (r : Report) (f : MuRun → MuRun) : State :=
  (s.modMu t (fun x => { f x with halted := true, doneAt := none })).engineFault t r

/-- A matrix-unit fault of a command. -/
def muReport (c : Cmd) (code reason : BitVec 8) (kind : BitVec 2) (tval : W64) : Report :=
  engineReport code c.seq 0 2 kind reason tval

/-- CMD_ERROR found by the matrix unit (R425): its word and reason 5 (DEDUCED, log 39). -/
def muCmdError (c : Cmd) : Report := muReport c 0x06 5 0 (cmdError c.op 5).tval

/-- The panel that an `mma` uses (R259). -/
def Member.panelOf (m : Member) (c : Cmd) (tdx : TdIx) : Option Panel :=
  m.wb.toList.find? (fun p => p.tag.valid && p.tag.tdx == tdx && p.tag.gen == (tdOf c.d1).gen && p.tag.asid == c.asid)

/-- M and K of an A operand (R256). -/
def mmaM (a : Td) (ta : Bool) : Nat := a.extent (if ta then 0 else 1)
/-- K of an A operand (R256). -/
def mmaK (a : Td) (ta : Bool) : Nat := a.extent (if ta then 1 else 0)
/-- The index tuple of element (m, k) of A (R256). -/
def mmaIx (ta : Bool) (i k : Nat) : List Nat := if ta then [i, k, 0, 0] else [k, i, 0, 0]

/-- The panel of an `mma` after the checks at its start, or none: a CMD_ERROR (R259). -/
def Member.mmaPanel (m : Member) (c : Cmd) (tdb : TdIx) (ta sp : Bool) : Option Panel :=
  match m.panelOf c tdb with
  | some p => if p.tag.sp == sp && p.tag.km1.toNat + 1 == mmaK (tdOf c.d0) ta then some p else none
  | none => none

/-- The panel that a command's start checks; the outer Option is none where it is not an `mma`. -/
def Member.startPanel (m : Member) (c : Cmd) : Option (Option Panel) :=
  match c.op with
  | .mma _ _ _ tdb _ ta _ => some (m.mmaPanel c tdb ta false)
  | .mmaSp _ _ _ tdb _ ta _ => some (m.mmaPanel c tdb ta true)
  | _ => none

/-! ### Exact arithmetic (R260) -/

/-- prod of R260. -/
def mProd (a b : FVal) : FVal :=
  if a.isNan || b.isNan then .nan
  else match a, b with
    | .zero _, _ | _, .zero _ => .zero false
    | _, _ => a.mul b

/-- The value is an infinity. -/
def FVal.isInf : FVal → Bool
  | .inf _ => true
  | .nan | .zero _ | .num _ _ _ => false

/-- gsum of R260 over the products in increasing k. -/
def gsum (ps : List FVal) (sat : Bool) : FVal :=
  if ps.any (fun p => p.isNan) then .nan
  else match ps.find? (fun p => p.isInf) with
    | some p => p
    | none => valOf fp32 (cvt (ps.foldl (fun a p => a.add p) (.zero false)) fp32 .rne sat)

/-- accum of R260, as an FP32 code. -/
def accum (old x : FVal) (sat : Bool) : W32 :=
  BitVec.ofNat 32
    (if old.isNan || x.isNan then cvt .nan fp32 .rne false
    else if old.isInf then cvt old fp32 .rne false
    else if x.isInf then cvt x fp32 .rne false
    else cvt (old.add x) fp32 .rne sat)

/-- The value of a panel element with its scale (R252, R259). -/
def Panel.value (p : Panel) (k n : Nat) : FVal :=
  let f := (fmtOfBits (p.tag.dfmt.extractLsb' 0 21)).getD fp32
  let blkl := fld p.tag.dfmt 23 4
  scaledVal f (fld p.tag.dfmt 21 2 == 1) (SMap.get 0 p.elems (k * 256 + n)).toNat (SMap.get 0 p.scales (k / 2 ^ blkl * 256 + n))

/-! ### Reading A through the operand cache (R256, R257) -/

/-- The tag of the 64-byte unit that a word of the operand cache belongs to (R256, R257). -/
def OcWord.unit (o : OcWord) : BitVec 12 × TdIx × W32 × Nat := (o.asid, o.tdx, o.gen, o.word / 8)

/-- The operand cache keeps a word that an `mma` read (R257): every one that differs from those it holds under the same tag. It
holds 64 KiB, 1,024 units (R39): a unit that finds none free takes the place of one that a free value chooses. -/
def State.ocPut (s : State) (t : TileId) (o : OcWord) : State :=
  let l := (s.tile t).oc
  let units := (l.map OcWord.unit).eraseDups
  if l.any (fun x => x.unit == o.unit && x.word == o.word && x.data == o.data) then s
  else if units.contains o.unit || decide (units.length < 1024) then s.modTile t (fun x => { x with oc := o :: x.oc })
  else
    let f := s.tickFree
    let out := units[(Config.freeWord f.1).toNat % 1024]?
    f.2.modTile t (fun x => { x with oc := o :: x.oc.filter (fun y => some y.unit != out) })

/-- A choice between memory, 0, and the cached words, from 1 on. -/
def pickWord (free n : Nat) : Nat := (Config.freeWord free).toNat % (n + 1)

/-- One aligned word of A (R257): where it leaves the stash, the word in memory, or one that an earlier `mma` read for it under the
same tag. A free value chooses. -/
def State.muWord (s : State) (t : TileId) (c : Cmd) (tdx : TdIx) (w : Nat) : State × Eng Nat :=
  let gen := (tdOf c.d0).gen
  let va := BitVec.ofNat 64 (8 * w)
  let x := s.engTarget t .mu c.asid va .read
  match x.2 with
  | .ok (.own off) =>
    let r := x.1.engReadAt t .mu va (.own off) 8
    (r.1, match r.2 with
      | .ok bs => .ok (natOfBytes bs)
      | .wait => .wait | .dropped => .dropped | .fault a b k v => .fault a b k v)
  | .ok (.pa a mt) =>
    let old := (x.1.tile t).oc.filter (fun o => o.asid == c.asid && o.tdx == tdx && o.gen == gen && o.word == w && o.seq != c.seq)
    let fresh := fun (st : State) =>
      let r := st.engReadAt t .mu va (.pa a mt) 8
      (match r.2 with
      | .ok bs => (r.1.ocPut t ⟨c.asid, tdx, gen, w, BitVec.ofNat 64 (natOfBytes bs), c.seq⟩, Eng.ok (natOfBytes bs))
      | .wait => (r.1, .wait) | .dropped => (r.1, .dropped) | .fault a b k v => (r.1, .fault a b k v))
    if old.isEmpty then fresh x.1
    else
      let f := x.1.tickFree
      match old[pickWord f.1 old.length - 1]?, pickWord f.1 old.length with
      | some o, _ + 1 => (f.2, .ok o.data.toNat)
      | _, _ => fresh f.2
  | .wait => (x.1, .wait)
  | .dropped => (x.1, .dropped)
  | .fault a b k v => (x.1, .fault a b k v)

/-- The words of A that a group needs. -/
def State.muWords (s : State) (t : TileId) (c : Cmd) (tdx : TdIx) : List Nat → State × Eng (SMap Nat)
  | [] => (s, .ok [])
  | w :: ws =>
    let r := s.muWord t c tdx w
    match r.2 with
    | .ok v =>
      let rest := State.muWords r.1 t c tdx ws
      (rest.1, match rest.2 with | .ok m => .ok (SMap.insert m w v) | other => other)
    | .wait => (r.1, .wait)
    | .dropped => (r.1, .dropped)
    | .fault a b k v => (r.1, .fault a b k v)

/-- Bytes at an address among words read. -/
def wordBytes (ws : SMap Nat) (va : W64) (n : Nat) : List Byte :=
  (List.range n).map (fun i =>
    let a := va.toNat + i
    BitVec.ofNat 8 (SMap.get 0 ws (a / 8) / 2 ^ (8 * (a % 8))))

/-- The aligned words that bytes of an address lie in. -/
def wordsOfPlace (p : W64 × Nat) : List Nat := (pieces (p.2 + 1) p.1 p.2).map (fun q => q.1.toNat / 8)

/-- The words of A that the elements (m, k) of some k touch, with their scale bytes. -/
def aWords (a : Td) (ta : Bool) (ks : List Nat) : List Nat :=
  ((List.range (mmaM a ta)).flatMap (fun i => ks.flatMap (fun k =>
    let ix := mmaIx ta i k
    wordsOfPlace (a.place ix) ++ (if a.scaled then [(a.scaleAddr ix).toNat / 8] else [])))).eraseDups

/-- The value of an element of A among words read (R259). -/
def aValue (a : Td) (ta : Bool) (ws : SMap Nat) (i k : Nat) : FVal :=
  let ix := mmaIx ta i k
  let p := a.place ix
  scaledVal a.fmt a.scaled (a.codeIn ix (wordBytes ws p.1 p.2)) ((wordBytes ws (a.scaleAddr ix) 1).headD 0)

/-- One group of an `mma` added to every output (R259): the members' accumulators. -/
def Member.mmaGroup (m : Member) (slot : BitVec 3) (p : Panel) (a : Td) (ws : SMap Nat) (ta sat fresh : Bool) (ks : List Nat) : Member :=
  (List.range (mmaM a ta)).foldl (fun (x : Member) i =>
    let av := ks.map (fun k => aValue a ta ws i k)
    (List.range (p.tag.nm1.toNat + 1)).foldl (fun (y : Member) n =>
      let g := gsum ((av.zip ks).map (fun e => mProd e.1 (p.value e.2 n))) sat
      let old := if fresh then FVal.zero false else v32 (y.accAt slot i n)
      y.accSet slot i n (accum old g sat)) x) m

/-- The k of one group. -/
def groupKs (kk g : Nat) : List Nat := (List.range (min 32 (kk - 32 * g))).map (fun j => 32 * g + j)

/-- A step meets a fault: the unit halts at this group or row, and `eret` goes on there (R251, R262). Where nothing has been
written yet a translation that fails has the command start again (R102). DEDUCED (log 91): a translation that a running command
loses between two groups or rows is no failure of R102's start, and no group or row is applied twice. -/
def State.stepFault (s : State) (t : TileId) (r : MuRun) (code reason : BitVec 8) (kind : BitVec 2) (va : W64) : State :=
  s.muFault t (muReport r.cmd code reason kind va)
    (fun x => if (code = 0x03 ∨ code = 0x04) ∧ r.next = 0 then { x with begun := false } else x)

/-- One step of an `mma` (R259, R262). -/
def State.mmaStep (s : State) (t : TileId) (r : MuRun) (slot : BitVec 3) (tda tdb : TdIx) (sat ta z sp : Bool) : State :=
  let c := r.cmd
  let a := tdOf c.d0
  let ks := groupKs (mmaK a ta) r.next
  let x := s.muWords t c tda (aWords a ta ks)
  match x.2, (s.tile t).m.mmaPanel c tdb ta sp with
  | .ok ws, some p =>
    (x.1.modM t (fun m => m.mmaGroup slot p a ws ta sat (z && r.next == 0) ks)).modMu t (fun y => { y with next := r.next + 1 })
  | .fault code q k va, _ => x.1.stepFault t r code q k va
  | .wait, _ | .dropped, _ | .ok _, none => x.1.modMu t (fun y => { y with doneAt := none })

/-! ### Loads of B (R253 to R255) -/

/-- Changes a panel. -/
def Member.modPanel (m : Member) (p : BitVec 3) (f : Panel → Panel) : Member :=
  { m with
    wb := m.wb.set (r3 p).val (f m.wb[(r3 p).val])
    dirty := { m.dirty with wb := addOnce m.dirty.wb (r3 p).val } }

/-- A fault stops a load: `eret` runs it again from its start (R254). -/
def State.loadFault (s : State) (t : TileId) (r : Report) : State :=
  s.muFault t r (fun x => { x with next := 0, pos := 0, begun := false })

/-- Reads the scale bytes of one row of a block-scaled descriptor (R200). -/
def State.engScales (s : State) (t : TileId) (asid : BitVec 12) (d : Td) (row : Nat) : List Nat → State × Eng (List Byte)
  | [] => (s, .ok [])
  | b :: bs =>
    let r := s.engRead t .mu asid (d.scaleAddr [b * 2 ^ d.blkl, row, 0, 0]) 1
    match r.2 with
    | .ok x =>
      let rest := State.engScales r.1 t asid d row bs
      (rest.1, match rest.2 with | .ok l => .ok (x ++ l) | other => other)
    | other => (r.1, other)

/-- The blocks of a row. -/
def Td.blocks (d : Td) : List Nat := if d.scaled then List.range (d.extent 0 / 2 ^ d.blkl) else []

/-- One row of a dense load (R253, R254): `kd` is the dimension of k. -/
def State.wloadRow (s : State) (t : TileId) (r : MuRun) (p : BitVec 3) (kd : Nat) : State :=
  let d := tdOf r.cmd.d0
  let row := r.next
  let is := List.range (d.extent 0)
  let x := s.engCodes t .mu r.cmd.asid d (is.map (fun i => [i, row, 0, 0]))
  match x.2 with
  | .ok codes =>
    let y := x.1.engScales t r.cmd.asid d row d.blocks
    (match y.2 with
    | .ok sc =>
      let key := fun (i : Nat) => if kd = 1 then row * 256 + i else i * 256 + row
      (y.1.modM t (fun m => m.modPanel p (fun w => { w with
        elems := (is.zip codes).foldl (fun e q => SMap.set 0 e (key q.1) (BitVec.ofNat 32 q.2)) w.elems
        scales := (d.blocks.zip sc).foldl (fun e q => SMap.set 0 e (q.1 * 256 + row) q.2) w.scales }))).modMu t
        (fun z => { z with next := row + 1 })
    | .fault code q k va => y.1.loadFault t (muReport r.cmd code q k va)
    | .wait | .dropped => y.1)
  | .fault code q k va => x.1.loadFault t (muReport r.cmd code q k va)
  | .wait | .dropped => x.1

/-- What the group records of a sparse column give (R255): its elements by k and the place after them, a broken stream, or
what stopped a read. -/
inductive SparseCol where
  | ok (es : List (Nat × Nat)) (pos : Nat)
  | broken
  | stop (e : Eng Unit)
  deriving DecidableEq, Repr

/-- The group records of one column from group `g` on (R255). -/
def State.sparseGroups (s : State) (t : TileId) (c : Cmd) (d : Td) (limit : Nat) : Nat → Nat → Nat → State × SparseCol
  | 0, _, pos => (s, .ok [] pos)
  | left + 1, g, pos =>
    let r := s.engRead t .mu c.asid (d.base + BitVec.ofNat 64 pos) 4
    match r.2 with
    | .ok mb =>
      let mask := natOfBytes mb
      let js := (List.range 32).filter (fun j => decide (mask / 2 ^ j % 2 = 1))
      let n := 4 * ((js.length * d.w + 31) / 32)
      if js.any (fun j => decide (d.extent 0 ≤ 32 * g + j)) || decide (limit < pos + 4 + n) then (r.1, .broken)
      else
        let q := r.1.engRead t .mu c.asid (d.base + BitVec.ofNat 64 (pos + 4)) n
        (match q.2 with
        | .ok bs =>
          let v := natOfBytes bs
          let es := (js.zip (List.range js.length)).map (fun e => (32 * g + e.1, v / 2 ^ (d.w * e.2) % 2 ^ d.w))
          let rest := State.sparseGroups q.1 t c d limit left (g + 1) (pos + 4 + n)
          (rest.1, match rest.2 with | .ok more p => .ok (es ++ more) p | other => other)
        | .wait => (q.1, .stop .wait)
        | .dropped => (q.1, .stop .dropped)
        | .fault a b k v => (q.1, .stop (.fault a b k v)))
    | .wait => (r.1, .stop .wait)
    | .dropped => (r.1, .stop .dropped)
    | .fault a b k v => (r.1, .stop (.fault a b k v))

/-- One column of a sparse load (R255). -/
def State.wloadSparse (s : State) (t : TileId) (r : MuRun) (p : BitVec 3) : State :=
  let d := tdOf r.cmd.d0
  let n := r.next
  let limit := 131072 - d.blocks.length * d.extent 1
  let x := s.sparseGroups t r.cmd d limit ((d.extent 0 + 31) / 32) 0 r.pos
  match x.2 with
  | .ok es pos =>
    let y := x.1.engScales t r.cmd.asid d n d.blocks
    (match y.2 with
    | .ok sc =>
      (y.1.modM t (fun m => m.modPanel p (fun w => { w with
        elems := es.foldl (fun e q => SMap.set 0 e (q.1 * 256 + n) (BitVec.ofNat 32 q.2)) w.elems
        scales := (d.blocks.zip sc).foldl (fun e q => SMap.set 0 e (q.1 * 256 + n) q.2) w.scales }))).modMu t
        (fun z => { z with next := n + 1, pos := pos })
    | .fault code q k va => y.1.loadFault t (muReport r.cmd code q k va)
    | .wait | .dropped => y.1)
  | .broken => x.1.muFault t (muCmdError r.cmd) (fun z => { z with noEffect := true })
  | .stop (.fault code q k va) => x.1.loadFault t (muReport r.cmd code q k va)
  | .stop .wait | .stop .dropped | .stop (.ok ()) => x.1

/-- The tag of a completed load (R254). -/
def loadTag (c : Cmd) (tdx : TdIx) (kd : Nat) (sp : Bool) : PanelTag :=
  let d := tdOf c.d0
  ⟨d.gen, c.asid, tdx, BitVec.ofNat 13 (d.extent kd - 1), BitVec.ofNat 8 (d.extent (1 - kd) - 1), sp, true, d.dfmt⟩

/-- The completion of a load (R254): the tag, and every other panel of the same index, GEN and ASID becomes invalid. -/
def Member.loadDone (m : Member) (p : BitVec 3) (tag : PanelTag) : Member :=
  let wb := vmap m.wb (fun (w : Panel) =>
    if w.tag.valid && w.tag.tdx == tag.tdx && w.tag.gen == tag.gen && w.tag.asid == tag.asid then
      { w with tag := { w.tag with valid := false } } else w)
  { m with wb := wb }.modPanel p (fun w => { w with tag := tag })

/-! ### Slots (R263, R264) -/

/-- `aclr` (R263). -/
def Member.clearSlot (m : Member) (slot : BitVec 3) : Member :=
  { m with
    acc := m.acc.filter (fun e => !(e.1 / 32768 == slot.toNat))
    dirty := { m.dirty with acc := addOnce (addOnce m.dirty.acc (2 * slot.toNat)) (2 * slot.toNat + 1) } }

/-- One row of an `ainit` (R264). -/
def State.ainitRow (s : State) (t : TileId) (r : MuRun) (slot : BitVec 3) : State :=
  let d := tdOf r.cmd.d0
  let ns := List.range (d.extent 0)
  let x := s.engCodes t .mu r.cmd.asid d (ns.map (fun n => [n, r.next, 0, 0]))
  match x.2 with
  | .ok codes =>
    let rows := if d.ndim = 1 then List.range 128 else [r.next]
    (x.1.modM t (fun m => rows.foldl (fun (y : Member) i =>
      (ns.zip codes).foldl (fun (z : Member) e =>
        z.accSet slot i e.1 (BitVec.ofNat 32 (cvt (valOf d.fmt e.2) fp32 .rne false))) y) m)).modMu t
      (fun y => { y with next := r.next + 1 })
  | .fault code q k va => x.1.stepFault t r code q k va
  | .wait | .dropped => x.1

/-! ### The drain (R265, R266) -/

/-- emax(F) of R266. Where maxfin(F) is 0 (a mini-float with E = 1 and M = 0 of class IE or FN) the spec states no logarithm, and it is
a free value (log 92). -/
def emaxOf (f : NumFmt) : Int :=
  match f with
  | .fp _ e m _ c =>
    (match valOf f (maxfinCode e m c) with
    | .zero _ => Config.log2OfZero
    | x => x.log2)
  | .int _ _ => 0

/-- The scale code of a block (R266). -/
def mxScale (f : NumFmt) (xs : List FVal) : Nat :=
  let fin := xs.filter (fun x => match x with | .num _ _ _ => true | .nan | .inf _ | .zero _ => false)
  if xs.any (fun x => x.isInf) then 0xFE
  else match fin with
    | [] => 0
    | y :: ys => (min (max (ys.foldl (fun a x => max a x.log2) y.log2 - emaxOf f + 127) 0) 254).toNat

/-- The drain bank with one lane stepped, where the rounding is `sr`, and the 16 bits it gives (R203, R205). -/
def drainStep (sr : Bool) (bank : Vector W32 128) (k : Nat) : Vector W32 128 × Nat :=
  if sr then
    let g := genStep (bank[k % 128]'(Nat.mod_lt _ (by decide)))
    (bank.set (k % 128) g (Nat.mod_lt _ (by decide)), genBits g)
  else (bank, 0)

/-- The codes of a row's values in order, and the bank after them. -/
def drainCodes (d : Td) (k0 : Nat) (bank : Vector W32 128) (xs : List FVal) : List Nat × Vector W32 128 :=
  ((xs.zip (List.range xs.length)).foldl (fun (a : List Nat × Vector W32 128) e =>
    let b := drainStep (d.round == .sr) a.2 (k0 + e.2)
    (cvt e.1 d.fmt d.round d.sat b.2 :: a.1, b.1)) ([], bank)).map List.reverse id

/-- The writes of a row of element codes (R207, R265). -/
def rowWrites (d : Td) (row : Nat) (codes : List Nat) : List (W64 × List Byte) :=
  if d.w < 8 then
    let v := (codes.zip (List.range codes.length)).foldl (fun a e => a + e.1 % 2 ^ d.w * 2 ^ (d.w * e.2)) 0
    let bs := bytesOfNat (codes.length * d.w / 8) v
    (bs.zip (List.range bs.length)).map (fun e => (d.ea [0, row, 0, 0] + BitVec.ofNat 64 e.2, [e.1]))
  else
    (codes.zip (List.range codes.length)).map (fun e => (d.ea [e.2, row, 0, 0], bytesOfNat (d.w / 8) e.1))

/-- The scale codes and the scaled values of a row (R266). -/
def mxRow (d : Td) (xs : List FVal) : List Nat × List FVal :=
  let sz := 2 ^ d.blkl
  let scales := (List.range (xs.length / sz)).map (fun b => mxScale d.fmt ((xs.drop (b * sz)).take sz))
  let six : Int := match d.fmt with | .int _ _ => 6 | .fp .. => 0
  (scales, (xs.zip (List.range xs.length)).map (fun e => e.1.scale (127 - (scales.getD (e.2 / sz) 0 : Int) + six)))

/-- One row of a drain (R265, R266). -/
def State.drainRow (s : State) (t : TileId) (r : MuRun) (slot : BitVec 3) (tr clear mx : Bool) : State :=
  let d := tdOf r.cmd.d0
  let m := (s.tile t).m
  let o := r.next
  let cell := fun (i : Nat) => if tr then (i, o) else (o, i)
  let is := List.range (d.extent 0)
  let xs := is.map (fun i => v32 (m.accAt slot (cell i).1 (cell i).2))
  let sc := if mx then mxRow d xs else ([], xs)
  let cs := drainCodes d (o * d.extent 0) m.dbank sc.2
  let scaleW := (sc.1.zip (List.range sc.1.length)).map (fun e =>
    (d.scaleAddr [e.2 * 2 ^ d.blkl, o, 0, 0], [BitVec.ofNat 8 e.1]))
  let ws := scaleW ++ rowWrites d o cs.1
  let w := s.engWrites t .mu r.cmd.asid ws
  match w.2 with
  | .ok () | .dropped =>
    ((w.1.engRenew t .mu r.cmd.asid (ws.map (fun e => (e.1, e.2.length)))).modM t (fun m =>
      let m1 := { m with dbank := cs.2 }
      if clear then is.foldl (fun (y : Member) i => y.accSet slot (cell i).1 (cell i).2 0) m1 else m1)).modMu t
      (fun y => { y with next := o + 1 })
  | .fault code q k va => w.1.stepFault t r code q k va
  | .wait => w.1

/-! ### Start, steps and completion (R249) -/

/-- The number of steps of a matrix-unit command. -/
def muTotal (c : Cmd) : Nat :=
  let d := tdOf c.d0
  match c.op with
  | .mma _ _ _ _ _ ta _ | .mmaSp _ _ _ _ _ ta _ => (mmaK d ta + 31) / 32
  | .wload .. | .wloadT .. | .adrain .. | .adrainMx .. => d.extent 1
  | .ainit .. => if d.ndim = 1 then 1 else d.extent 1
  | .fenceOc _ => 0
  | _ => 1

/-- The addresses that a command translates before its first write (R102, R262, R264): the kind, and the bytes' places. DESIGN
CHOICE (log 109): they are tested in this order, elements before scale bytes except in a drain, so the first failing one stands
in TVAL. -/
def muPlaces (c : Cmd) : AccKind × List W64 :=
  let d := tdOf c.d0
  let elems := (List.range (d.extent 1)).flatMap (fun r => (List.range (d.extent 0)).flatMap (fun i =>
    let p := d.place [i, r, 0, 0]
    (pieces (p.2 + 1) p.1 p.2).map (fun q => q.1)))
  let scales := (List.range (d.extent 1)).flatMap (fun r => d.blocks.map (fun b => d.scaleAddr [b * 2 ^ d.blkl, r, 0, 0]))
  match c.op with
  | .mma .. | .mmaSp .. | .wload .. | .wloadT _ _ _ false => (.read, elems ++ scales)
  | .wloadT _ _ _ true => (.read, scales)
  | .ainit .. => (.read, elems)
  | .adrain .. | .adrainMx .. => (.write, scales ++ elems)
  | _ => (.read, [])

/-- The cycles of an `mma` after its first 24 (R248, R261). -/
def mmaCycles (c : Cmd) (ta : Bool) : Nat := (mmaK (tdOf c.d0) ta * (cmdRate c).getD 0 + 1) / 2

/-- The end of a command's time where its rule gives one (R258, R261, R263). `ready` tells that every A unit lies in the
own stash on a READY line. -/
def muDoneAt (c : Cmd) (start : Nat) (ready : Bool) : Option Nat :=
  match c.op with
  | .mma _ _ _ _ _ ta _ | .mmaSp _ _ _ _ _ ta _ => if ready then some (start + 24 + mmaCycles c ta) else none
  | .aclr .. => some (start + 31)
  | .fenceOc _ => some (start + 1)
  | _ => none

/-- The translations of a sparse stream before the panel is written (R102, R255): the masks are read, as they tell where the codes
lie. A stream that breaks R255 ends the pass; its step finds that again. -/
def State.sparseScan (s : State) (t : TileId) (c : Cmd) (d : Td) (limit gs : Nat) : Nat → Nat → State × Eng Unit
  | 0, _ => (s, .ok ())
  | left + 1, pos =>
    let r := s.engRead t .mu c.asid (d.base + BitVec.ofNat 64 pos) 4
    match r.2 with
    | .ok mb =>
      let g := (gs - (left + 1) % gs) % gs
      let js := (List.range 32).filter (fun j => decide (natOfBytes mb / 2 ^ j % 2 = 1))
      let n := 4 * ((js.length * d.w + 31) / 32)
      if js.any (fun j => decide (d.extent 0 ≤ 32 * g + j)) || decide (limit < pos + 4 + n) then (r.1, .ok ())
      else
        let x := r.1.engTranslate t .mu c.asid .read ((pieces (n + 1) (d.base + BitVec.ofNat 64 (pos + 4)) n).map (fun p => p.1))
        (match x.2 with
        | .ok _ => State.sparseScan x.1 t c d limit gs left (pos + 4 + n)
        | .wait => (x.1, .wait)
        | .dropped => (x.1, .dropped)
        | .fault a b k v => (x.1, .fault a b k v))
    | .wait => (r.1, .wait)
    | .dropped => (r.1, .dropped)
    | .fault a b k v => (r.1, .fault a b k v)

/-- The translations that only the data of a command tell (R102): those of a sparse stream. -/
def State.muScan (s : State) (t : TileId) (c : Cmd) : State × Eng Unit :=
  match c.op with
  | .wloadT _ _ _ true =>
    let d := tdOf c.d0
    let gs := (d.extent 0 + 31) / 32
    s.sparseScan t c d (131072 - d.blocks.length * d.extent 1) gs (gs * d.extent 1) 0
  | _ => (s, .ok ())

/-- What the start of a load or a drain does once its checks have passed (R205, R254). -/
def Member.muPrepare (m : Member) (c : Cmd) : Member :=
  match c.op with
  | .wload _ p _ | .wloadT _ p _ _ => m.modPanel p (fun w => { w with tag := { w.tag with valid := false }, elems := [], scales := [] })
  | .adrain .. | .adrainMx .. =>
    let d := tdOf c.d0
    if d.round == .sr then { m with dbank := bankSeed (d.seed ^^^ c.seq.setWidth 32) } else m
  | _ => m

/-- The start of the running command, and each retry of it (R142, R249, R259, R262): its checks, its slot, its
translations. -/
def State.muBegin (s : State) (t : TileId) (r : MuRun) : State :=
  let m := (s.tile t).m
  let c := r.cmd
  if m.startPanel c = some none then
    s.muFault t (muCmdError c) (fun x => { x with
      noEffect := true, owns := match slotOf c.op with | some n => !m.cuOwns n | none => false })
  else
    match (slotOf c.op).filter (fun n => !r.owns && m.cuOwns n) with
    | some n => s.muFault t (muReport c 0x0B 0 0 (n.setWidth 64)) id
    | none =>
      let s1 := s.modM t (fun m => m.muPrepare c)
      let pl := muPlaces c
      let x := s1.engTranslate t .mu c.asid pl.1 pl.2
      match x.2 with
      | .ok ready =>
        let y := x.1.muScan t c
        (match y.2 with
        | .ok () => y.1.modMu t (fun y => { y with
            owns := true, begun := true, start := m.ctr.cycle, doneAt := muDoneAt c m.ctr.cycle ready })
        | .fault code q k va => y.1.muFault t (muReport c code q k va) (fun y => { y with owns := true })
        | .wait | .dropped => y.1)
      | .fault code q k va => x.1.muFault t (muReport c code q k va) (fun y => { y with owns := true })
      | .wait | .dropped => x.1

/-- A matrix-unit command starts at the head of its queue (R249). -/
def State.muStart (s : State) (t : TileId) (c : Cmd) : State :=
  let r : MuRun := ⟨c, (s.tile t).m.ctr.cycle, 0, false, false, none, false, false, muTotal c, 0⟩
  (s.modM t (fun m => { m with mu := some r })).muBegin t r

/-- One step of the running command (R249). -/
def State.muStep (s : State) (t : TileId) : State :=
  match (s.tile t).m.mu with
  | some r =>
    if r.halted || r.noEffect || !r.begun || decide (r.total ≤ r.next) then s
    else
      match r.cmd.op with
      | .mma _ acc a b sat ta z => s.mmaStep t r acc a b sat ta z false
      | .mmaSp _ acc a b sat ta z => s.mmaStep t r acc a b sat ta z true
      | .wload _ p _ => s.wloadRow t r p 1
      | .wloadT _ p _ sp => if sp then s.wloadSparse t r p else s.wloadRow t r p 0
      | .aclr _ acc => (s.modM t (fun m => m.clearSlot acc)).modMu t (fun x => { x with next := 1 })
      | .ainit _ acc _ => s.ainitRow t r acc
      | .adrain _ acc _ tr cl => s.drainRow t r acc tr cl false
      | .adrainMx _ acc _ tr cl => s.drainRow t r acc tr cl true
      | _ => s
  | none => s

/-- The running command has done everything but complete. -/
def MuRun.finished (r : MuRun) (cycle : Nat) : Bool :=
  !r.halted && (r.noEffect || (r.begun && decide (r.total ≤ r.next) && (match r.doneAt with
    | some d => decide (d ≤ cycle)
    | none => true)))

/-- The completion of the running command (R249, R254, R258, R425), at the point that its rule gives; its post is a release of its
own (R273). -/
def State.muComplete (s : State) (t : TileId) : State :=
  let m := (s.tile t).m
  match m.mu with
  | some r =>
    if r.finished m.ctr.cycle then
      let s1 := s.modM t (fun x => { x with mu := none })
      let s2 :=
        if r.noEffect then s1
        else match r.cmd.op with
          | .wload _ p tdb => s1.modM t (fun x => x.loadDone p (loadTag r.cmd tdb 1 false))
          | .wloadT _ p tdb sp => s1.modM t (fun x => x.loadDone p (loadTag r.cmd tdb 0 sp))
          | .fenceOc _ => s1.modTile t (fun x => { x with oc := [] })
          | _ => s1
      s2.postDone t r.cmd 0
    else s
  | none => s

end Sys2Proof.Machine
end

