-- ==== Sys2Proof/Machine/CopyUnit.lean ====
section
/-! DEFINITION. The copy unit: channels, the accesses in flight, accumulation, atomics, the stash commands and the chain
walkers (R103, R113, R120, R121, R131 to R161, R325, R342, R422). -/

namespace Sys2Proof.Machine

/-! ### Channels and runs -/

/-- Changes a channel. -/
def Member.modCh (m : Member) (c : Fin 5) (f : Channel → Channel) : Member := { m with ch := m.ch.set c.val (f m.ch[c.val]) }

/-- Changes one run of a channel. -/
def Member.updRun (m : Member) (c : Fin 5) (k : Nat) (f : CuRun → CuRun) : Member :=
  m.modCh c (fun ch => { ch with runs := listMod ch.runs k f })

/-- A command has issued its last access and leaves the head (R132); a walker goes on to its next record (R160). -/
def Member.leave (m : Member) (c : Fin 5) (k : Nat) : Member :=
  m.modCh c (fun ch => { ch with
    runs := listMod ch.runs k (fun r => { r with issued := true })
    loadAt := match ch.runs[k]? with
      | some r => if r.recAddr.isSome && r.recNext != 0 then some r.recNext else ch.loadAt
      | none => ch.loadAt })

/-- The accesses that a flight stands for, or will: the read of a `cp.mc` becomes a write to each named tile (R131, R143). -/
def Flight.weight (f : Flight) (op : Instr) : Nat :=
  match f.stage, op with
  | .read, .cpMc _ _ _ _ mask => ((List.range 16).filter (fun j => mask.getLsbD j)).length
  | _, _ => 1

/-- The number of a tile's copy-unit accesses issued and not landed (R131). -/
def Member.inFlight (m : Member) : Nat :=
  m.ch.toList.foldl (fun n c => c.runs.foldl (fun k r => r.flights.foldl (fun a f => a + f.weight r.cmd.op) k) n) 0

/-- Replaces a flight by others. -/
def Member.setFlight (m : Member) (c : Fin 5) (i j : Nat) (fs : List Flight) : Member :=
  m.updRun c i (fun r => { r with flights := r.flights.take j ++ fs ++ r.flights.drop (j + 1) })

/-- Counts copy errors of `n` elements or entries (R150). DESIGN CHOICE (log 95): the address that the event holds is that of the first
one met, as accesses land or list entries are read, where the spec does not say which of them is the first. -/
def CuRun.copyError (r : CuRun) (n : Nat) (a : W64) : CuRun :=
  { r with errs := r.errs + n, errAddr := if r.errs = 0 then a else r.errAddr }

/-- A copy-unit fault of a command on a channel. -/
def cuReport (c : Cmd) (ch : Fin 5) (code reason : BitVec 8) (kind : BitVec 2) (tval : W64) : Report :=
  engineReport code c.seq (BitVec.ofNat 4 ch.val) 3 kind reason tval

/-- CMD_ERROR found by the copy unit (R425): its word and a reason (DEDUCED, log 39). -/
def cuCmdError (c : Cmd) (ch : Fin 5) (reason : BitVec 8) : Report := cuReport c ch 0x06 reason 0 (cmdError c.op reason).tval

/-- A run halts with an engine fault. -/
def State.haltRun (s : State) (t : TileId) (c : Fin 5) (k : Nat) (r : Report) (f : CuRun → CuRun) : State :=
  (s.modM t (fun m => m.updRun c k (fun x => { f x with halted := some r }))).engineFault t r

/-- A command error: the command halts with no effect (R425). -/
def State.cuBad (s : State) (t : TileId) (c : Fin 5) (k : Nat) (cmd : Cmd) : State :=
  s.haltRun t c k (cuCmdError cmd c 5) (fun x => { x with noEffect := true, flights := [] })

/-! ### Parked accesses (R103, R422) -/

/-- The parked accesses of a tile in order: lowest channel first, then element order; a record that a walker could not load comes
after the commands of its channel. -/
def Member.parkedList (m : Member) : List (BitVec 12 × Report) :=
  m.ch.toList.flatMap (fun ch => ch.runs.flatMap (fun r =>
    (r.flights.filterMap (fun f => f.parked) ++ r.halted.toList).map (fun p => (r.cmd.asid, p)))
    ++ ch.fault.toList.map (fun p => (ch.asid, p)))

/-- The one event of a copy-unit fault for poison (R78, R422). DEDUCED (log 42). -/
def State.cuPoison (s : State) (t : TileId) (asid : BitVec 12) (rep : Report) : State :=
  if rep.code = 0x05 then
    match (s.engTarget t .cu asid rep.tval .read).2 with
    | .ok tgt => s.logPoison (srcTile t) (s.paOfTarget t tgt)
    | .fault _ _ _ _ | .wait | .dropped => s
  else s

/-- An access parks. `mark` puts its report into the flight or the run. It joins a record of its ASID and granule; the tile
takes one fault, which reports the earliest access on the lowest channel. -/
def State.park (s : State) (t : TileId) (asid : BitVec 12) (rep : Report) (mark : Member → Member) : State :=
  let m := (s.tile t).m
  let joined := m.parkedList.any (fun p => p.1 == asid && p.2.code == rep.code && p.2.tval.toNat / 65536 == rep.tval.toNat / 65536)
  let same := fun (p : Report) => p.code == rep.code && p.cls == 3 && p.chan != 15
  let s1 := s.modM t mark
  let first := (((s1.tile t).m.parkedList.find? (fun p => p.2.code == rep.code)).map (fun p => p.2)).getD rep
  match m.rep.engine.find? (fun p => same p.2) with
  | some p => s1.modM t (fun m => { m with rep := { m.rep with
      engine := m.rep.engine.map (fun q => if q = p then (p.1, first) else q) } })
  | none => if joined then s1 else (s1.cuPoison t asid first).engineFault t first

/-- A flight parks. -/
def State.parkFlight (s : State) (t : TileId) (c : Fin 5) (i j : Nat) (r : CuRun) (f : Flight) (rep : Report) : State :=
  s.park t r.cmd.asid rep (fun m => m.setFlight c i j [{ f with parked := some rep }])

/-! ### Values -/

/-- The unit that `fill` writes (R144): the low bits of c.x, packed for a format below 8 bits. -/
def fillUnit (c : Cmd) (k : Nat) : W64 :=
  let d := tdOf c.d0
  if d.w < 8 then
    let b := k % (d.extent 0 * d.w / 8)
    BitVec.ofNat 64 ((List.range 8).foldl (fun a i => a + (c.x.getLsbD ((8 * b + i) % d.w)).toNat * 2 ^ i) 0)
  else c.x &&& BitVec.ofNat 64 (2 ^ d.w - 1)

/-- One accumulation (R140). -/
def accumulate (ty : AccTy) (d : Td) (old x : Nat) : Nat :=
  let fl := fun (f : NumFmt) =>
    let a := valOf f old
    let b := valOf f x
    if a.isNan || b.isNan then cvt .nan f .rne false
    else if a.isInf || b.isInf then cvt (a.add b) f .rne false
    else cvt (a.add b (d.round == .rd)) f d.round d.sat
  match ty with
  | .f32 => fl fp32
  | .bf16 => fl bf16
  | .i32 =>
    let n := intOfCode 32 true old + intOfCode 32 true x
    codeOfInt 32 (if d.sat then min (max n (-(2 ^ 31))) (2 ^ 31 - 1) else n)

/-- The new word of an `atom` (R151). -/
def atomNew (op : Instr) (old o z : W64) : W64 :=
  match op with
  | .atomSwap .. => o
  | .atomCas .. => if old = z then o else old
  | .atomMin .. => if old.toInt < o.toInt then old else o
  | .atomMax .. => if old.toInt < o.toInt then o else old
  | _ => old + o

/-- The mailbox that an `atom` returns to (R153). -/
def atomRet : Instr → Option MIx
  | .atomAdd _ r _ _ | .atomAddthr _ r _ _ _ | .atomSwap _ r _ _ | .atomCas _ r _ _ _ | .atomMin _ r _ _ | .atomMax _ r _ _
  | .atomArrive _ r _ => r
  | _ => none

/-! ### Landing (R128, R132, R133, R155) -/

/-- Splits bytes at a virtual address by aligned words. -/
def splitWrite (va : W64) (bs : List Byte) : List (W64 × List Byte) :=
  (pieces (bs.length + 1) va bs.length).map (fun p => (p.1, (bs.drop (p.1 - va).toNat).take p.2))

/-- The words of stashes, each with its tile, that places of a command lie in (R129). -/
def State.stashPlaces (s : State) (t : TileId) (asid : BitVec 12) (ps : List CuPlace) : List (TileId × Nat) :=
  ps.flatMap (fun p => match p with
    | .acc _ => []
    | .mem va n => (pieces (n + 1) va n).filterMap (fun q => match (s.routeT t .cu asid q.1 .write false).2 with
      | .to tgt => (match s.lineAt t tgt with
        | some (.tile o _, off) => some (o, off / 8)
        | some (.slot _ _, _) | none => none)
      | .tfault _ | .paRange => none))

/-- The ports of the stashes accept the writes of places: in debug mode their words are pending (R129, log 97). -/
def State.accept (s : State) (t : TileId) (asid : BitVec 12) (ps : List CuPlace) : State :=
  if s.tiles.toList.any (fun x => x.dbg.dm) then (s.stashPlaces t asid ps).foldl (fun st w => st.setPend w.1 [w.2]) s else s

/-- The writes of places have landed, and their words are pending no more (R129). -/
def State.unpend (s : State) (t : TileId) (asid : BitVec 12) (ps : List CuPlace) : State :=
  if s.tiles.toList.any (fun x => x.dbg.dm) then (s.stashPlaces t asid ps).foldl (fun st w => st.clearPend w.1 [w.2]) s else s

/-- No word of some places is pending. -/
def State.noPend (s : State) (t : TileId) (asid : BitVec 12) (ps : List CuPlace) : Bool :=
  (s.stashPlaces t asid ps).all (fun w => !(s.tile w.1).m.stash.pend.contains w.2)

/-- The bytes of a value of units. -/
def unitBytes (v n i : Nat) : List Byte := bytesOfNat n (v / 2 ^ (8 * n * i))

/-- A read of the copy unit returns: the flight goes on to its write or read-modify-write, or parks. What follows is accepted by the
port of its word (R129). -/
def State.cuRead (s : State) (t : TileId) (c : Fin 5) (i j : Nat) (r : CuRun) (f : Flight) : State :=
  let x := s.engPieces t .cu r.cmd.asid ((List.range f.cnt).map (cuSrc r.cmd f))
  match x.2 with
  | .ok bs =>
    let v := natOfBytes bs
    let own := x.1.noPend t r.cmd.asid (f.dests r.cmd)
    let next : List Flight :=
      if (accOf r.cmd.op).isSome then [{ f with stage := .rmw (BitVec.ofNat 64 v), own := own }]
      else (cuCopies r.cmd.op).map (fun q => { f with stage := .write v q })
    (x.1.accept t r.cmd.asid (next.flatMap (fun g => g.dests r.cmd))).modM t (fun m => m.setFlight c i j next)
  | .fault code q k va => x.1.parkFlight t c i j r f (cuReport r.cmd c code q k va)
  | .wait | .dropped => x.1

/-- The bytes near a flight's destination that its command has written: the elements that have been issued and have landed,
and its own (R78, log 41). -/
def Member.cuSpans (m : Member) (c : Fin 5) (i : Nat) (r : CuRun) (f : Flight) (q : Option (Fin 16)) : List (W64 × Nat) :=
  let out := match (m.ch[c.val]).runs[i]? with | some x => x.flights | none => []
  let es := (List.range 135).filterMap (fun k => if 63 ≤ f.elem + k ∧ f.elem + k - 63 < r.next then some (f.elem + k - 63) else none)
  es.filterMap (fun e =>
    let pend := !(decide (f.elem ≤ e) && decide (e < f.elem + f.cnt))
      && out.any (fun g => decide (g.elem ≤ e) && decide (e < g.elem + g.cnt) && g.row == f.row)
    match cuDst r.cmd { f with elem := e } q 0 with
    | .mem va n => if pend then none else some (va, n)
    | .acc _ => none)

/-- The target lies in a live barrier object (R329). -/
def State.onBarrier (s : State) (tgt : Target) : Bool :=
  match tgt with
  | .own _ => false
  | .pa a _ => decide (regionOf a = .dram) && s.inBarrier a

/-- A place of a command lies in a live barrier object, a word of it at least. -/
def State.placeBarred (s : State) (t : TileId) (asid : BitVec 12) : CuPlace → Bool
  | .acc _ => false
  | .mem va n => (pieces (n + 1) va n).any (fun q => match (s.engTarget t .cu asid q.1 .write).2 with
    | .ok tgt => s.onBarrier tgt
    | .wait | .dropped | .fault .. => false)

/-- The elements that a write of a flight drops, and the address of the first (R150, R155). An element of a packed format lies in one
byte or in two, and counts with the first of them that is dropped. -/
def State.dropElems (s : State) (t : TileId) (c : Cmd) (f : Flight) (q : Option (Fin 16)) : Nat × W64 :=
  let d := tdOf c.d0
  let barred := fun (k : Nat) => s.placeBarred t c.asid (cuDst c { f with elem := k } q 0)
  let us := ((List.range f.cnt).map (fun i => f.elem + i)).filter barred
  let addr := fun (k : Nat) => match cuDst c { f with elem := k } q 0 with | .mem va _ => va | .acc _ => 0
  let row := d.extent 0 * d.w / 8
  let packed := fun (k : Nat) => ((List.range 9).filter (fun i =>
    let e := k % row * 8 / d.w + i
    let lo := e * d.w / 8
    let hi := (e * d.w + d.w - 1) / 8
    lo == k % row || (hi == k % row && !barred (k - k % row + lo)))).length
  let n := match c.op with
    | .note .. => 1
    | _ => if d.w < 8 then us.foldl (fun a k => a + packed k) 0 else us.length
  (n, addr (us.headD f.elem))

/-- The scope of a `note`'s release (R156). -/
def State.noteScope (s : State) (t : TileId) (c : Cmd) : State × Scope :=
  let x := s.engTarget t .cu c.asid c.x .write
  match x.2 with
  | .ok tgt => (x.1, scopeMax c.scope (x.1.scopeOf t tgt))
  | .wait | .dropped | .fault .. => (x.1, c.scope)

/-- A `note` lands after every store that its release covers (R156, R273). -/
def State.noteHeld (s : State) (t : TileId) (c : Cmd) : Bool :=
  match c.op with
  | .note .. => !s.releaseOk t c.marks (s.noteScope t c).2
  | _ => false

/-- A write of the copy unit lands, its whole word in one step (R128, R133, R155). -/
def State.cuWrite (s : State) (t : TileId) (c : Fin 5) (i j : Nat) (r : CuRun) (f : Flight) (v : Nat) (q : Option (Fin 16)) : State :=
  let dst := cuDst r.cmd f q 0
  let places := f.places r.cmd q
  if places.any (fun p => s.writeBlocked t c i j r.cmd.asid p) || s.noteHeld t r.cmd then s
  else
    let gone := fun (m : Member) => m.setFlight c i j []
    match dst with
    | .acc off => s.modM t (fun m => (gone m).accPut (off / 4) (BitVec.ofNat 32 v))
    | .mem va n =>
      let ws := (places.zip (List.range f.cnt)).flatMap (fun e => match e.1 with
        | .mem a _ => splitWrite a (unitBytes v n e.2)
        | .acc _ => [])
      let w := s.engWrites t .cu r.cmd.asid ws
      (match w.2 with
      | .ok () =>
        let s1 := (w.1.unpend t r.cmd.asid places).modM t gone
        if s1.anyPoison then s1.engRenew t .cu r.cmd.asid ((s1.tile t).m.cuSpans c i r f q) else s1
      | .dropped =>
        let e := s.dropElems t r.cmd f q
        (w.1.unpend t r.cmd.asid places).modM t (fun m => (gone m).updRun c i (fun x => x.copyError e.1 e.2))
      | .fault code e kd a => w.1.parkFlight t c i j r f (cuReport r.cmd c code e kd a)
      | .wait => w.1)

/-- One access of a channel's flights lands or goes on: a read, a write, or a return that has reached its mailbox. -/
def State.cuAdvance (s : State) (t : TileId) (c : Fin 5) (k : Nat) : State :=
  match locate (s.tile t).m.ch[c.val].runs k with
  | some (i, j, r, f) =>
    if f.parked.isSome then s
    else
      (match f.stage with
      | .read => s.cuRead t c i j r f
      | .write v q => s.cuWrite t c i j r f v q
      | .rmw _ => s
      | .ret id => if (s.tile t).m.mbq.any (fun w => w.id == id) then s else s.modM t (fun m => m.setFlight c i j []))
  | none => s

/-! ### Read-modify-writes (R84, R140, R151 to R154, R325, R342) -/

/-- The write of a read-modify-write: it wakes the registrations on its word where the word lies in a live stash range, or
where `wakes` holds (R152, R322). -/
def State.rmwPut (s : State) (t : TileId) (tgt : Target) (bs : List Byte) (wakes : Bool) : State × Res Unit :=
  match s.homeOf t tgt with
  | .own off =>
    let x := (s.tile t).m.stash.write off bs
    let s1 := s.modM t (fun m => { m with stash := x.1 })
    match x.2, (s.tile t).m.stash.paOf off with
    | .ok (), some a => (s1.wake a bs.length, .ok ())
    | r, _ => (s1, r)
  | .pa a mt =>
    let x := s.putAt a bs
    match x.2 with
    | .ok () => (if (wakes && mt == 0) || (s.ownerOf a).isSome then x.1.wake a bs.length else x.1, .ok ())
    | r => (x.1, r)

/-- One accumulation at a destination in memory (R140, R155). Pending bits that the access has set itself do not fail its read (R129). -/
def State.rmwAcc (s : State) (t : TileId) (c : Fin 5) (i j : Nat) (r : CuRun) (f : Flight) (ty : AccTy) (x : Nat) (va : W64)
    (n : Nat) (tgt : Target) : State :=
  let gone := fun (m : Member) => m.setFlight c i j []
  let ps : List CuPlace := [.mem va n]
  let again := fun (st : State) => if f.own then st.accept t r.cmd.asid ps else st
  if s.onBarrier tgt then (s.unpend t r.cmd.asid ps).modM t (fun m => (gone m).updRun c i (fun y => y.copyError 1 va))
  else
    let o := (if f.own then s.unpend t r.cmd.asid ps else s).engReadAt t .cu va tgt n
    match o.2 with
    | .ok bs =>
      let w := o.1.rmwPut t tgt (bytesOfNat n (accumulate ty (tdOf r.cmd.d0) (natOfBytes bs) x)) false
      (match w.2 with
      | .ok () => ((w.1.joinNote (srcTile t) (s.paOfTarget t tgt)).unpend t r.cmd.asid ps).modM t gone
      | .wait | .poison | .pending | .dropped => again w.1)
    | .fault code e kd a => (again o.1).parkFlight t c i j r f (cuReport r.cmd c code e kd a)
    | .wait | .dropped => again o.1

/-- The old value of an `atom` returns to its mailbox (R153), or the flight is done. -/
def State.atomReturn (s : State) (t : TileId) (c : Fin 5) (i j : Nat) (r : CuRun) (f : Flight) (old : W64) : State :=
  match atomRet r.cmd.op with
  | some mb =>
    (s.logReplay t (.value old)).modM t (fun m =>
      let id := m.su.nextId
      { m.setFlight c i j [{ f with stage := .ret id }] with
        mbq := m.mbq ++ [⟨mb, old, false, 2, id⟩], su := { m.su with nextId := id + 1 } })
  | none => s.modM t (fun m => m.setFlight c i j [])

/-- What the memory point of a join word does after an `atom` (R342). -/
def State.joinAfter (s : State) (t : TileId) (op : Instr) (a : Nat) (new : W64) : State :=
  match op with
  | .atomAdd .. | .atomAddthr .. =>
    (match s.ms.joins.find? (fun q => q.1 == a / 8) with
    | some q =>
      if new = jready then
        let s1 := { s with ms := { s.ms with joins := s.ms.joins.erase q } }
        s1.makeReady (BitVec.ofNat 512 (s1.peek q.2.1.toNat 64)) q.2.1.toNat
      else s
    | none => s)
  | _ => s.joinNote (srcTile t) a

/-- The `atom` that brings a join word to JREADY waits while the record cannot be finished (R342, R390). -/
def State.joinHeld (s : State) (op : Instr) (a : Nat) (new : W64) : Bool :=
  match op with
  | .atomAdd .. | .atomAddthr .. =>
    new == jready && (match s.ms.joins.find? (fun q => q.1 == a / 8) with
      | some q => s.readyHeldWith (BitVec.ofNat 512 (s.peek q.2.1.toNat 64)) q.2.1.toNat [a]
      | none => false)
  | _ => false

/-- The operation of an `atom` other than `atom.arrive` (R151, R152, R154). -/
def State.rmwAtom (s : State) (t : TileId) (c : Fin 5) (i j : Nat) (r : CuRun) (f : Flight) (tgt : Target) : State :=
  let va := r.cmd.x
  if s.onBarrier tgt then
    s.haltRun t c i (cuReport r.cmd c 0x0D 0 0 va) (fun y => { y with noEffect := true, flights := [] })
  else
    let o := s.engReadAt t .cu va tgt 8
    match o.2 with
    | .ok bs =>
      let old := BitVec.ofNat 64 (natOfBytes bs)
      let new := atomNew r.cmd.op old r.cmd.y r.cmd.z
      let wakes := match r.cmd.op with
        | .atomAddthr .. => decide (old.toInt < r.cmd.z.toInt) && decide (r.cmd.z.toInt ≤ new.toInt)
        | _ => false
      let w := if s.joinHeld r.cmd.op (s.paOfTarget t tgt) new then (o.1, Res.wait)
        else o.1.rmwPut t tgt (bytesOfNat 8 new.toNat) wakes
      (match w.2 with
      | .ok () => (w.1.joinAfter t r.cmd.op (s.paOfTarget t tgt) new).atomReturn t c i j r f old
      | .wait | .poison | .pending | .dropped => w.1)
    | .fault code e kd a => o.1.parkFlight t c i j r f (cuReport r.cmd c code e kd a)
    | .wait | .dropped => o.1

/-- `atom.arrive` at a count word (R325); anywhere else it is a command error (R154). -/
def State.rmwArrive (s : State) (t : TileId) (c : Fin 5) (i j : Nat) (r : CuRun) (f : Flight) (tgt : Target) : State :=
  match tgt with
  | .own _ => s.cuBad t c i r.cmd
  | .pa a mt =>
    match s.ms.bars.find? (fun b => b.1 == a) with
    | none => s.cuBad t c i r.cmd
    | some b =>
      if s.ceilHolds a then s
      else
        let o := s.engReadAt t .cu r.cmd.x (.pa a mt) 16
        match o.2 with
        | .ok bs =>
          let count := natOfBytes (bs.take 8)
          let gen := BitVec.ofNat 64 (natOfBytes (bs.drop 8))
          let s1 :=
            if (count + 1) % 2 ^ 64 = b.2 then
              ((o.1.dramPut a (bytesOfNat 8 0)).dramPut (a + 8) (bytesOfNat 8 (gen + 1).toNat)).wake (a + 8) 8
            else o.1.dramPut a (bytesOfNat 8 (count + 1))
          s1.atomReturn t c i j r f gen
        | .fault code e kd v => o.1.parkFlight t c i j r f (cuReport r.cmd c code e kd v)
        | .wait | .dropped => o.1

/-- One read-modify-write of a channel's flights at its memory point (R84). -/
def State.cuRmw (s : State) (t : TileId) (c : Fin 5) (k : Nat) : State :=
  match locate (s.tile t).m.ch[c.val].runs k with
  | some (i, j, r, f) =>
    (match f.stage, f.parked with
    | .rmw x, none =>
      let dst := cuDst r.cmd f none 0
      if s.writeBlocked t c i j r.cmd.asid dst then s
      else
        (match dst, accOf r.cmd.op with
        | .acc off, _ => s.modM t (fun m =>
            let old := SMap.get 0 m.acc (off / 4)
            (m.setFlight c i j []).accPut (off / 4) (BitVec.ofNat 32 (accumulate .f32 (tdOf r.cmd.d0) old.toNat x.toNat)))
        | .mem va n, ty =>
          let y := s.engTarget t .cu r.cmd.asid va .rmw
          (match y.2, ty with
          | .ok tgt, some a => y.1.rmwAcc t c i j r f a x.toNat va n tgt
          | .ok tgt, none =>
            (match r.cmd.op with
            | .atomArrive .. => y.1.rmwArrive t c i j r f tgt
            | _ => y.1.rmwAtom t c i j r f tgt)
          | .fault code e kd a, _ => y.1.parkFlight t c i j r f (cuReport r.cmd c code e kd a)
          | .wait, _ | .dropped, _ => y.1))
    | _, _ => s)
  | none => s

/-! ### Stash commands (R113, R118, R120, R121, R157, R158) -/

/-- The granules of a range: the first virtual address that the range has in each. -/
def MapEntry.granules (e : MapEntry) : List W64 :=
  (List.range ((e.va + e.size - 1) / 65536 + 1 - e.va / 65536)).map (fun k =>
    BitVec.ofNat 64 (max e.va ((e.va / 65536 + k) * 65536)))

/-- A registered block whose bytes stand in a line with D = 1 of another stash or slot. -/
def State.heldElsewhere (s : State) (a : Nat) : Bool :=
  match s.ownerOf a with
  | some (.tile o l) => let x := (s.tile o).m.stash.line l; x.fill == .ready && x.d
  | some (.slot k l) => s.slots.any (fun e => e.1 == k && (e.2.img.stash.line l).d)
  | none => false

/-- A line of a range as `stash.map` leaves it (R115): EMPTY, or in MODE 1 READY with zero bytes, D = 1 and I = 1. -/
def Stash.freshLine (x : Stash) (mode : Bool) (l : Nat) : Stash :=
  { x.setLine l (if mode then ⟨.ready, true, true, 0⟩ else blankLine) with
    bytes := putBytes x.bytes (l * 256) (List.replicate 256 blankByte)
    pend := x.pend.filter (fun w => w / 32 != l)
    bad := x.badAfter (l * 256) 256 }

/-- The poison of the units and the poisoned words of a line that a stash or a slot holds (R78, R409). -/
def State.linePoison (s : State) (a : Nat) : BitVec 4 × List Nat :=
  match s.ownerOf a with
  | some (.tile o l) => let x := (s.tile o).m.stash
    ((x.line l).poison, (x.bad.filter (fun w => w / 32 == l)).map (fun w => w % 32))
  | some (.slot k l) => (match s.slots.find? (fun e => e.1 == k) with
    | some (_, sl) => ((sl.img.stash.line l).poison ||| s.slotPoison k l,
      (sl.img.stash.bad.filter (fun w => w / 32 == l)).map (fun w => w % 32))
    | none => (0, []))
  | none => (0, [])

/-- The bytes of a line that a stash or a slot holds go to its place in DRAM, and with them its poison (R78, R118). -/
def State.spillLine (s : State) (a : Nat) : State :=
  let p := s.linePoison a
  let s1 := s.dramPut a (bytesOfNat 256 (s.peek a 256))
  { s1 with ms := { s1.ms with
    poison := s1.ms.poison ++ ((List.range 4).filter (fun j => p.1.getLsbD j)).map (fun j => a / 64 + j)
    bad := s1.ms.bad ++ p.2.map (fun w => a / 8 + w) } }

/-- Registers the lines of an entry (R115, R118): a directory record each, and their state. A copy in the slice stays until the fill
has taken it. A line that another tile had registered belongs to the newest range, which finds its bytes in memory (log 37). -/
def State.registerLines (s : State) (t : TileId) (e : MapEntry) : State :=
  e.lineList.foldl (fun st l =>
    match (st.tile t).m.stash.paOf (l * 256) with
    | some a =>
      let s0 := if st.heldElsewhere a then st.spillLine a else st
      ({ s0 with ms := { s0.ms with dir := SMap.insert s0.ms.dir (a / 256) (.tile t l) } }).modM t (fun m => { m with
        stash := m.stash.freshLine e.mode l })
    | none => st) s

/-- Places an entry of the mapping table. -/
def Member.setMap (m : Member) (i : Nat) (e : MapEntry) : Member :=
  { m with stash := { m.stash with map := m.stash.map.set! i e } }

/-- A live barrier object lies in a range whose granules have these physical addresses (R113). -/
def State.barInRange (s : State) (e : MapEntry) (gran : List Nat) : Bool :=
  (e.granules.zip gran).any (fun g =>
    let lo := g.2 + g.1.toNat % 65536
    let len := min (e.va + e.size) ((g.1.toNat / 65536 + 1) * 65536) - g.1.toNat
    s.ms.bars.any (fun b => meets (b.1 / 16 * 16) 16 lo len))

/-- One step of a `stash.map` (R113): a translation, or the registration. -/
def State.mapStep (s : State) (t : TileId) (c : Fin 5) (k : Nat) (r : CuRun) (zero : Bool) (soff : BitVec 10) : State :=
  let m := (s.tile t).m
  match mapStage1 m.stash.map.toList r.cmd.asid (tdOf r.cmd.d0) zero soff with
  | none => s.cuBad t c k r.cmd
  | some (i, e) =>
    match e.granules[r.gran.length]? with
    | some va =>
      let x := s.translate t .cu r.cmd.asid va .rmw false
      (match x.2 with
      | .bad q => x.1.park t r.cmd.asid (cuReport r.cmd c 0x03 q 2 va) (fun m =>
          m.updRun c k (fun y => { y with halted := some (cuReport r.cmd c 0x03 q 2 va) }))
      | .pa a mt => x.1.modM t (fun m => m.updRun c k (fun y => { y with gran := y.gran ++ [(a / 65536 * 65536, mt)] }))
      | .range => x.1.modM t (fun m => m.updRun c k (fun y => { y with gran := y.gran ++ [(0x10000000000, 1)] })))
    | none =>
      if r.gran.any (fun g => g.2 != 0 || !decide (regionOf g.1 = .dram)) || s.barInRange e (r.gran.map (fun g => g.1)) then
        s.cuBad t c k r.cmd
      else
        let e1 := { e with gran := r.gran.map (fun g => g.1) }
        if s.ceilAll ((e1.lineList.zipIdx.map (fun q => (List.getD e1.gran (((e1.va + 256 * q.2) / 65536) - e1.va / 65536) 0)
            + (e1.va + 256 * q.2) % 65536)).filter s.heldElsewhere) then s
        else
        let s1 := s.modM t (fun m => m.setMap i e1)
        ((s1.registerLines t e1).modM t (fun m => m.setMap i { e1 with st := .live })).modM t (fun m => m.leave c k)

/-- One step of a `stash.unmap` (R121). -/
def State.unmapStep (s : State) (t : TileId) (c : Fin 5) (k : Nat) (r : CuRun) : State :=
  let m := (s.tile t).m
  match r.index with
  | none =>
    (match mapFind m.stash.map.toList r.cmd.asid (tdOf r.cmd.d0).base with
    | none => s.cuBad t c k r.cmd
    | some i => s.modM t (fun m => m.updRun c k (fun y => { y with index := some i })))
  | some i =>
    match s.releaseStep t ⟨i % 64, Nat.mod_lt _ (by decide)⟩ with
    | .step s1 => s1
    | .held => s
    | .done s1 => s1.modM t (fun m => m.leave c k)

/-- One step of a `stash.wb` (R120, R158). In debug mode the words of a line are pending from the snapshot to the write at the memory
point (R129). -/
def State.wbStep (s : State) (t : TileId) (c : Fin 5) (k : Nat) (r : CuRun) : State :=
  let m := (s.tile t).m
  match r.index with
  | none =>
    (match mapFind m.stash.map.toList r.cmd.asid (tdOf r.cmd.d0).base with
    | none => s.cuBad t c k r.cmd
    | some i => s.modM t (fun m => m.updRun c k (fun y => { y with index := some i })))
  | some i =>
    match (m.stash.map.toList.getD i MapEntry.reset).lineList[r.next]? with
    | some l =>
      if s.lineHeld t l then s
      else if (s.tile t).dbg.dm && !r.gran.contains (l, 0) && !(m.stash.pend.any (fun w => w / 32 == l)) then
        (s.setPend t ((List.range 32).map (fun w => 32 * l + w))).modM t (fun m => m.updRun c k (fun y => { y with gran := [(l, 0)] }))
      else ((if r.gran.contains (l, 0) then s.clearPend t ((List.range 32).map (fun w => 32 * l + w)) else s).writeBack t l false).modM t (fun m => m.updRun c k (fun y => { y with next := y.next + 1 }))
    | none => s.modM t (fun m => m.leave c k)

/-! ### Issue (R103, R131, R139, R147 to R149) -/

/-- Issues one flight; after the last the command leaves the head. -/
def Member.issueFlight (m : Member) (c : Fin 5) (k : Nat) (f : Flight) (last : Bool) (upd : CuRun → CuRun) : Member :=
  let m1 := m.updRun c k (fun r => { upd r with flights := r.flights ++ [f] })
  if last then m1.leave c k else m1

/-- The list, the table and the rows of an index-list command, with F (R146, R147). -/
def listOf (c : Cmd) : Option (Td × Td × Td × Bool) :=
  match c.op with
  | .gather _ _ _ _ f => some (tdOf c.d2, tdOf c.d1, tdOf c.d0, f)
  | .scatter _ _ _ _ f | .scatterAccF32 _ _ _ _ f | .scatterAccBf16 _ _ _ _ f | .scatterAccI32 _ _ _ _ f =>
    some (tdOf c.d2, tdOf c.d0, tdOf c.d1, f)
  | _ => none

/-- The command is a `gather`. -/
def isGather : Instr → Bool
  | .gather .. => true
  | _ => false

/-- An entry of a list has nothing more to issue. -/
def Member.nextEntry (m : Member) (c : Fin 5) (k : Nat) (r : CuRun) (n : Nat) : Member :=
  let m1 := m.updRun c k (fun y => { y with entry := r.entry + 1, index := none, next := 0 })
  if r.entry + 1 = n then m1.leave c k else m1

/-- One step of an index-list command at issue (R147 to R149): the read of an entry, or one unit of its row. -/
def State.listStep (s : State) (t : TileId) (c : Fin 5) (k : Nat) (r : CuRun) (l tb rows : Td) (strict : Bool) : State :=
  let n := l.extent 0
  let e := tb.extent (tb.ndim - 1)
  let ea := l.itemAddr r.entry
  match r.index with
  | none =>
    let x := s.engRead t .cu r.cmd.asid ea 4
    (match x.2 with
    | .ok bs =>
      let ix := natOfBytes bs
      if ix = 0xFFFFFFFF then x.1.modM t (fun m => m.nextEntry c k r n)
      else if e ≤ ix && !strict then
        let x1 := x.1.modM t (fun m => m.updRun c k (fun y => y.copyError 1 ea))
        if isGather r.cmd.op then x1.modM t (fun m => m.updRun c k (fun y => { y with index := some ix, next := 0 }))
        else x1.modM t (fun m => (m.nextEntry c k r n))
      else x.1.modM t (fun m => m.updRun c k (fun y => { y with index := some ix, next := 0 }))
    | .fault code q kd va =>
      let rep := cuReport r.cmd c code q kd va
      x.1.park t r.cmd.asid rep (fun m => m.updRun c k (fun y => { y with halted := some rep }))
    | .wait | .dropped => x.1)
  | some ix =>
    if e ≤ ix && strict then
      if r.flights.isEmpty then s.haltRun t c k (cuReport r.cmd c 0x0F 0 0 ea) (fun y => { y with index := none }) else s
    else
      let j := r.next
      let stage : Stage := if e ≤ ix then .write 0 none else .read
      let f0 : Flight := ⟨r.entry * rows.rowItems + j, ix, 1, stage, none, false⟩
      let f := { f0 with cnt := groupLen r.cmd f0 (rows.rowItems - j) }
      let last := decide (rows.rowItems ≤ j + f.cnt)
      let s1 := if e ≤ ix then s.accept t r.cmd.asid (f.dests r.cmd) else s
      s1.modM t (fun m =>
        let m1 := m.issueFlight c k f false (fun y => { y with next := j + f.cnt })
        if last then m1.nextEntry c k r n else m1)

/-- The value of the units of a `fill` (R144). -/
def fillValue (c : Cmd) (f : Flight) : Nat :=
  (List.range f.cnt).foldl (fun a i =>
    a + (fillUnit c (f.elem + i)).toNat % 2 ^ (8 * (tdOf c.d0).itemBytes) * 2 ^ (8 * (tdOf c.d0).itemBytes * i)) 0

/-- The next access of a command that moves the units of a descriptor (R128, R139). -/
def CuRun.nextFlight (r : CuRun) (stage : Flight → Stage) : Flight :=
  let f0 : Flight := ⟨r.next, 0, 1, .read, none, false⟩
  let f := { f0 with cnt := groupLen r.cmd f0 ((tdOf r.cmd.d0).items - r.next) }
  { f with stage := stage f }

/-- The head of a channel issues its next access, or makes its next step (R131, R132). The channel waits where the access would carry
the tile above 2,048. -/
def State.cuIssue (s : State) (t : TileId) (c : Fin 5) : State :=
  let m := (s.tile t).m
  let ch := m.ch[c.val]
  let k := ch.runs.length - 1
  match ch.runs[k]? with
  | none => s
  | some r =>
    let next := Flight.weight ⟨0, 0, 1, .read, none, false⟩ r.cmd.op
    if !(s.tile t).engLive || ch.stuck || r.issued || !r.begun || r.noEffect || decide (2048 < m.inFlight + next) then s
    else
      let item := fun (st : State) (f : Flight) => st.modM t (fun m =>
        m.issueFlight c k f (decide ((tdOf r.cmd.d0).items ≤ r.next + f.cnt)) (fun y => { y with next := r.next + f.cnt }))
      let one := fun (st : State) (stage : Stage) => st.modM t (fun m => m.issueFlight c k ⟨0, 0, 1, stage, none, false⟩ true id)
      match r.cmd.op, listOf r.cmd with
      | _, some (l, tb, rows, f) => s.listStep t c k r l tb rows f
      | .fill .., _ =>
        let f := r.nextFlight (fun g => .write (fillValue r.cmd g) none)
        item (s.accept t r.cmd.asid (f.dests r.cmd)) f
      | .atomArrive .., _ => if k = 0 ∧ s.releaseOk t r.cmd.marks r.cmd.scope = true then one s (.rmw 0) else s
      | .atomAdd .., _ | .atomAddthr .., _ | .atomSwap .., _ | .atomCas .., _ | .atomMin .., _ | .atomMax .., _ => one s (.rmw 0)
      | .note .., _ =>
        let x := s.noteScope t r.cmd
        if k = 0 ∧ x.1.releaseOk t r.cmd.marks x.2 = true then
          one (x.1.accept t r.cmd.asid [.mem r.cmd.x 8]) (.write r.cmd.y.toNat none) else x.1
      | .stashMap _ _ z so, _ => s.mapStep t c k r z so
      | .stashUnmap .., _ => s.unmapStep t c k r
      | .stashWb .., _ => s.wbStep t c k r
      | _, _ => item s (r.nextFlight (fun _ => .read))

/-! ### Start (R132, R142, R160) -/

/-- What a run's start tests and does: the slot of a copy into accumulator memory (R142), and the walker of a `chain`. -/
def State.cuBegin (s : State) (t : TileId) (c : Fin 5) (k : Nat) (cmd : Cmd) : State :=
  let m := (s.tile t).m
  match cmd.op, cuSlot cmd.op with
  | _, some n =>
    if m.muOwns n then s.haltRun t c k (cuReport cmd c 0x0B 0 0 (n.setWidth 64)) id
    else s.modM t (fun m => m.updRun c k (fun r => { r with slot := some n, begun := true }))
  | .chain _ w _, none =>
    let wc : Fin 5 := ⟨w.toNat + 1, by have := w.isLt; omega⟩
    let ch := m.ch[wc.val]
    if ch.loadAt.isSome || ch.pending.isSome || !ch.runs.isEmpty then s.cuBad t c k cmd
    else s.modM t (fun m => (m.modCh wc (fun x => { x with
        loadAt := some cmd.x, seq := cmd.seq, asid := cmd.asid, marks := cmd.marks })).updRun c k
        (fun r => { r with begun := true, issued := true }))
  | _, none => s.modM t (fun m => m.updRun c k (fun r => { r with begun := true }))

/-- A command starts on a channel (R132). -/
def State.cuStart (s : State) (t : TileId) (c : Fin 5) (cmd : Cmd) (recAddr : Option W64) (recNext : W64) : State :=
  let m := (s.tile t).m
  let r : CuRun := ⟨cmd, 0, 0, none, false, [], 0, 0, none, false, m.ctr.cycle, recAddr, recNext, none, false, []⟩
  let k := (m.ch[c.val]).runs.length
  (s.modM t (fun m => m.modCh c (fun ch => { ch with runs := ch.runs ++ [r] }))).cuBegin t c k cmd

/-- A run that took SCHED_PORT starts again after `eret` (R142). -/
def State.cuRetry (s : State) (t : TileId) (c : Fin 5) : State :=
  let ch := (s.tile t).m.ch[c.val]
  let k := ch.runs.length - 1
  match ch.runs[k]? with
  | some r => if r.begun || r.noEffect || r.halted.isSome then s else s.cuBegin t c k r.cmd
  | none => s

/-! ### Completion (R132, R145, R150, R160, R425) -/

/-- Every access of a run has landed. -/
def CuRun.landed (r : CuRun) (q : List MbWrite) : Bool :=
  r.flights.all (fun f => match f.stage with
    | .ret id => !q.any (fun w => w.id == id)
    | .read | .write .. | .rmw _ => false)

/-- COPY_ERROR and OFFLOAD_LATE (R145, R150, R410). -/
def State.cuEvents (s : State) (t : TileId) (r : CuRun) : State :=
  let s1 := if r.errs = 0 then s else
    s.logEvent 0x08 (srcTile t) ((r.errAddr.setWidth 32 : W32) ++ BitVec.ofNat 32 r.errs ++ r.cmd.seq : BitVec 128)
  match r.cmd.op with
  | .offload .. => if r.cmd.x.toNat < s1.fleet.toNat ∧ r.noEffect = false then
      s1.logEvent 0x09 (srcTile t) (r.cmd.seq.setWidth 128) else s1
  | _ => s1

/-- The completion of a run (R132): a walker writes the record's flags dword before the post applies (R160), in its place among the
channel's writes to that word (R133); one that a live barrier
drops is a copy error (R155). The post is a release of its own (R273). -/
def State.cuComplete (s : State) (t : TileId) (c : Fin 5) (k : Nat) : State :=
  let m := (s.tile t).m
  match (m.ch[c.val]).runs[k]? with
  | some r =>
    if r.halted.isSome || !(r.noEffect || r.issued) || !r.landed m.mbq then s
    else
      let done := fun (st : State) (x : CuRun) =>
        (((if r.issued then st else st.modM t (fun m => m.leave c k)).modM t (fun m => m.modCh c (fun ch => { ch with
          runs := listDrop ch.runs k }))).cuEvents t x).postDone t r.cmd 1
      match r.recAddr with
      | none => done s r
      | some a =>
        if s.writeBlocked t c k 0 r.cmd.asid (.mem (a + 48) 8) then s
        else
        let w := s.engWrites t .cu r.cmd.asid [(a + 48, bytesOfNat 8 (if r.errs = 0 then 0 else 256))]
        (match w.2 with
        | .ok () => done w.1 r
        | .dropped => done w.1 (r.copyError 1 (a + 48))
        | .fault code q kd va =>
          let rep := cuReport r.cmd c code q kd va
          w.1.park t r.cmd.asid rep (fun m => m.updRun c k (fun y => { y with halted := some rep }))
        | .wait => w.1)
  | none => s

/-! ### Chain walkers (R159 to R161) -/

/-- The reserved bits of a transfer record, and its NEXT on a record boundary (R159, log 38). -/
def recordOk (rec_ : W512) : Bool :=
  fld rec_ 400 112 == 0 && fld rec_ 385 7 == 0 && fld rec_ 320 6 == 0

/-- The command of a transfer record, or the reason of CMD_ERROR (R159, R160): SELX, SELY and the OPB of `atom.cas` and
`atom.addthr` are reserved. DESIGN CHOICE (log 108): a CMD that is `chain`, no command of the copy unit or no command word gives
reason 1, which the spec does not name. -/
def recordInstr (rec_ : W512) : Except (BitVec 8) Instr :=
  let w := fun (k : Nat) => rec_.extractLsb' (32 * k) 32
  match decodeSuWords (w 0) [w 1, w 2, w 3] with
  | .badCmd r => .error (r.setWidth 8)
  | .noWord | .short => .error 1
  | .ok i _ =>
    match cmdHead i, i with
    | _, .chain .. => .error 1
    | some (_, .cu), .atomAddthr _ _ x y z | some (_, .cu), .atomCas _ _ x y z =>
      if x = 0 ∧ y = 0 ∧ z = 0 ∧ recordOk rec_ = true then .ok i else .error 2
    | some (_, .cu), _ =>
      if (cmdRegs i).1 = 0 ∧ (cmdRegs i).2.1 = 0 ∧ recordOk rec_ = true then .ok i else .error 2
    | _, _ => .error 1

/-- The command that a walker runs for a record (R159, R160). -/
def Member.recordCmd (m : Member) (c : Fin 5) (i : Instr) (rec_ : W512) : Cmd :=
  let ch := m.ch[c.val]
  let h := match cmdHead i with | some x => x.1 | none => ⟨none, none, .tile⟩
  { m.capture i h with
    seq := ch.seq, asid := ch.asid, marks := ch.marks
    x := rec_.extractLsb' 128 64, y := rec_.extractLsb' 192 64, z := rec_.extractLsb' 256 64 }

/-- The check of a loaded record's command (R160): its report, or none. -/
def State.recordCheck (s : State) (t : TileId) (c : Fin 5) (cmd : Cmd) : Option Report :=
  let m := (s.tile t).m
  match pushLimits (m.code.vend - m.code.vcb.toNat) cmd with
  | some q => some (cuCmdError cmd c q)
  | none =>
    match cmdConflict m.pushView cmd, m.forwardWait cmd.wait, m.overflows cmd.post with
    | some a, _, _ => some (cuReport cmd c 0x0A 0 0 a)
    | none, some n, _ => some (cuReport cmd c 0x07 0 0 (n.setWidth 64))
    | none, none, some n => some (cuReport cmd c 0x08 0 0 (n.setWidth 64))
    | none, none, none => none

/-- A walker halts at a record that has not started; `eret` loads it again (R160). -/
def State.walkerFault (s : State) (t : TileId) (c : Fin 5) (r : Report) : State :=
  (s.modM t (fun m => m.modCh c (fun ch => { ch with fault := some r }))).engineFault t r

/-- A walker loads its next record (R160). A read that fails parks, as every access of the copy unit does (R103, R422). -/
def State.walkerLoad (s : State) (t : TileId) (c : Fin 5) : State :=
  let m := (s.tile t).m
  let ch := m.ch[c.val]
  match ch.loadAt with
  | none => s
  | some a =>
    if !(s.tile t).engLive || ch.stuck || ch.pending.isSome || !ch.runs.all (fun r => r.issued) then s
    else
      let rep := fun (code q : BitVec 8) (kd : BitVec 2) (va : W64) => engineReport code ch.seq (BitVec.ofNat 4 c.val) 3 kd q va
      let x := s.engRead t .cu ch.asid a 64
      match x.2 with
      | .fault code q kd va => x.1.park t ch.asid (rep code q kd va) (fun m => m.modCh c (fun y => { y with
          fault := some (rep code q kd va) }))
      | .wait | .dropped => x.1
      | .ok bs =>
        let r : W512 := BitVec.ofNat 512 (natOfBytes bs)
        if !r.getLsbD 384 then x.1.modM t (fun m => m.modCh c (fun y => { y with loadAt := none }))
        else
          match recordInstr r with
          | .error q => x.1.walkerFault t c (rep 0x06 q 0 ((r.extractLsb' 0 32 : W32) ++ (q.setWidth 32 : W32) : W64))
          | .ok i =>
            let cmd := (x.1.tile t).m.recordCmd c i r
            match x.1.recordCheck t c cmd with
            | some f => x.1.walkerFault t c f
            | none => x.1.modM t (fun m => (m.promise cmd.wait cmd.post).modCh c (fun y => { y with
                loadAt := none, pending := some (cmd, a, r.extractLsb' 320 64) }))

end Sys2Proof.Machine
end

