-- ==== Sys2Proof/Machine/Collective.lean ====
section
/-! DEFINITION. The collective engines: starts, messages and windows, packets formed and landed, counters, slot images and
completions (R284, R291 to R307). -/

namespace Sys2Proof.Machine

/-! ### Fields of commands (R297) -/

/-- The link that a collective-engine command names. -/
def ceLink : Instr → Option LinkId
  | .csend _ _ l _ _ | .crecv _ l _ _ _ | .cstep _ _ l _ _ _ _ _ | .carm _ _ l _ _ _ _ | .cslot _ l _ _ _ _
  | .cef _ _ l _ _ _ _ => some l
  | _ => none

/-- The TAG. -/
def ceTag : Instr → BitVec 8
  | .csend _ _ _ g _ | .crecv _ _ g _ _ | .cstep _ _ _ g _ _ _ _ | .carm _ _ _ g _ _ _ | .cef _ _ _ g _ _ _ => g
  | _ => 0

/-- The class of a send. -/
def ceClassOf : Instr → Option CeClass
  | .csend _ c .. | .cstep _ c .. | .carm _ c .. | .cef _ c .. => some c
  | _ => none

/-- The counter of a receive (R300, R301). -/
def ceRc : Instr → Option (BitVec 6)
  | .crecv _ _ _ _ rc | .cstep _ _ _ _ _ _ _ rc => some rc
  | _ => none

/-- The die whose engine runs a command (R291). -/
def ceDie : Instr → DieId
  | .crcSet _ _ _ d | .crcRd _ _ _ d _ => d
  | i => match ceLink i with | some l => dieOfLink l | none => 0

/-- A message that a send forms: its KIND, the descriptor it reads, and the one that gives the wire format (R295, R303). -/
structure Msg where
  kind : Nat
  src : Td
  wire : Td
  deriving DecidableEq, Repr

/-- The message of a send. -/
def Cmd.message (c : Cmd) : Option Msg :=
  match c.op with
  | .csend .. | .carm .. => some ⟨0, tdOf c.d0, tdOf c.d0⟩
  | .cstep .. => some ⟨1, tdOf c.d2, tdOf c.d2⟩
  | .cef .. => some ⟨2, tdOf c.d0, tdOf c.d2⟩
  | _ => none

/-- What the window of a receive expects (R294, R300, R301), and the descriptor that its elements land in. -/
def Cmd.window (c : Cmd) : Option (Expect × Td) :=
  match c.op with
  | .crecv .. => some (⟨0, (tdOf c.d0).dfmt.extractLsb' 0 21, BitVec.ofNat 24 (tdOf c.d0).count⟩, tdOf c.d0)
  | .cstep .. => some (⟨1, (tdOf c.d2).dfmt.extractLsb' 0 21, BitVec.ofNat 24 (tdOf c.d0).count⟩, tdOf c.d0)
  | _ => none

/-- The expectation of a grant fits a message (R294). -/
def Msg.fits (m : Msg) (e : Expect) : Bool :=
  (if e.kind = 0 then m.kind == 0 || m.kind == 2 else e.kind.toNat == m.kind)
    && e.fmtd == m.wire.dfmt.extractLsb' 0 21 && e.count.toNat == m.src.count

/-- Elements in a full packet (R282). -/
def Td.perPacket (w : Td) : Nat := 4032 / (w.w / 8)

/-- The packets of a message (R282). -/
def Msg.packets (m : Msg) : Nat := (m.src.count + m.wire.perPacket - 1) / m.wire.perPacket

/-- The elements of a packet. -/
def Msg.elems (m : Msg) (p : Nat) : List Nat :=
  (List.range (min m.wire.perPacket (m.src.count - p * m.wire.perPacket))).map (fun i => p * m.wire.perPacket + i)

/-! ### Runs -/

/-- Changes a started command of a die's engine. -/
def State.modCe (s : State) (d : DieId) (k : Nat) (f : CeRun → CeRun) : State :=
  s.modDie d (fun x => { x with ce := listMod x.ce k f })

/-- The tile that pushed a command: for a saved member, the tile it was saved from. -/
def State.homeTile (s : State) (o : Owner) : TileId :=
  match o with
  | .tile t _ => t
  | .slot k _ => match s.slots.find? (fun e => e.1 == k) with | some e => e.2.from_ | none => 0

/-- Changes the member that pushed a command, resident or saved. -/
def State.modHome (s : State) (o : Owner) (f : Member → Member) : State :=
  match o with
  | .tile t _ => s.modM t f
  | .slot k _ => s.modSlot k (fun x => { x with img := f x.img })

/-- The tile that stands for a die's engine in translation and in events. -/
def engineTile (d : DieId) : TileId := ⟨64 * d.val, by have := d.isLt; omega⟩

/-- A fault of a collective-engine command (R306): it halts, and its tile takes the fault. -/
def State.ceFault (s : State) (d : DieId) (k : Nat) (r : CeRun) (code reason : BitVec 8) (kind : BitVec 2) (tval : W64) : State :=
  let rep := engineReport code r.cmd.seq 15 3 kind reason tval
  (s.modCe d k (fun x => { x with halted := some rep })).modHome r.home
    (fun m => { m with rep := { m.rep with engine := m.rep.engine ++ [(0, rep)] } })

/-- A fresh place in the start order of a die's engine. -/
def State.freshOrder (s : State) (d : DieId) : Nat × State :=
  (s.dies[d.val].ceOrder, s.modDie d (fun x => { x with ceOrder := x.ceOrder + 1 }))

/-! ### Triggers and matching (R293, R294, R299) -/

/-- The trigger of a `carm` holds (R299): the counter is at least the captured threshold. -/
def State.carmHolds (s : State) (d : DieId) (r : CeRun) : Bool :=
  match r.cmd.op with
  | .carm _ _ _ _ _ rc _ => decide (((r.cmd.y.setWidth 32 : W32)).toNat ≤ (s.dies[d.val].rc[(r6 rc).val]).toNat)
  | _ => true

/-- The record of a `carm` trigger that passes (R401): the spec gives it no semaphore, so that field is free (log 36). -/
def State.triggerRecord (s : State) (t : TileId) (c : Cmd) : State :=
  let f := s.tickFree
  let w := Config.freeWord f.1
  let m := (s.tile t).m
  let waited := match c.since with | some x => min (m.ctr.cycle - x) (2 ^ 32 - 1) | none => 0
  f.2.modTile t (fun x => { x with dbg := { x.dbg with
    waits := (x.dbg.waits ++ [(⟨s.fleet, BitVec.ofNat 32 waited, ⟨3, w.extractLsb' 4 7, w.extractLsb' 16 32⟩,
      w.extractLsb' 48 8, c.seq⟩ : WaitRec)]).drop (x.dbg.waits.length + 1 - 1024) } })

/-- A message starts where its send has started and its trigger has passed (R294, R299): it takes its place in the order. The test of
an armed send that passes is the last event on the counters in its fabric cycle (R293). -/
def State.fire (s : State) (d : DieId) (k : Nat) : State :=
  match s.dies[d.val].ce[k]? with
  | some r =>
    (match r.send with
    | some x =>
      if x.fired || r.halted.isSome then s
      else if r.progress = 1 || s.carmHolds d r then
        let o := s.freshOrder d
        let s1 := match r.cmd.op, r.progress with
          | .carm .., 0 =>
            { o.2 with fab := { o.2.fab with counts := o.2.fab.counts.set d.val (2, 0) } }.triggerRecord (s.homeTile r.home) r.cmd
          | _, _ => o.2
        s1.modCe d k (fun y => { y with progress := 1, send := some { x with fired := true, ord := o.1 } })
      else s
    | none => s)
  | none => s

/-- The unmatched messages of a link and TAG in start order: the first one's place. One whose command is halted keeps its place; only
CE_MATCH withdraws a message (R294). -/
def firstUnmatched (l : List CeRun) (link : LinkId) (tag : BitVec 8) : Option Nat :=
  let ks := (List.range l.length).filter (fun k =>
    match l[k]? with
    | some r => ceLink r.cmd.op == some link && ceTag r.cmd.op == tag
        && (match r.send with | some x => x.fired && !x.matched | none => false)
    | none => false)
  let ord : Nat → Nat := fun k => match l[k]?.bind (fun r => r.send) with | some x => x.ord | none => 0
  match ks with
  | [] => none
  | k :: rest => some (rest.foldl (fun a b => if ord b < ord a then b else a) k)

/-- One grant of a link meets the first unmatched message of its TAG (R294): they match, or the sender takes CE_MATCH and its
message is withdrawn. A message whose command is halted waits, and with it those behind it. DESIGN CHOICE (log 111): `MSG` is the number
of messages of the link direction that grants have matched before. -/
def State.matchGrant (s : State) (l : LinkId) (g : Nat) : State :=
  let d := dieOfLink l
  let lk := s.links[l.val]
  match lk.grants[g]? with
  | none => s
  | some gr =>
    if (lk.grants.take g).any (fun x => x.tag == gr.tag) then s
    else
      match firstUnmatched s.dies[d.val].ce l gr.tag with
      | none => s
      | some k =>
        match s.dies[d.val].ce[k]? with
        | none => s
        | some r =>
          match r.cmd.message, r.send with
          | some m, some x =>
            if r.halted.isSome then s
            else if m.fits gr.expect then
              let n := SMap.get 0 lk.matchedN gr.tag.toNat
              (s.modCe d k (fun y => { y with send := some { x with
                matched := true, credits := gr.credits, msg := some lk.msg, nth := n } })).modLink l (fun y => { y with
                grants := y.grants.eraseIdx g, msg := y.msg + 1, matchedN := SMap.set 0 y.matchedN gr.tag.toNat (n + 1) })
            else (s.modCe d k (fun y => { y with send := some { x with fired := false } })).ceFault d k r 0x14 0 0
              (BitVec.ofNat 64 (l.val + (ceTag r.cmd.op).toNat * 256))
          | _, _ => s

/-- Everything that has become possible on a die's engine after an event: triggers (R293) and matches (R294). -/
def State.ceSettle (s : State) (d : DieId) : State :=
  let s1 := (List.range s.dies[d.val].ce.length).foldl (fun st k => st.fire d k) s
  (List.finRange 18).foldl (fun st l =>
    if dieOfLink l = d then
      (List.range st.links[l.val].grants.length).reverse.foldl (fun x g => x.matchGrant l g) st
    else st) s1

/-- Writes a receive counter and tests the armed sends (R293). Within one fabric cycle a `crc.set` (stage 0) goes before the
increments (stage 1), which go in start order, and the tests (stage 2) after both, as do those of the tide table (R354): what would go
back falls in the next cycle. -/
def State.countTo (s : State) (d : DieId) (stage order : Nat) (rc : BitVec 6) (f : W32 → W32) : State :=
  let s0 := s.inCycle (fun y => decide (y.counts[d.val].1 < stage ∨ (y.counts[d.val].1 = stage ∧ y.counts[d.val].2 ≤ order)))
  let s1 := (s0.tideTurn d).modDie d (fun x => { x with rc := x.rc.set (r6 rc).val (f x.rc[(r6 rc).val]) })
  { s1 with fab := { s1.fab with counts := s1.fab.counts.set d.val (stage, order) } }.ceSettle d

/-! ### Start (R284, R292, R294, R307) -/

/-- The link of a command is another's or is down (R284). -/
def State.linkBad (s : State) (c : Cmd) : Option (BitVec 8) :=
  match ceLink c.op with
  | some l =>
    if s.links[l.val].owner ≠ c.asid then some 0x12 else if s.links[l.val].lanes = 0 then some 0x13 else none
  | none => none

/-- The start of a command at its engine (R284, R292): a denied or a down link, or its message and its window; a `crc.set` takes
effect with it, before the increments of the windows that open after it (R293, R417). -/
def State.ceOpen (s : State) (d : DieId) (k : Nat) : State :=
  match s.dies[d.val].ce[k]? with
  | none => s
  | some r =>
    match s.linkBad r.cmd, ceLink r.cmd.op with
    | some code, some l => s.ceFault d k r code 0 0 (BitVec.ofNat 64 l.val)
    | _, lk =>
      let tag := ceTag r.cmd.op
      let n := match lk with | some l => SMap.get 0 s.links[l.val].opened tag.toNat | none => 0
      let s1 := s.modCe d k (fun y => { y with
        admitted := true
        send := r.cmd.message.map (fun _ => ⟨0, 0, false, false, 0, 0, none, 0⟩)
        recv := r.cmd.window.map (fun _ => ⟨n, 0, false⟩) })
      let s2 := match r.cmd.window, lk with
        | some w, some l => s1.modLink l (fun y => { y with
            ctl := y.ctl ++ [CtlPacket.grant tag w.1 32], opened := SMap.set 0 y.opened tag.toNat (n + 1) })
        | _, _ => s1
      match r.cmd.op with
      | .crcSet _ rc _ _ =>
        (s2.modCe d k (fun y => { y with progress := 1 })).countTo d 0 r.order rc (fun _ => r.cmd.x.setWidth 32)
      | _ => s2.ceSettle d

/-- A command leaves the head of a tile's CE queue and starts (R292): the starts of one fabric cycle go by increasing tile id. -/
def State.ceStart (s0 : State) (t : TileId) (c : Cmd) : State :=
  let d := ceDie c.op
  let s1 := s0.inCycle (fun f => decide (f.starts[d.val] ≤ t.val))
  let s := { s1 with fab := { s1.fab with starts := s1.fab.starts.set d.val t.val } }
  let o := s.freshOrder d
  let since := some (s.tile t).m.ctr.cycle
  let r : CeRun := ⟨.tile t 0, { c with since := since }, o.1, none, none, 0, none, false, false, 0, 0⟩
  let k := s.dies[d.val].ce.length
  (o.2.modDie d (fun x => { x with ce := x.ce ++ [r] })).ceOpen d k

/-! ### Accesses (R298, R329) -/

/-- A record of a collective command in the log of the member that pushed it, resident or saved (R397). -/
def State.logHome (s : State) (o : Owner) (r : LogRec) : State :=
  match o with
  | .tile t _ => s.logReplay t r
  | .slot k _ => (match s.slots.find? (fun e => e.1 == k) with | some e => s.logSaved k e.2 r | none => s)

/-- Reads of a collective command at some addresses enter the log of its member with the 64 bytes of each unit (R397). -/
def State.logCeReads (s : State) (d : DieId) (o : Owner) (asid : BitVec 12) (vas : List W64) : State :=
  ((vas.map (fun va => va &&& ~~~(63 : W64))).eraseDups).foldl (fun st u =>
    match (st.routeT (engineTile d) .ce asid u .read false).2 with
    | .to (.pa a _) => st.logHome o (.read u (bytesOfNat 64 (st.peek (a / 64 * 64) 64)))
    | .to (.own _) | .tfault _ | .paRange => st) s

/-- Elements of a descriptor of whole bytes, read in order by a command of the member `o`. -/
def State.ceReads (s : State) (d : DieId) (o : Owner) (asid : BitVec 12) (t : Td) (is : List Nat) : State × Eng (List Nat) :=
  let x := s.engCodes (engineTile d) .ce asid t (is.map t.tuple)
  match x.2 with
  | .ok v => (x.1.logCeReads d o asid (is.map (fun i => t.ea (t.tuple i))), .ok v)
  | other => (x.1, other)

/-- One write of the collective engine (R329): a live barrier word drops it. -/
def State.ceWrite (s : State) (d : DieId) (r : CeRun) (va : W64) (bs : List Byte) : State × Eng Unit :=
  let x := s.engTarget (engineTile d) .ce r.cmd.asid va .write
  match x.2 with
  | .ok (.pa a mt) =>
    let w := x.1.writeAt (srcTile (s.homeTile r.home)) a mt true bs
    (match w.2 with
    | .ok () => (w.1, .ok ())
    | .dropped => (w.1, .dropped)
    | .wait | .poison | .pending => (w.1, .wait))
  | .ok (.own _) => (x.1, .wait)
  | .wait => (x.1, .wait)
  | .dropped => (x.1, .dropped)
  | .fault c q k v => (x.1, .fault c q k v)

/-- Counts one copy error of a collective-engine command (R150, R329). -/
def CeRun.copyError (r : CeRun) (a : W64) : CeRun :=
  { r with errs := r.errs + 1, errAddr := if r.errs = 0 then a else r.errAddr }

/-! ### Forming packets (R282, R295, R303) -/

/-- The residual and the wire code of one element of a `cef` (R303). -/
def cefElem (src res wire : Td) (x r : Nat) : Nat × Nat :=
  let v := rv32 ((valOf src.fmt x).add (valOf res.fmt r))
  let q := cvt v wire.fmt wire.round wire.sat
  let qv := valOf wire.fmt q
  (q, if v.isFinite && qv.isFinite then rnd32 (v.add qv.neg) else 0)

/-- Writes the residuals of a packet, all of them or none. -/
def State.ceResiduals (s : State) (d : DieId) (k : Nat) (r : CeRun) (t : Td) : List (Nat × Nat) → State × Eng Unit
  | [] => (s, .ok ())
  | (i, v) :: rest =>
    let va := t.ea (t.tuple i)
    let w := s.ceWrite d r va (bytesOfNat 4 v)
    match w.2 with
    | .ok () => State.ceResiduals w.1 d k r t rest
    | .dropped => State.ceResiduals (w.1.modCe d k (fun y => y.copyError va)) d k r t rest
    | other => (w.1, other)

/-- The bytes of a packet: codes in element order. -/
def packBytes (w : Td) (codes : List Nat) : List Byte := codes.flatMap (fun c => bytesOfNat (w.w / 8) c)

/-- The data of the next packet of a send (R301, R303), with the state after its reads and residual writes. -/
def State.formData (s : State) (d : DieId) (k : Nat) (r : CeRun) (m : Msg) (p : Nat) : State × Eng (List Byte) :=
  let is := m.elems p
  let x := s.ceReads d r.home r.cmd.asid m.src is
  match x.2 with
  | .ok xs =>
    if m.kind = 2 then
      let res := tdOf r.cmd.d1
      let y := x.1.ceReads d r.home r.cmd.asid res is
      (match y.2 with
      | .ok rs =>
        let out := (xs.zip rs).map (fun e => cefElem m.src res m.wire e.1 e.2)
        let w := y.1.ceResiduals d k r res (is.zip (out.map (fun e => e.2)))
        (match w.2 with
        | .ok () | .dropped => (w.1, .ok (packBytes m.wire (out.map (fun e => e.1))))
        | .wait => (s, .wait)
        | .fault c q kd v => (s, .fault c q kd v))
      | .wait => (y.1, .wait)
      | .dropped => (y.1, .wait)
      | .fault c q kd v => (y.1, .fault c q kd v))
    else (x.1, .ok (packBytes m.wire xs))
  | .wait => (x.1, .wait)
  | .dropped => (x.1, .wait)
  | .fault c q kd v => (x.1, .fault c q kd v)

/-- The header flit of a packet (R295), its reserved fields 0. -/
def Packet.header (p : Packet) : W512 :=
  (0 : BitVec 320) ++ p.srank ++ p.count ++ p.fmtd ++ p.kind ++ p.tag ++ (0 : BitVec 8) ++ p.pkt ++ p.msg

/-- One byte of a CRC-32C. -/
def crcByte (c : Nat) (b : Byte) : Nat :=
  (List.range 8).foldl (fun a _ => if a % 2 = 1 then (a / 2) ^^^ 0x82F63B78 else a / 2) (c ^^^ b.toNat)

/-- CRC-32C (R283). PRESUMED (log 113): its usual form, with reflected bits, all ones at the start and inverted at the end. -/
def crc32c (bs : List Byte) : W32 := BitVec.ofNat 32 ((bs.foldl crcByte 0xFFFFFFFF) ^^^ 0xFFFFFFFF)

/-- The CRC-32C over the flits of a data packet (R282, R283). DESIGN CHOICE (log 113): the bytes after the data in its last flit are 0. -/
def Packet.crc (p : Packet) : W32 :=
  crc32c (bytesOfNat 64 (Packet.header p).toNat ++ p.data ++ List.replicate ((64 - p.data.length % 64) % 64) 0)

/-- The flits of a packet (R282). -/
def Frame.flits : Frame → Nat
  | .data _ p _ => 1 + (p.data.length + 63) / 64
  | .ctl _ _ | .bare _ => 1

/-- The replay buffer has room for more flits (R283). -/
def Link.room (y : Link) (n : Nat) : Bool := decide ((y.replay.foldl (fun a f => a + f.flits) 0) + n ≤ 4096)

/-- A packet of the next sequence number starts and enters the replay buffer (R283). -/
def Link.sendFrame (y : Link) (f : Nat → Frame) : Link :=
  { y with sendSeq := y.sendSeq + 1, replay := y.replay ++ [f y.sendSeq], out := y.out ++ [f y.sendSeq] }

/-- A packet is formed and starts on its link (R282, R283, R295). -/
def State.startPacket (s : State) (l : LinkId) (d : DieId) (k : Nat) (r : CeRun) (m : Msg) (x : Send) : State :=
  let f := s.formData d k r m x.pkt
  match f.2 with
  | .ok data =>
    let p : Packet := ⟨r.cmd.rank, BitVec.ofNat 24 m.src.count, m.wire.dfmt.extractLsb' 0 21, BitVec.ofNat 3 m.kind,
      ceTag r.cmd.op, BitVec.ofNat 32 x.pkt, x.msg.getD 0, x.nth, data⟩
    let slot := f.1.fleet.toNat / 256
    let sched := match ceClassOf r.cmd.op with | some (.sch _) => true | _ => false
    (f.1.modCe d k (fun y => { y with send := some { x with credits := x.credits - 1, pkt := x.pkt + 1 } })).modLink l (fun y =>
      { y.sendFrame (fun n => .data n p (Packet.crc p)) with slotUse :=
        if sched then (slot, (if y.slotUse.1 = slot then y.slotUse.2 else 0) + (Frame.data 0 p 0).flits) else y.slotUse })
  | .fault c q kd v => f.1.ceFault d k r c q kd v
  | .wait | .dropped => f.1

/-! ### Landing packets (R293, R296, R300, R301) -/

/-- The window that a packet falls to (R294): the one of its link and TAG that its message matched. -/
def windowOf (l : List CeRun) (link : LinkId) (p : Packet) : Option Nat :=
  l.findIdx? (fun r => ceLink r.cmd.op == some link && ceTag r.cmd.op == p.tag
    && (match r.recv with | some x => x.nth == p.nth && !x.done | none => false))

/-- The code that element i of D receives (R300, R301): `b` is the element's code in the packet, `a` that of K. -/
def combine (c : Cmd) (srank : W32) (a b : Nat) : Nat :=
  match c.op with
  | .cstep .. =>
    let d := tdOf c.d0
    let k := tdOf c.d1
    if d.fmtc = 7 then
      let n := intOfCode 32 true a + intOfCode 32 true b
      codeOfInt 32 (if d.sat then min (max n (-(2 ^ 31))) (2 ^ 31 - 1) else n)
    else
      let x := valOf k.fmt a
      let y := valOf k.fmt b
      let t := if c.rank.toNat < srank.toNat then rv32 (x.add y) else rv32 (y.add x)
      cvt t d.fmt d.round d.sat
  | _ => b

/-- The element codes of a packet. -/
def packetCodes (w : Nat) : Nat → List Byte → List Nat
  | 0, _ => []
  | f + 1, bs => if bs.length < w ∨ w = 0 then [] else natOfBytes (bs.take w) :: packetCodes w f (bs.drop w)

/-- Lands the elements (i, code) of a packet in order, from those that have not landed; answers whether all have. What cannot go
on falls back to the start of its aligned 8 bytes (`word`, `s0`), so a word is never half written (R128). -/
def State.landElems (s0 : State) (word : Nat) (s : State) (d : DieId) (k : Nat) (srank : W32) : List (Nat × Nat) → State × Bool
  | [] => (s, true)
  | (i, b) :: rest =>
    match s.dies[d.val].ce[k]? with
    | none => (s, true)
    | some r =>
      match r.cmd.window, r.recv with
      | some w, some rv =>
        if i < rv.landed then State.landElems s0 word s d k srank rest
        else
          let va := w.2.ea (w.2.tuple i)
          let n := va.toNat / 8
          let back := if n = word then s0 else s
          let x := match r.cmd.op with
            | .cstep .. => s.ceReads d r.home r.cmd.asid (tdOf r.cmd.d1) [i]
            | _ => (s, .ok [0])
          (match x.2 with
          | .ok a =>
            let y := x.1.ceWrite d r va (bytesOfNat (w.2.w / 8) (combine r.cmd srank (a.headD 0) b))
            let next := fun (st : State) => st.modCe d k (fun z => { z with recv := some { rv with landed := i + 1 } })
            (match y.2 with
            | .ok () => State.landElems back n (next y.1) d k srank rest
            | .dropped => State.landElems back n ((next y.1).modCe d k (fun z => z.copyError va)) d k srank rest
            | .wait => (back, false)
            | .fault c q kd v => (back.ceFault d k r c q kd v, false))
          | .wait | .dropped => (back, false)
          | .fault c q kd v => (back.ceFault d k r c q kd v, false))
      | _, _ => (s, true)

/-- The last element of a receive has landed (R293, R296): its counter rises, and the armed sends are tested. -/
def State.recvDone (s : State) (d : DieId) (k : Nat) : State :=
  match s.dies[d.val].ce[k]? with
  | some r =>
    (match r.recv, r.cmd.window, ceRc r.cmd.op with
    | some rv, some w, some rc =>
      if w.2.count ≤ rv.landed ∧ rv.done = false then
        (s.modCe d k (fun y => { y with recv := some { rv with done := true } })).countTo d 1 r.order rc (fun v => v + 1)
      else s
    | _, _, _ => s)
  | none => s

/-- Lands one accepted packet of a link in its window (R294, R301): equal ranks are CE_MATCH before anything is written. A
packet that no window awaits is discarded; a conforming peer sends none. -/
def State.landPacket (s : State) (l : LinkId) (g : Nat) (p : Packet) : State :=
  let d := dieOfLink l
  let gone := fun (st : State) => st.modLink l (fun y => { y with recv := y.recv.eraseIdx g })
  match windowOf s.dies[d.val].ce l p with
  | none => gone s
  | some k =>
    match s.dies[d.val].ce[k]? with
    | none => s
    | some r =>
      match r.cmd.window, r.cmd.op with
      | some w, op =>
        let equalRanks := match op with | .cstep .. => r.cmd.rank == p.srank | _ => false
        if equalRanks then s.ceFault d k r 0x14 0 0 (BitVec.ofNat 64 (l.val + p.tag.toNat * 256))
        else
          let wire := match op with | .cstep .. => tdOf r.cmd.d2 | _ => w.2
          let codes := packetCodes (wire.w / 8) p.data.length p.data
          let first := p.pkt.toNat * wire.perPacket
          let x := s.landElems (2 ^ 64) s d k p.srank ((codes.zip (List.range codes.length)).map (fun e => (first + e.2, e.1)))
          if x.2 then ((gone x.1).modLink l (fun y => { y with ctl := y.ctl ++ [CtlPacket.credit p.tag p.msg] })).recvDone d k else x.1
      | none, _ => gone s

/-! ### Other commands (R304, R305) -/

/-- The mailbox write of a `crc.rd` (R153, R304), on the pushing tile or held with the saved member (R307); with `fleet` it brings
fleet time as it lands. -/
def State.ceMailbox (s : State) (o : Owner) (mb : MIx) (v : W64) (fleet : Bool) : State × Nat :=
  match o with
  | .tile t _ =>
    let id := (s.tile t).m.su.nextId
    (s.modM t (fun m => { m with mbq := m.mbq ++ [⟨mb, v, fleet, 3, id⟩], su := { m.su with nextId := id + 1 } }), id)
  | .slot k _ => (s.modSlot k (fun x => { x with mbs := x.mbs ++ [⟨mb, v, fleet, 3, 0⟩] }), 0)

/-- The entries of a `cslot` image read (R305): the shadow entries, a reserved bit, or what stopped the read. -/
def State.slotImage (s : State) (d : DieId) (o : Owner) (c : Cmd) (n : Nat) : State × Eng (List Half) :=
  let at_ := fun (i : Nat) => c.x + BitVec.ofNat 64 (2 * i)
  let x := s.engPieces (engineTile d) .ce c.asid ((List.range n).map (fun i => (at_ i, 2)))
  match x.2 with
  | .ok bs => (x.1.logCeReads d o c.asid ((List.range n).map at_),
      .ok ((List.range n).map (fun i => BitVec.ofNat 16 (natOfBytes ((bs.drop (2 * i)).take 2)))))
  | .wait | .dropped => (x.1, .wait)
  | .fault a b k v => (x.1, .fault a b k v)

/-- One step of a started command that forms or lands no packet: a start that was denied, `crc.rd`, `cslot`. A table that an
earlier `cslot` commits at this multiple of 262,144 is copied before the next one takes its place (R290). -/
def State.ceStep (s : State) (d : DieId) (k : Nat) : State :=
  match s.dies[d.val].ce[k]? with
  | none => s
  | some r =>
    if r.halted.isSome || r.noEffect then s
    else if r.admitted = false then s.ceOpen d k
    else
      let bump := fun (st : State) (n : Nat) => st.modCe d k (fun y => { y with progress := n })
      match r.cmd.op with
      | .crcSet .. => s
      | .crcRd _ mb rc _ fleet =>
        if r.progress = 0 then
          let x := s.ceMailbox r.home mb ((s.dies[d.val].rc[(r6 rc).val]).setWidth 64) fleet
          bump x.1 (x.2 + 1)
        else s
      | .cslot _ l _ first count1 commit =>
        if r.progress ≠ 0 then s
        else
          let x := (s.commitTable l).slotImage d r.home r.cmd (count1.toNat + 1)
          (match x.2 with
          | .ok hs =>
            if hs.any (fun h => fld h 8 7 != 0) then
              (x.1.ceFault d k r 0x06 2 0 ((cmdError r.cmd.op 2).tval)).modCe d k (fun y => { y with noEffect := true })
            else
              bump (x.1.modLink l (fun y => { y with
                shadow := (hs.zip (List.range hs.length)).foldl (fun m e => SMap.set 0 m (first.toNat + e.2) e.1) y.shadow
                commit := if commit then some s.fleet else y.commit })) (if commit then 1 else 2)
          | .fault c q kd v => x.1.ceFault d k r c q kd v
          | .wait | .dropped => x.1)
      | op =>
        match ceLink op, s.linkBad r.cmd with
        | some l, some 0x13 => s.ceFault d k r 0x13 0 0 (BitVec.ofNat 64 l.val)
        | _, _ => s.ceSettle d

/-! ### Completion (R296, R307) -/

/-- A started command has reached the event of R296. -/
def State.ceFinished (s : State) (r : CeRun) : Bool :=
  r.halted.isNone && (r.noEffect ||
    match r.cmd.op with
    | .crcSet .. => decide (0 < r.progress)
    | .crcRd .. => decide (0 < r.progress) && (match r.home with
        | .tile t _ => !(s.tile t).m.mbq.any (fun w => w.id + 1 == r.progress)
        | .slot _ _ => true)
    | .cslot .. => decide (2 ≤ r.progress)
    | _ => r.admitted
        && (match r.send, r.cmd.message with | some x, some m => x.matched && decide (m.packets ≤ x.landed) | _, _ => true)
        && (match r.recv with | some x => x.done | none => true))

/-- The completion of a started command (R296): its copy errors, and its post (R273). For a saved member it is held with the image, and
its restore applies it once the stores that it covers have landed (R273, R307, R393). -/
def State.ceComplete (s : State) (d : DieId) (k : Nat) : State :=
  match s.dies[d.val].ce[k]? with
  | none => s
  | some r =>
    if s.ceFinished r then
      let s1 := s.modDie d (fun x => { x with ce := x.ce.eraseIdx k })
      let s2 := if r.errs = 0 then s1 else
        s1.logEvent 0x08 (srcTile (s.homeTile r.home))
          ((r.errAddr.setWidth 32 : W32) ++ BitVec.ofNat 32 r.errs ++ r.cmd.seq : BitVec 128)
      match r.home, r.cmd.post with
      | .tile t _, _ => s2.postDone t r.cmd 3
      | .slot j _, p =>
        let s3 := s2.logHome r.home (.completion r.cmd.seq)
        if p.isSome then s3.modSlot j (fun x => { x with img := { x.img with rel := x.img.rel ++ [(r.cmd, 3)] } }) else s3
    else s

/-- The started commands of a tile, or of the members saved from it: die and place. -/
def State.ceOf (s : State) (t : TileId) : List (DieId × Nat) :=
  (List.finRange 2).flatMap (fun d =>
    ((List.range s.dies[d.val].ce.length).filter (fun k => match s.dies[d.val].ce[k]? with
      | some r => s.homeTile r.home == t
      | none => false)).map (fun k => (d, k)))

end Sys2Proof.Machine
end

