-- ==== Sys2Proof/Machine/EngineEvents.lean ====
section
/-! DEFINITION. The steps of the engines: a command starts, an access lands, a read-modify-write is performed, a walker loads
a record, a command completes (R73, R84, R119, R132, R160, R212, R213, R249, R426). -/

namespace Sys2Proof.Machine

/-! ### Blocks of the vector unit (R51, R212, R213) -/

/-- A block starts at its `vrun`'s offset in the vector code (R51, R211, R212): it issues from the next cycle. -/
def Member.vuStart (m : Member) (c : Cmd) : Member :=
  let off : Nat := match c.op with | .vrun _ imm => 8 * imm.toNat | _ => 0
  { m with vu := { m.vu with
    cmd := some c, vpc := m.code.vcb + BitVec.ofNat 64 off, loops := [], marks := [], vending := false, halted := none
    ready := m.ctr.cycle + 1 } }

/-- A block completes when its `vend` retires (R213). -/
def State.vuComplete (s : State) (t : TileId) : State :=
  let m := (s.tile t).m
  match m.vu.cmd with
  | some c =>
    if m.vu.vending && !m.vu.flip && m.vu.sq.isEmpty then
      (s.modM t (fun x => { x with vu := { x.vu with cmd := none, vending := false, loops := [], marks := [] } })).postDone t c 2
    else s
  | none => s

/-! ### Starts (R73, R426) -/

/-- The head of a site starts: its wait passes and consumes, it leaves its queue, and its engine takes it (R73, R426). -/
def State.startHead (s : State) (t : TileId) (u : Site) (c : Cmd) : State :=
  let pend := match u with | .ch k => ((s.tile t).m.ch[k.val]).pending | .mu | .vu | .ce => none
  let s1 := (s.passWait t c).modM t (fun m => m.popHead u)
  match u with
  | .mu => s1.muStart t c
  | .vu => s1.modM t (fun m => m.vuStart c)
  | .ce => s1.ceStart t c
  | .ch k =>
    match pend with
    | some p => if k = 0 then s1.cuStart t k c none 0 else s1.cuStart t k c (some p.2.1) p.2.2
    | none => s1.cuStart t k c none 0

/-- A command that was turned away at its start is tried again after `eret` (R102, R142). -/
def State.retryStart (s : State) (t : TileId) (u : Site) : State :=
  match u with
  | .mu =>
    (match (s.tile t).m.mu with
    | some r => if r.begun || r.halted || r.noEffect then s else s.muBegin t r
    | none => s)
  | .ch k => s.cuRetry t k
  | .vu | .ce => s

/-- Only the starts, and an instruction that acts after them, are left of a tile's cycle (R74, R320). -/
def State.atStarts (s : State) (t : TileId) : Bool :=
  s.closing == some t || ((s.dueDone t).isNone && (s.vuIssue t).isNone
    && ((s.suIssue t).isNone || (s.lastOf t).isSome || s.suMisses t))

/-- COMMAND_START (R426): at the end of a cycle, after its posts (R74), the head of a site starts once its wait passes; a test that
fails is the start of its wait. -/
def execCommandStart (t : TileId) (u : Site) (s : State) : Ans :=
  .next (
    if !(s.tile t).engLive ∨ s.atStarts t = false then s
    else
      match (s.tile t).m.headOf u with
      | some c =>
        if (s.tile t).m.waitPasses c then { s.startHead t u c with closing := some t } else s.modM t (fun m => m.markSince u)
      | none => s.retryStart t u)

/-- COMMAND_COMPLETION (R73): `k` is the place among a channel's runs, or among a tile's started collective commands. -/
def execCommandCompletion (t : TileId) (u : Site) (k : Nat) (s : State) : Ans :=
  .next (match u with
    | .mu => s.muComplete t
    | .vu => s.vuComplete t
    | .ch c => s.cuComplete t c k
    | .ce => match (s.ceOf t)[k]? with
      | some x => if s.frozen then s else s.ceComplete x.1 x.2
      | none => s)

/-! ### Accesses (R84, R119, R132) -/

/-- One access or step of an engine. For a channel, place 0 issues the head's next access, and place k + 1 advances the
k-th access in flight; a stopped tile issues nothing (R135, R251). -/
def State.engineStep (s : State) (t : TileId) (u : Site) (k : Nat) : State :=
  match u, k with
  | .mu, _ => if (s.tile t).engLive then s.muStep t else s
  | .vu, _ => s
  | .ch c, 0 => s.cuIssue t c
  | .ch c, j + 1 => if (s.tile t).gated then s else s.cuAdvance t c j
  | .ce, _ =>
    match (s.ceOf t)[k]? with
    | some x => if s.frozen then s else s.ceStep x.1 x.2
    | none => s

/-- ENGINE_ACCESS_LANDS (R132). -/
def execEngineAccessLands (t : TileId) (u : Site) (k : Nat) (s : State) : Ans := .next (s.engineStep t u k)

/-- RMW_AT_MEMORY_POINT (R84): the k-th access in flight of a channel is a read-modify-write and applies. -/
def execRmwAtMemoryPoint (t : TileId) (c : Fin 5) (k : Nat) (s : State) : Ans := .next (s.cuRmw t c k)

/-- WALKER_RECORD_LOAD (R160). -/
def execWalkerRecordLoad (t : TileId) (w : Fin 4) (s : State) : Ans :=
  .next (s.walkerLoad t ⟨w.val + 1, by have := w.isLt; omega⟩)

/-- A target that a stash other than the tile's own serves, resident or saved (R119, R387). -/
def State.remote (s : State) (tgt : Target) : Bool :=
  match tgt with
  | .own _ => false
  | .pa a _ => (s.ownerOf a).isSome

/-- The destination of a flight is served by another stash. -/
def State.flightRemote (s : State) (t : TileId) (c : Fin 5) (k : Nat) : Bool :=
  match locate (s.tile t).m.ch[c.val].runs k with
  | some (_, _, r, f) =>
    let at_ := fun (va : W64) => match (s.routeT t .cu r.cmd.asid va .read false).2 with
      | .to tgt => s.remote tgt
      | .tfault _ | .paRange => false
    (match f.stage with
    | .read => at_ (cuSrc r.cmd f 0).1
    | .write _ q => (match cuDst r.cmd f q 0 with | .mem va _ => at_ va | .acc _ => false)
    | .rmw _ => (match cuDst r.cmd f none 0 with | .mem va _ => at_ va | .acc _ => false)
    | .ret _ => false)
  | none => false

/-- REMOTE_STASH_ACCESS (R119): an access that another tile's stash serves is performed there. -/
def execRemoteStashAccess (r : Requester) (s : State) : Ans :=
  .next (match r with
    | .suLoad t k => (match (s.tile t).m.su.loads[k]? with
      | some x => if s.remote x.tgt then s.looseLoad t x else s
      | none => s)
    | .suStore t k => (match (s.tile t).m.su.stores[k]? with
      | some x => if s.remote x.tgt && x.due.isNone then s.landStore t x else s
      | none => s)
    | .vuLoad t k => (match (s.tile t).m.vu.lq[k]? with
      | some x => if x.lanes.any (fun a => s.remote a.tgt) then s.looseEntry t x else s
      | none => s)
    | .vuStore t k => (match (s.tile t).m.vu.sq[k]? with
      | some x => if x.lanes.any (fun a => s.remote a.tgt) || x.writes.any (fun w => s.remote w.1) then s.looseEntry t x else s
      | none => s)
    | .rmw t c k => if s.flightRemote t c k then s.cuRmw t c k else s
    | .engine t (.ch c) k => if 0 < k ∧ s.flightRemote t c (k - 1) = true then s.engineStep t (.ch c) k else s
    | .engine t u k => if s.ms.dir.isEmpty then s else s.engineStep t u k)

end Sys2Proof.Machine
end

