-- ==== Sys2Proof/Machine/Links.lean ====
section
/-! DEFINITION. The steps of the peer links: grants, packets sent, received, replayed and landed, widths, fleet time and slot
tables (R48, R281 to R290, R294). The peer stands outside the package: what arrives is an operand of the step. -/

namespace Sys2Proof.Machine

/-- A link that carries packets (R283, R284). -/
def Link.up (y : Link) : Bool := y.lanes != 0 && !y.training

/-- A packet of the next sequence number has been accepted: its acknowledgement covers every packet before it too (R283). -/
def Link.accept (y : Link) : Link := { y with recvSeq := y.recvSeq + 1, ctl := y.ctl ++ [CtlPacket.ack (y.recvSeq + 1)] }

/-! ### Grants, credits and landings (R294, R296) -/

/-- The peer reports `n` more packets of a message landed: each returns a credit (R294) and counts for the completion (R296). -/
def CeRun.credit (l : LinkId) (tag : BitVec 8) (msg : W64) (n : Nat) (r : CeRun) : CeRun :=
  match r.send with
  | some x =>
    if ceLink r.cmd.op = some l ∧ ceTag r.cmd.op = tag ∧ x.msg = some msg then
      { r with send := some { x with credits := x.credits + n, landed := min x.pkt (x.landed + n) } }
    else r
  | none => r

/-- WINDOW_GRANT (R294): a window's grant with its expectation and credits, or the credits that landed packets return. It is the
next packet of the peer's sequence (R283). -/
def execWindowGrant (l : LinkId) (tag : BitVec 8) (g : Granted) (credits : Nat) (s : State) : Ans :=
  .next (
    if !s.links[l.val].up ∨ s.frozen = true then s
    else
      let s1 := s.modLink l Link.accept
      match g with
      | .window e => (s1.modLink l (fun y => { y with grants := y.grants ++ [⟨tag, e, credits⟩] })).ceSettle (dieOfLink l)
      | .landed msg => s1.modDie (dieOfLink l) (fun x => { x with ce := x.ce.map (fun r => r.credit l tag msg credits) }))

/-- CE_PACKET_LAND (R296): the first accepted packet of a link whose receive is not halted lands in its window. -/
def execCePacketLand (l : LinkId) (s : State) : Ans :=
  .next (
    let ce := s.dies[(dieOfLink l).val].ce
    let q := s.links[l.val].recv
    let ready := fun (p : Packet) => match windowOf ce l p with
      | some k => (match ce[k]? with | some r => r.halted.isNone | none => true)
      | none => true
    match q.findIdx? ready with
    | some g => if s.frozen then s else (match q[g]? with | some p => s.landPacket l g p | none => s)
    | none => s)

/-! ### Sending (R285 to R287, R289) -/

/-- The urgency of an offload packet (R287). -/
def urgency (deadline fleet : W64) : Nat :=
  let r : Int := (deadline.toNat : Int) - fleet.toNat
  if r ≤ 10000 then 3 else if r ≤ 100000 then 2 else if r ≤ 1000000 then 1 else 0

/-- The most flits that one slot's stream sends (R289). -/
def slotFlits (lanes : BitVec 2) : Nat := match lanes.toNat with | 3 => 1500 | 2 => 750 | 1 => 375 | _ => 0

/-- The flits of a packet of a message (R282). -/
def Msg.flits (m : Msg) (p : Nat) : Nat := 1 + ((m.elems p).length * (m.wire.w / 8) + 63) / 64

/-- The next packet of a send is ready (R283, R294): it is matched, has a credit and a place in the replay buffer. -/
def CeRun.ready (r : CeRun) (lk : Link) : Bool :=
  r.halted.isNone && (match r.send, r.cmd.message with
    | some x, some m => x.matched && decide (0 < x.credits) && decide (x.pkt < m.packets) && lk.room (m.flits x.pkt)
    | _, _ => false)

/-- The level of a ready packet (R286), from 1; none for a scheduled packet that may not start now (R288, R289). -/
def State.packetLevel (s : State) (lk : Link) (r : CeRun) : Option Nat :=
  match ceClassOf r.cmd.op, r.send, r.cmd.message with
  | some (.sch stream), some x, some m =>
    let slot := s.fleet.toNat / 256
    let e := SMap.get 0 lk.active (slot % 1024)
    let used := if lk.slotUse.1 = slot then lk.slotUse.2 else 0
    if !s.fleetErr && e.getLsbD 15 && e.extractLsb' 0 8 == stream && decide (16 ≤ s.fleet.toNat % 256)
      && decide (used + m.flits x.pkt ≤ slotFlits lk.lanes) then some 1 else none
  | some (.off _), _, _ =>
    let u := urgency r.cmd.x s.fleet
    some (if u = 3 then 3 else if u = 2 then 4 else 6)
  | some .blk, _, _ => some 5
  | _, _, _ => none

/-- The order of ready packets (R286): level, then deadline for offload, then the start order of their commands. -/
def packetKey (level : Nat) (r : CeRun) : Nat × Nat × Nat :=
  (level, if level = 3 ∨ level = 4 ∨ level = 6 then r.cmd.x.toNat else 0, r.order)

/-- One key stands before another. -/
def keyLt (a b : Nat × Nat × Nat) : Bool :=
  decide (a.1 < b.1) || (a.1 == b.1 && (decide (a.2.1 < b.2.1) || (a.2.1 == b.2.1 && decide (a.2.2 < b.2.2))))

/-- The packet that a link starts next (R286): a place and its key. -/
def State.chosen (s : State) (l : LinkId) : Option (Nat × (Nat × Nat × Nat)) :=
  let d := dieOfLink l
  let lk := s.links[l.val]
  let ce := s.dies[d.val].ce
  (List.range ce.length).foldl (fun (best : Option (Nat × (Nat × Nat × Nat))) k =>
    match ce[k]? with
    | some r =>
      if ceLink r.cmd.op == some l && r.ready lk then
        (match s.packetLevel lk r, best with
        | some lev, some b => if keyLt (packetKey lev r) b.2 then some (k, packetKey lev r) else best
        | some lev, none => some (k, packetKey lev r)
        | none, _ => best)
      else best
    | none => best) none

/-- The control packet that can start: an acknowledgement or a replay request always, another where the replay buffer has room
(R283). -/
def Link.control (y : Link) : Option Link :=
  let ready := fun (c : CtlPacket) => match c with
    | .ack _ | .replay _ => true
    | .grant .. | .credit .. | .tide _ | .time _ => y.room 1
  match y.ctl.findIdx? ready with
  | some k =>
    (match y.ctl[k]? with
    | some c =>
      let z := { y with ctl := y.ctl.eraseIdx k }
      some (match c with
        | .ack _ | .replay _ => { z with out := z.out ++ [.bare c] }
        | .grant .. | .credit .. | .tide _ | .time _ => z.sendFrame (fun n => .ctl n c))
    | none => none)
  | none => none

/-- LINK_PACKET_START (R286): a scheduled packet, else a control packet, else the best of the other classes. -/
def execLinkPacketStart (l : LinkId) (s : State) : Ans :=
  .next (
    let d := dieOfLink l
    let lk := s.links[l.val]
    let go := fun (k : Nat) => match s.dies[d.val].ce[k]? with
      | some r => (match r.cmd.message, r.send with
        | some m, some x => s.startPacket l d k r m x
        | _, _ => s)
      | none => s
    if !lk.up ∨ s.frozen = true then s
    else
      match s.chosen l, lk.control with
      | some (k, key), some y => if key.1 = 1 then go k else s.modLink l (fun _ => y)
      | some (k, _), none => go k
      | none, some y => s.modLink l (fun _ => y)
      | none, none => s)

/-! ### Receiving and replay (R283) -/

/-- A packet that the acknowledgement of every number before `n` covers. -/
def Frame.ackedBy (n : Nat) : Frame → Bool
  | .data k _ _ | .ctl k _ => decide (k < n)
  | .bare _ => false

/-- A packet from a sequence number on. -/
def Frame.fromSeq (n : Nat) (f : Frame) : Bool := !f.ackedBy n

/-- What an accepted packet does: a data packet waits to land; a peer's write lands in this package's DRAM (R285), or is accepted
only later where it has to wait. -/
def State.arrive (s : State) (l : LinkId) (a : Arrival) : State :=
  match a with
  | .data p => s.modLink l (fun y => { y.accept with recv := y.recv ++ [p] })
  | .write pa bs =>
    if regionOf pa.toNat ≠ .dram ∨ regionOf (pa.toNat + bs.length - 1) ≠ .dram then s.modLink l Link.accept
    else
      let ws := bytePieces pa.toNat bs
      let w := s.outsidePut (srcLink l) ws
      if w.2 = [] then w.1.modLink l Link.accept else ws.foldl (fun st e => st.touchAt e.1) s
  | .ack n => s.modLink l (fun y => { y with replay := y.replay.filter (fun f => f.fromSeq n), fails := (0, 0) })

/-- A packet passes its CRC (R283). The flits of packets other than data packets have no layout in the spec, so for them `crcOk` tells
whether the CRC agrees. -/
def Incoming.passes (p : Incoming) (crcOk : Bool) : Bool :=
  match p.what with
  | .data q => p.crc == Packet.crc q
  | .write _ _ | .ack _ => crcOk

/-- PACKET_RECEIVE (R283): a packet in sequence with a good CRC is accepted and acknowledged; any other is discarded and a replay from
its sequence number is requested. An acknowledgement has no place in the sequence (log 100): the packets that it covers leave the replay buffer. -/
def execPacketReceive (l : LinkId) (p : Incoming) (crcOk : Bool) (s : State) : Ans :=
  .next (
    let y := s.links[l.val]
    let inOrder := match p.what with | .ack _ => true | .data _ | .write _ _ => decide (p.seq = y.recvSeq)
    if !y.up then s
    else if Incoming.passes p crcOk ∧ inOrder = true then s.arrive l p.what
    else s.modLink l (fun y => { y with ctl := y.ctl ++ [CtlPacket.replay p.seq] }))

/-- LINK_REPLAY (R283): the stored packets from a sequence number on are sent again unchanged. A ninth request in succession for one
packet says that eight replays of it have failed: the link retrains. -/
def execLinkReplay (l : LinkId) (seq : Nat) (s : State) : Ans :=
  .next (
    if !s.links[l.val].up then s
    else s.modLink l (fun y =>
      let n := if y.fails.1 = seq then y.fails.2 + 1 else 1
      if 8 < n then { y with training := true, fails := (0, 0) }
      else { y with out := y.out ++ y.replay.filter (fun f => f.fromSeq seq), fails := (seq, n) }))

/-! ### Widths (R48, R281, R284) -/

/-- A link has trained at a width (R48, R283, R284): LINK_UPDOWN where it comes up or goes down, LINK_WIDTH where its width changes
otherwise or a lane has failed (`failed`). Transmission goes on from the replay buffer; a link that is down stops every command
started on it. -/
def State.setLanes (s : State) (l : LinkId) (lanes : BitVec 2) (failed : Bool) : State :=
  let old := s.links[l.val].lanes
  let s1 := s.modLink l (fun y => { y with lanes := lanes, training := false, out := if lanes = 0 then y.out else y.out ++ y.replay })
  let s2 := if lanes ≠ 0 ∧ (failed = true ∨ (old ≠ 0 ∧ old ≠ lanes)) then
    s1.logEvent 0x04 (srcLink l) (evData 0 (l.val + lanes.toNat * 256)) else s1
  let s3 := if (old = 0) ≠ (lanes = 0) then
    s2.logEvent 0x05 (srcLink l) (evData 0 (l.val + (if lanes = 0 then 0 else 256))) else s2
  if lanes = 0 then
    let d := dieOfLink l
    (List.range s3.dies[d.val].ce.length).foldl (fun st k =>
      match st.dies[d.val].ce[k]? with
      | some r => if ceLink r.cmd.op = some l ∧ r.halted.isNone = true then
          st.ceFault d k r 0x13 0 0 (BitVec.ofNat 64 l.val) else st
      | none => st) s3
  else s3

/-- LINK_TRAIN (R281): the widest width that all of its lanes pass. A link that was down and trains at fewer than 16 lanes has a
lane that failed at training (R48). -/
def execLinkTrain (l : LinkId) (lanes : BitVec 2) (s : State) : Ans :=
  .next (s.setLanes l lanes (s.links[l.val].lanes == 0 && lanes != 3))

/-- LANE_FAILURE (R48): the link retrains to 8 or 4 lanes, no wider than it was while it was up. -/
def execLaneFailure (l : LinkId) (eight : Bool) (s : State) : Ans :=
  .next (
    let w : BitVec 2 := if eight then 2 else 1
    let old := s.links[l.val].lanes
    s.setLanes l (if old ≠ 0 ∧ old.toNat < w.toNat then old else w) true)

/-! ### Fleet time and slot tables (R288, R290) -/

/-- FLEET_TIME_EXCHANGE (R288): every 16,000 ns the packages exchange timestamps; a package that is no master then slews its counter
toward the master's, which is `err` ns ahead of it or behind it. Above 10 ns of estimated error it logs FLEET_SYNC and holds
scheduled packets back. -/
def execFleetTimeExchange (ahead : Bool) (err : W64) (s : State) : Ans :=
  .next (
    if s.fleet.toNat % 16000 ≠ 0 ∨ s.fleet.toNat / 16000 < s.fleetSync.exchanged then s
    else
      let s0 := s.sendStamps
      let s1 := { s0 with links := vmap s0.links (fun y => if y.up then y.accept else y) }
      let bad := decide (10 < err.toNat)
      let s2 := if bad then s1.logEvent 0x0A srcFw (evData 0 err.toNat) else s1
      { s2 with
        fleetErr := bad
        fleetSync := { s2.fleetSync with due := if s.cfg.master then 0 else if ahead then err.toNat else -(err.toNat : Int) } })

/-- SLOT_TABLE_COMMIT (R290): at the first multiple of 262,144 ns after its last entry was written, the shadow table becomes the
active one; fleet time does not go past that multiple without it. -/
def execSlotTableCommit (l : LinkId) (s : State) : Ans := .next (s.commitTable l)

end Sys2Proof.Machine
end

