-- ==== Sys2Proof/Machine/Launch.lean ====
section
/-! DEFINITION. Dispatch, launch, restore, pre-emption and completion of members, and the tide table's steps (R53, R86, R88,
R170, R224 to R226, R332 to R342, R350, R354, R355, R367, R384 to R388, R427, R428). -/

namespace Sys2Proof.Machine

/-! ### Reads of the dispatcher (R53, R336) -/

/-- What a read of the dispatcher comes to: its value; a line that fills; a record that cannot be read. -/
inductive Got (α : Type) where
  | ok (v : α)
  | wait
  | bad
  deriving DecidableEq, Repr

/-- Reads pieces of a virtual range as the steering unit reads (R53, R336). -/
def State.readVirt (s : State) (t : TileId) (e : EngCls) (asid : BitVec 12) (k : AccKind) (handler : Bool) :
    List (W64 × Nat) → State × Got (List Byte)
  | [] => (s, .ok [])
  | (va, n) :: ps =>
    let x := s.translate t e asid va k handler
    match x.2 with
    | .bad _ | .range => (x.1, .bad)
    | .pa a _ =>
      if paRangeBad a handler then (x.1, .bad)
      else
        let r := x.1.readAt a n
        (match r.2 with
        | .ok bs =>
          let rest := State.readVirt r.1 t e asid k handler ps
          (rest.1, match rest.2 with | .ok more => .ok (bs ++ more) | .wait => .wait | .bad => .bad)
        | .poison => (r.1, .bad)
        | .wait | .pending | .dropped => (r.1, .wait))

/-- Reads `n` bytes at a virtual address. -/
def State.dispRead (s : State) (t : TileId) (e : EngCls) (asid : BitVec 12) (k : AccKind) (handler : Bool) (va : W64) (n : Nat) :
    State × Got (List Byte) :=
  s.readVirt t e asid k handler (pieces (n + 1) va n)

/-- Every page of the handler section is a leaf with K = 1 (R381); a section of no bytes has no page. -/
def State.handlerPages (s : State) (asid : BitVec 12) (va : W64) (n : Nat) : Bool :=
  (List.range (if n = 0 then 0 else (va.toNat % 65536 + n + 65535) / 65536)).all (fun k =>
    match s.walk asid (va + BitVec.ofNat 64 (65536 * k)) with
    | .leaf e _ => e.getLsbD 5
    | .bad _ => false)

/-! ### The launch record and its tables (R224 to R226, R333) -/

/-- A launch record. -/
abbrev LaunchRec := BitVec 8192

/-- The reserved bits of a launch record are 0 (R333). -/
def lrReservedOk (l : LaunchRec) : Bool :=
  fld l 448 64 == 0 && fld l 373 11 == 0 && fld l 331 1 == 0 && fld l 268 4 == 0 && fld l 224 32 == 0 && fld l 183 9 == 0
    && fld l 55 9 == 0 && (List.range 8).all (fun n => fld l (512 + 64 * n + 55) 9 == 0)
    && (List.range 192).all (fun n => fld l (2048 + 32 * n + 24) 8 == 0)

/-- SCB. -/
def lrScb (l : LaunchRec) : Nat := fld l 0 55
/-- SCL. -/
def lrScl (l : LaunchRec) : Nat := fld l 64 32
/-- VCB of the launch. -/
def lrVcb (l : LaunchRec) : Nat := fld l 128 55
/-- VCL. -/
def lrVcl (l : LaunchRec) : Nat := fld l 192 32

/-- A table header and its rows from a table record (R224 to R226): none where the record fails its checks. -/
def tableOf (n org : Nat) (h : W512) (rows : List Byte) : Option (Table × List W32) :=
  let nseg := fld h 64 10 + 1
  let lo := valOf fp32 (fld h 0 32)
  let hi := valOf fp32 (fld h 32 32)
  let inv := rnd32 ((FVal.ofInt nseg).div (hi.add lo.neg))
  if fld h 83 429 ≠ 0 ∨ fld h 74 6 ≠ 0 ∨ fld h 80 3 ≠ n ∨ lo.isFinite = false ∨ hi.isFinite = false
      ∨ 0 ≤ FVal.cmpKey lo hi ∨ (valOf fp32 inv).isFinite = false ∨ inv % 2 ^ 31 = 0 then none
  else
    some (⟨BitVec.ofNat 32 (fld h 0 32), BitVec.ofNat 32 (fld h 32 32), nseg, org, BitVec.ofNat 32 inv, true⟩,
      (List.range (3 * nseg)).map (fun k => BitVec.ofNat 32 (natOfBytes ((rows.drop (4 * k)).take 4))))

/-- Loads the tables that a launch record names, in index order, from row `org` on (R224). -/
def State.loadTables (s : State) (t : TileId) (asid : BitVec 12) (l : LaunchRec) :
    List (Fin 8) → Nat → State × Got (List (Fin 8 × Table) × List W32)
  | [], _ => (s, .ok ([], []))
  | n :: ns, org =>
    let a := fld l (512 + 64 * n.val) 55
    if a = 0 then State.loadTables s t asid l ns org
    else
      let h := s.dispRead t .su asid .read false (BitVec.ofNat 64 a) 64
      match h.2 with
      | .wait => (h.1, .wait)
      | .bad => (h.1, .bad)
      | .ok hb =>
        let hw : W512 := BitVec.ofNat 512 (natOfBytes hb)
        let nseg := fld hw 64 10 + 1
        let r := h.1.dispRead t .su asid .read false (BitVec.ofNat 64 (a + 64)) (12 * nseg)
        (match r.2 with
        | .wait => (r.1, .wait)
        | .bad => (r.1, .bad)
        | .ok rb =>
          (match tableOf n.val org hw rb with
          | none => (r.1, .bad)
          | some x =>
            if 5440 < org + nseg then (r.1, .bad)
            else
              let rest := State.loadTables r.1 t asid l ns (org + nseg)
              (rest.1, match rest.2 with
                | .ok y => .ok ((n, x.1) :: y.1, x.2 ++ y.2)
                | .wait => .wait
                | .bad => .bad)))

/-! ### Launch (R53, R170, R335, R336) -/

/-- What the load of a gang comes to: the code store, the tables with their rows and the launch record; a wait; a failure with
its reason (R336). -/
inductive Load where
  | ok (l : LaunchRec) (code : Code) (tbl : List (Fin 8 × Table)) (rows : List W32)
  | wait
  | fail (reason : Nat)
  deriving DecidableEq, Repr

/-- The copy of the three code sections (R53, R336 reasons 8 and 9). -/
def State.loadCode (s : State) (t : TileId) (r : W512) (l : LaunchRec) (tbl : List (Fin 8 × Table)) (rows : List W32) :
    State × Load :=
  let asid := recAsid r
  let vlen := lrVcb l + lrVcl l - (recVcb r).toNat
  let scb : W64 := BitVec.ofNat 64 (lrScb l)
  if 131072 < lrScl l + vlen + s.cfg.handlerLen then (s, .fail 8)
  else
    let a := s.dispRead t .su asid .fetch false scb (lrScl l)
    let b := a.1.dispRead t .su asid .fetch false (recVcb r) vlen
    let c := b.1.dispRead t .su asid .fetch true s.cfg.tvec s.cfg.handlerLen
    match a.2, b.2, c.2 with
    | .ok x, .ok y, .ok z =>
      if s.handlerPages asid s.cfg.tvec s.cfg.handlerLen then
        let bytes := putBytes (putBytes (putBytes [] scb.toNat x) (recVcb r).toNat y) s.cfg.tvec.toNat z
        (c.1, .ok l ⟨scb, lrScl l, recVcb r, lrVcb l + lrVcl l, s.cfg.tvec, s.cfg.handlerLen, bytes⟩ tbl rows)
      else (c.1, .fail 9)
    | .bad, _, _ | _, .bad, _ | _, _, .bad => (c.1, .fail 9)
    | _, _, _ => (c.1, .wait)

/-- The checks of reasons 3 to 9 in the order of R336, and what they load. DESIGN CHOICE (log 94): R334 wants VCB a multiple of 8 and
R336 lists no failure where it is not; such a task is launched and its blocks run from there. -/
def State.loadGang (s : State) (t : TileId) (r : W512) : State × Load :=
  let asid := recAsid r
  if !(s.pte (s.cfg.rootBase + 8 * asid.toNat)).getLsbD 0 then (s, .fail 3)
  else
    let x := s.dispRead t .su asid .read false (recLrec r) 1024
    match x.2 with
    | .wait => (x.1, .wait)
    | .bad => (x.1, .fail 4)
    | .ok bs =>
      let l : LaunchRec := BitVec.ofNat 8192 (natOfBytes bs)
      let spc := (recSpc r).toNat
      let vcb := (recVcb r).toNat
      if !lrReservedOk l then (x.1, .fail 4)
      else if spc < lrScb l ∨ lrScb l + lrScl l ≤ spc ∨ spc % 4 ≠ 0 then (x.1, .fail 5)
      else if vcb < lrVcb l ∨ lrVcb l + lrVcl l < vcb then (x.1, .fail 6)
      else
        let y := x.1.loadTables t asid l (List.finRange 8) 0
        match y.2 with
        | .wait => (y.1, .wait)
        | .bad => (y.1, .fail 7)
        | .ok z => y.1.loadCode t r l z.1 z.2

/-- The registers of a launch before its flip (R170, R335). -/
def launchFaces (cfg : CfgImage) (r : W512) (l : LaunchRec) (taskid : W64) : SFaces :=
  let both := fun (f : SFaces) (c : Ctl) (v : W64) => f.mod (.ctl c) (fun n _ => Faced.both (v.setWidth n))
  let put := fun (f : SFaces) (g : DbgReg) (v : W64) => f.mod g (fun n x => Faced.put x (v.setWidth n))
  let f0 := both (both (both SFaces.reset .tvec cfg.tvec) .dceil cfg.dceil) .srseed cfg.srseed
  let f1 := (List.range 16).foldl (fun f k =>
    put f (.mb (BitVec.ofNat 4 k)) (if k = 0 then recFp r else l.extractLsb' (1024 + 64 * k) 64)) f0
  let f2 := put (put f1 (.ctl .gear) (if recGear r then 1 else 0)) (.ctl .opreq) (BitVec.ofNat 64 (recOp r))
  let f3 := put (put f2 (.ctl .rank) (l.extractLsb' 384 64)) (.ctl .taskid) taskid
  put (put f3 (.ctl .jobid) ((recJob r).setWidth 64)) (.ctl .asid) ((recAsid r).setWidth 64)

/-- A member as its launch leaves it (R73, R170, R224, R251, R335). -/
def launchMember (cfg : CfgImage) (id : Ident) (l : LaunchRec) (code : Code) (tbl : List (Fin 8 × Table)) (rows : List W32) :
    Member :=
  let r := id.record
  let taskid := BitVec.ofNat 64 (id.index * 2 ^ 60) + id.recAddr
  let sem : Vector (BitVec 24) 256 := Vector.ofFn (fun n => if n.val < 192 then l.extractLsb' (2048 + 32 * n.val) 24 else 0)
  { Member.reset with
    su := { Su.reset with pc := recSpc r }
    f := (launchFaces cfg r l taskid).exchange false
    code := code
    sems := { Sems.reset with val := sem, p := sem }
    tbl := tbl.foldl (fun v e => v.set e.1.val e.2) (Vector.replicate 8 Table.reset)
    rows := (rows.foldl (fun (a : Nat × SMap W32) w => (a.1 + 1, SMap.set 0 a.2 a.1 w)) (0, [])).2
    vbank := bankSeed (cfg.srseed.setWidth 32 ^^^ (cfg.srseed >>> 32).setWidth 32)
    id := id }

/-- The tiles that hold a member of a gang. -/
def State.gangTiles (s : State) (g : Nat) : List TileId :=
  (List.finRange 128).filter (fun t => (s.tile t).st != .idle && (s.tile t).m.id.gang == g)

/-- A tile has been claimed and has not been given its member. -/
def State.fresh (s : State) (t : TileId) : Bool :=
  (s.tile t).st == .claimed && !(s.dies[(dieOfTile t).val]).fifo.contains t

/-- A failure after the claim (R336): the event, FAILS, the finish, and the block's tiles stay idle. -/
def State.gangFails (s : State) (d : DieId) (id : Ident) (reason : Nat) : State :=
  let orig := match s.gangs.find? (fun g => g.id == id.gang) with | some g => g.orig | none => 0
  let s1 := (s.gangTiles id.gang).foldl (fun st t => st.modTile t Tile.vacate) s
  let s2 := { s1 with gangs := s1.gangs.filter (fun g => g.id != id.gang) }
  ((s2.launchFail d id.recAddr.toNat reason).failRec id.record).finishWhole id.record orig

/-- Every member of a gang launches (R170, R335, R367): a record with GEAR = 1 asks for the launch class first. A cancel that reached
a claimed tile stays pending (R349). -/
def State.launchGang (s : State) (t : TileId) : State :=
  let id := (s.tile t).m.id
  let x := s.loadGang t id.record
  match x.2 with
  | .wait => x.1
  | .fail n =>
    let orig := match x.1.gangs.find? (fun g => g.id == id.gang) with | some g => g.orig | none => 0
    if x.1.finishHeld id.record orig then x.1 else x.1.gangFails (dieOfTile t) id n
  | .ok l code tbl rows =>
    (x.1.gangTiles id.gang).foldl (fun st u =>
      let iu := (st.tile u).m.id
      let s1 := st.modTile u (fun y => { y with
        m := { launchMember st.cfg iu l code tbl rows with rep := { Reports.reset with cancel := y.m.rep.cancel } }, oc := [] })
      (s1.takeTile u).startOrWait u (if recGear iu.record then some st.cfg.launchClass else none)) x.1

/-- MEMBER_LAUNCH (R335). -/
def execMemberLaunch (t : TileId) (s : State) : Ans :=
  .next (if s.fresh t && !recCv (s.tile t).m.id.record && s.seize.st == .none then s.launchGang t else s)

/-- RESTORE (R388): the member of a continuation is restored from its slot. -/
def execRestore (t : TileId) (s : State) : Ans :=
  .next (
    let id := (s.tile t).m.id
    if s.fresh t && recCv id.record && s.seize.st == .none then s.restoreMember t (recCkey id.record + id.index) else s)

/-! ### Dispatch (R336 to R339, R428) -/

/-- A tile by number. -/
def tileNo (n : Nat) : TileId := ⟨n % 128, Nat.mod_lt _ (by decide)⟩

/-- The aligned blocks of a shape on a die (R337). -/
def blocksOf (d : DieId) (code : Nat) : List (List TileId) :=
  (List.range (64 / gangSize code)).map (fun k =>
    (List.range (gangSize code)).map (fun i => tileNo (64 * d.val + k * gangSize code + i)))

/-- A queue is in a tile's home set (R338). -/
def State.inHome (s : State) (t : TileId) (q : BitVec 12) : Bool :=
  s.cfg.homes.any (fun e => e.1 == t && (e.2.take 8).contains q)

/-- EFF of a tile's island (R339, R368). -/
def State.eff (s : State) (t : TileId) : Nat := fld ((s.tile t).isl.nextCurve.getD (s.tile t).isl.curve) 70 8

/-- choice (R339): where the load is light the lowest sum of EFF, then the lowest first tile. -/
def State.choice (s : State) (light : Bool) (bs : List (List TileId)) : List TileId :=
  let key := fun (b : List TileId) => if light then b.foldl (fun a t => a + s.eff t) 0 else 0
  match bs with
  | [] => []
  | b :: rest => rest.foldl (fun best c => if key c < key best then c else best) b

/-- The idle tiles of a die that are not withdrawn (R49, R338). -/
def State.idleTiles (s : State) (d : DieId) : List TileId :=
  ((List.finRange 128).filter (fun t => dieOfTile t == d)).filter (fun t => (s.tile t).st == .idle && !s.tfail.getLsbD t.val)

/-- Claims the tiles of a block for a gang, those of its members that `use` names (R338, R386). Nothing of an earlier recording is left
(R396). -/
def State.claim (s : State) (b : List TileId) (g : Gang) (r : W512) (addr : W64) (use : Nat → Bool) : State :=
  (List.range b.length).foldl (fun st j =>
    match b[j]? with
    | some t => if use j then
        st.modTile t (fun x => { x with
          st := .claimed, m := { Member.reset with id := ⟨r, addr, j, g.id, none⟩ }, dbg := { x.dbg with trace := Trace.reset } })
      else st
    | none => st) s

/-- The slot of a member of a gang holds an image that waits to be restored. -/
def State.waiting (s : State) (key j : Nat) : Bool := s.slots.any (fun e => e.1 == key + j && !e.2.restored)

/-- A popped record claims its block (R338): a new gang, or the members that a continuation's slots hold. -/
def State.claimRec (s : State) (b : List TileId) (r : W512) (addr orig : Nat) : State :=
  if recCv r then
    match s.gangs.find? (fun g => g.key == some (recCkey r)) with
    | some g =>
      let s1 := { s with gangs := s.gangs.map (fun (x : Gang) => if x.id == g.id then { x with since := s.fleet } else x) }
      s1.claim b g r (BitVec.ofNat 64 addr) (fun j => s.waiting (recCkey r) j)
    | none => s
  else
    let g : Gang := ⟨s.nextGang, r, BitVec.ofNat 64 addr, orig, gangSize (recGang r), 0, none, s.fleet⟩
    { s with gangs := s.gangs ++ [g], nextGang := s.nextGang + 1 }.claim b g r (BitVec.ofNat 64 addr) (fun _ => true)

/-- What a round holds: its idle tiles and those held for a gang (R338). -/
structure Round where
  idle : List TileId
  held : List TileId
  light : Bool
  deriving DecidableEq, Repr

/-- A choice of a dispatcher is logged (R338, R397). -/
def State.logChoice (s : State) (d : DieId) (q : BitVec 12) (slot : Nat) (b : List TileId) : State :=
  s.modDie d (fun x => { x with choices := x.choices ++ [⟨s.fleet, q, slot, b.headD 0⟩] })

/-- One queue in a dispatch round (R338); the fuel is the number of its records. A head that cannot be read or finished yet holds its
tiles. -/
def State.roundQueue (s : State) (d : DieId) (q : BitVec 12) : Nat → Round → State × Round
  | 0, x => (s, x)
  | f + 1, x =>
    match s.queueHead q with
    | none => (s, x)
    | some a =>
      let rd := s.readAt a 64
      let wait := (rd.1, { x with held := x.held ++ x.idle.filter (fun t => s.inHome t q) })
      match rd.2 with
      | .poison => State.roundQueue ((rd.1.popQueue q).launchFail d a 1) d q f x
      | .wait | .pending | .dropped => wait
      | .ok bs =>
        let r : W512 := BitVec.ofNat 512 (natOfBytes bs)
        let orig := SMap.get a s.ms.orig a
        if recBad2 r then
          if rd.1.finishHeld r orig then wait
          else State.roundQueue ((((rd.1.popQueue q).launchFail d a 2).failRec r).finishWhole r orig) d q f x
        else
          let free := fun (b : List TileId) => b.all (fun t => x.idle.contains t && !x.held.contains t && s.inHome t q)
          match (blocksOf d (recGang r)).filter free with
          | [] => wait
          | bs =>
            let b := s.choice x.light bs
            let s1 := rd.1.popQueue q
            if s1.recCancelled r orig then
              if rd.1.finishHeld r orig then wait else State.roundQueue (s1.discardRec r orig) d q f x
            else State.roundQueue ((s1.logChoice d q a b).claimRec b r a orig) d q f
              { x with idle := x.idle.filter (fun t => !b.contains t) }

/-- Puts a queue in its place: PRIO descending, then q ascending (R338). -/
def State.queueInsert (s : State) (q : BitVec 12) : List (BitVec 12) → List (BitVec 12)
  | [] => [q]
  | x :: xs => if fld (s.qcbOf x) 0 3 < fld (s.qcbOf q) 0 3 then q :: x :: xs else x :: s.queueInsert q xs

/-- The queues in service in the order of a round. -/
def State.queueOrder (s : State) : List (BitVec 12) :=
  (s.ms.qcb.map (fun e => BitVec.ofNat 12 e.1)).foldl (fun l q => if qOn (s.qcbOf q) then s.queueInsert q l else l) []

/-- The frozen gangs are placed before any queue pops (R393), the largest first, each on any free block of its shape. -/
def State.placeFrozen (s : State) (d : DieId) : List Nat → State
  | [] => s
  | id :: ids =>
    match s.gangs.find? (fun g => g.id == id) with
    | none => State.placeFrozen { s with contQ := s.contQ.erase id } d ids
    | some g =>
      let idle := s.idleTiles d
      match (blocksOf d (recGang g.record)).filter (fun b => b.all (fun t => idle.contains t)), g.key with
      | b :: bs, some key =>
        let f := s.tickFree
        let c := (b :: bs).getD ((Config.freeWord f.1).toNat % (bs.length + 1)) b
        let r := setFld (setFld g.record 473 1 1) 480 32 key
        let s1 := { f.2 with
          contQ := s.contQ.erase id
          gangs := f.2.gangs.map (fun (y : Gang) => if y.id == id then { y with since := s.fleet } else y) }
        State.placeFrozen ((s1.logChoice d (recQueue r) g.recAddr.toNat c).claim c g r g.recAddr (fun j => s.waiting key j)) d ids
      | _, _ => State.placeFrozen s d ids

/-- The whole round of a die (R338, R339). -/
def State.dispatch (s : State) (d : DieId) : State :=
  let s0 := s.placeFrozen d s.contQ
  if s0.contQ.isEmpty then
    let idle := s0.idleTiles d
    (s0.queueOrder.foldl (fun (a : State × Round) q => a.1.roundQueue d q (qLen (a.1.qcbOf q)) a.2)
      (s0, ⟨idle, [], decide (16 ≤ idle.length)⟩)).1
  else s0

/-- DISPATCH_ROUND (R338, R428): once for each multiple of 64 fabric cycles, before the next cycle, die 0's round before die 1's. A
package whose images were rejected runs no launch (R407). -/
def execDispatchRound (d : DieId) (s : State) : Ans :=
  .next (
    if s.roundDue d && (d == 0 || !s.roundDue 0) then
      (s.dispatch d).modDie d (fun x => { x with round := s.fabric / 64 + 1 })
    else s)

/-! ### Queues and pools (R86, R88, R342) -/

/-- TASK_QUEUE_PUSH (R86, R342): a record on its way reaches its queue. -/
def execTaskQueuePush (k : Nat) (s : State) : Ans :=
  .next (match s.pushes[k]? with
    | some p => if s.frozen || s.pushHeld p.queue then s else { s with pushes := s.pushes.eraseIdx k }.pushOrHold p
    | none => s)

/-- The free stack and the bitmap of a pool cannot be written yet (R390). -/
def State.setupHeld (s : State) (p : BitVec 8) : Bool :=
  let c := s.pcbOf p
  poolOn c && s.ceilAll ((List.range ((4 * fld c 24 24 + fld c 24 24 / 8) / 65536 + 1)).map (fun k => poolStack c + 65536 * k))

/-- POOL_ENABLE (R88). -/
def execPoolEnable (p : BitVec 8) (s : State) : Ans :=
  .next (
    if s.ms.setup.contains p.toNat ∧ s.frozen = false ∧ s.setupHeld p = false then
      let s1 := if poolOn (s.pcbOf p) then s.poolSetup p else s
      { s1 with ms := { s1.ms with setup := s1.ms.setup.filter (fun x => x != p.toNat) } }
    else s)

/-- JOIN_PUSH_RETRY (R342): the oldest push that a queue refused is retried once the queue has room. -/
def execJoinPushRetry (q : BitVec 12) (s : State) : Ans :=
  .next (match s.ms.held.findIdx? (fun p => p.queue == q) with
    | some i => (match s.ms.held[i]? with
      | some p => if qRoom (s.qcbOf q) && !s.frozen && !s.pushHeld q then
          ({ s with ms := { s.ms with held := s.ms.held.eraseIdx i } }.pushQueue q p.record p.orig false).1
        else s
      | none => s)
    | none => s)

/-! ### Completion (R350) -/

/-- A channel of the copy unit has nothing to do. -/
def Channel.quiet (c : Channel) : Bool := c.runs.isEmpty && c.loadAt.isNone && c.pending.isNone

/-- Every queue of a retired member has reached its marker, and everything has landed (R350). -/
def State.allDone (s : State) (t : TileId) : Bool :=
  let m := (s.tile t).m
  m.su.wait == .retired && m.su.loads.isEmpty && m.su.stores.isEmpty && m.q == ⟨[], [], [], []⟩ && m.mu.isNone
    && m.ch.toList.all Channel.quiet && m.vu.cmd.isNone && m.vu.lq.isEmpty && m.vu.sq.isEmpty
    && s.dies.toList.all (fun d => d.ce.all (fun c => c.home != Owner.tile t 0))

/-- MEMBER_COMPLETE (R350): a live range is released line by line, and once none is left the member completes. -/
def execMemberComplete (t : TileId) (s : State) : Ans :=
  .next (
    if (s.tile t).suLive && s.allDone t then
      (match s.releaseRanges t with
      | .step s1 => s1
      | .held => s
      | .done s1 => if s1.endHeld t then s else s1.endMember t)
    else s)

/-! ### Pre-emption (R340, R348, R384 to R386) -/

/-- The first key from `k` on whose slots no gang holds. -/
def freeKey (gs : List Gang) (size : Nat) : Nat → Nat → Nat
  | 0, k => k
  | f + 1, k =>
    match gs.find? (fun g => match g.key with | some q => decide (q < k + size) && decide (k < q + g.size) | none => false) with
    | some g => freeKey gs size f (g.key.getD 0 + g.size)
    | none => k

/-- Firmware assigns a gang its slots at its first pre-emption or freeze (R386): which ones is left open. -/
def State.assignKey (s : State) (id : Nat) : State :=
  match s.gangs.find? (fun g => g.id == id) with
  | some g =>
    if g.key.isSome then s
    else
      let f := s.tickFree
      let k := freeKey s.gangs g.size (s.gangs.length + 1) ((Config.freeWord f.1).toNat % 65536)
      { f.2 with gangs := f.2.gangs.map (fun (x : Gang) => if x.id == id then { x with key := some k } else x) }
  | none => s

/-- The context key of a gang. -/
def State.keyOf (s : State) (id : Nat) : Nat := ((s.gangs.find? (fun g => g.id == id)).bind (fun g => g.key)).getD 0


/-- Once no tile holds a member of a pre-empted gang, its continuation enters the tail of its queue (R340, R348). -/
def State.continueGang (s : State) (id : Nat) : State :=
  match s.gangs.find? (fun g => g.id == id) with
  | some g =>
    if (s.gangTiles id).isEmpty then
      let r := setFld (setFld g.record 473 1 1) 480 32 (g.key.getD 0)
      s.pushOrHold ⟨r, recQueue r, g.orig⟩
    else s
  | none => s

/-- Saves the stopped member of a tile in its slot, and a gang whose last member this is goes on (R384, R386); it waits while a part
of it or the continuation cannot be written (R390). -/
def State.savePreempted (s : State) (t : TileId) : State :=
  let m := (s.tile t).m
  let s1 := s.assignKey m.id.gang
  let k := s1.keyOf m.id.gang + m.id.index
  let c := s1.qcbOf (recQueue m.id.record)
  if s1.saveHeld m k (if (s1.gangTiles m.id.gang).all (fun u => u == t) && qRoom c then [qSlot c (fld c 64 32)] else []) then s1
  else (s1.saveMember t k).continueGang m.id.gang

/-- PREEMPT (R380, R384): the member stops at a boundary; once its accesses have landed its image is saved and the tile is
idle. A member that a freeze stops stays on its tile (R392). -/
def execPreempt (t : TileId) (s : State) : Ans :=
  .next (
    let x := s.tile t
    let s0 := if x.replays && x.m.rep.preempt then s.unparkLive t else s
    let m := (s0.tile t).m
    let halted := x.st == .running && x.dbg.hst != .running
    let stop := (m.rep.preempt && (halted || (x.suLive && (m.su.wait.boundary || m.su.wait == .retired))) : Bool)
    let s1 := if stop then
        (if m.su.wait = .retired then s0 else s0.abandon t).modTile t (fun y => { y with st := .stopped })
      else s0
    if (s1.tile t).st = .stopped ∧ s1.seize.st = .none ∧ s1.landed t = true then
      s1.savePreempted t
    else s1)

/-- The records at queue heads that no die can claim (R340), as a round finds them: a head that can be placed takes its tiles, one that
cannot holds those of its queue, on each die (R338). -/
def State.waitingHeads (s : State) : List W512 :=
  let start := fun (d : DieId) => s.idleTiles d
  (s.queueOrder.foldl (fun (a : (List TileId × List TileId) × List W512) q =>
    match s.queueHead q with
    | none => a
    | some slot =>
      let r : W512 := BitVec.ofNat 512 (s.peek slot 64)
      let home := fun (l : List TileId) => l.filter (fun t => s.inHome t q)
      let place := fun (d : DieId) (l : List TileId) =>
        (blocksOf d (recGang r)).find? (fun b => b.all (fun t => (home l).contains t))
      if recBad2 r then a
      else match place 0 a.1.1, place 1 a.1.2 with
        | some b, _ => ((a.1.1.filter (fun t => !b.contains t), a.1.2), a.2)
        | none, some b => ((a.1.1, a.1.2.filter (fun t => !b.contains t)), a.2)
        | none, none => ((a.1.1.filter (fun t => !s.inHome t q), a.1.2.filter (fun t => !s.inHome t q)), a.2 ++ [r]))
    ((start 0, start 1), [])).2

/-- ROT of the launch record that a record names (R333, R340). -/
def State.rotates (s : State) (r : W512) : Bool :=
  match (s.dispRead (engineTile 0) .ce (recAsid r) .read false (recLrec r + 46) 1).2 with
  | .ok bs => (natOfBytes bs).testBit 4
  | .wait | .bad => false

/-- Puts a gang in its place by the start of its residency. -/
def gangInsert (g : Gang) : List Gang → List Gang
  | [] => [g]
  | x :: xs => if g.since.toNat < x.since.toNat then g :: x :: xs else x :: gangInsert g xs

/-- Pre-empts the oldest resident gangs of a launch, up to `w` (R340). -/
def State.rotateLaunch (s : State) (job : BitVec 12) (launch w : Nat) : State :=
  let old := s.gangs.filter (fun g => recLevel g.record 0 == launch && recJob g.record == job
    && decide (g.since.toNat + 2000000 ≤ s.fleet.toNat) && !(s.gangTiles g.id).isEmpty
    && (s.gangTiles g.id).all (fun t => (s.tile t).st == .running))
  ((old.foldl (fun l g => gangInsert g l) []).take w).foldl (fun st g =>
    (st.gangTiles g.id).foldl (fun a t => a.modM t (fun m => { m with rep := { m.rep with preempt := true } })) st) s

/-- ROTATION_QUANTUM (R340): once at each multiple of 2,000,000 ns, before fleet time goes on. -/
def execRotationQuantum (s : State) : Ans :=
  .next (
    let n := s.fleet.toNat / 2000000
    if s.fleet.toNat % 2000000 ≠ 0 ∨ n < s.fleetSync.rotated then s
    else
      let s1 := { s with fleetSync := { s.fleetSync with rotated := n + 1 } }
      if s.seize.st ≠ .none then s1
      else
        let heads := s1.waitingHeads.filter (fun r => s1.rotates r)
        let names := (heads.map (fun r => (recJob r, recLevel r 0))).dedup
        names.foldl (fun st n => st.rotateLaunch n.1 n.2
          (heads.filter (fun r => (recJob r, recLevel r 0) == n)).length) s1)

/-! ### The tide table (R354, R355, R427) -/

/-- c(FIN) or c(EIN) (R354): arrivals since `tide.go`. -/
def arrivals (now base : W32) : Nat := (now - base).toNat

/-- The three tests of a head entry (R354). -/
def State.tideTests (s : State) (d : DieId) (h : W512) : Bool × Bool × Bool :=
  let x := s.dies[d.val]
  let t := x.tide
  let need := fld h 72 8 + 1
  let fin := arrivals x.rc[(r6 (t.cfg.extractLsb' 0 6)).val] t.fbase
  let ein := arrivals x.rc[(r6 (t.cfg.extractLsb' 8 6)).val] t.ebase
  let inputs :=
    if tideKind h = 0 ∧ t.cfg.getLsbD 7 = true then decide (need ≤ fin)
    else if tideKind h = 1 ∧ t.cfg.getLsbD 14 = true then decide (need ≤ ein)
    else true
  (inputs, tideKind h ≠ 0 || decide (tideSlots h ≤ t.free), decide (tideCredit h ≤ t.credits))

/-- The table takes the head's slots and credits and advances (R354). -/
def State.tideAdvance (s : State) (d : DieId) (h : W512) : State :=
  s.modDie d (fun x => { x with tide := { x.tide with
    head := x.tide.head + 1
    free := if tideKind h = 0 then x.tide.free - tideSlots h else x.tide.free
    credits := x.tide.credits - tideCredit h } })

/-- A cycle in which the head is not dispatched is slack (R355): one counter at most. -/
def State.tideSlack (s : State) (d : DieId) (ts : Bool × Bool × Bool) : State :=
  s.modDie d (fun x => { x with tide :=
    if !ts.1 then { x.tide with slackIn := x.tide.slackIn + 1 }
    else if !ts.2.1 then { x.tide with slackSlot := x.tide.slackSlot + 1 }
    else if !ts.2.2 then { x.tide with slackCredit := x.tide.slackCredit + 1 }
    else x.tide })

/-- The copy of a template that a dispatch pushes (R354): TV, TIDX, TDIE and CTD. -/
def tideCopy (r : W512) (k : Nat) (d : DieId) : W512 := setFld (setFld (setFld (setFld r 472 1 1) 464 8 k) 463 1 d.val) 457 1 1

/-- What one fabric cycle of a running table does with its head entry (R349, R354, R427). A record that cannot be read, finished,
counted or pushed yet waits (R390). -/
def State.tideStep (s : State) (d : DieId) : State :=
  let x := s.dies[d.val].tide
  match x.entries[x.head]? with
  | none => s
  | some h =>
    let ts := s.tideTests d h
    if !(ts.1 && ts.2.1 && ts.2.2) then s.tideSlack d ts
    else
      let va : W64 := (h.extractLsb' 0 55).setWidth 64
      let rd := s.dispRead (engineTile d) .ce x.asid .read false va 64
      match rd.2 with
      | .wait => rd.1
      | .bad => (((rd.1.tideAdvance d h).launchFail d va.toNat 1).tideFinish d x.head)
      | .ok bs =>
        let r := tideCopy (BitVec.ofNat 512 (natOfBytes bs)) x.head d
        let orig := match (rd.1.translate (engineTile d) .ce x.asid va .read false).2 with | .pa a _ => a | .bad _ | .range => 0
        if rd.1.recCancelled r orig then
          if rd.1.finishHeld r orig then rd.1 else ((rd.1.tideAdvance d h).countRec r).finishWhole r orig
        else if qRoom (rd.1.qcbOf (recQueue r)) then
          if rd.1.submitHeld (recQueue r) r [] then rd.1
          else (((rd.1.tideAdvance d h).pushQueue (recQueue r) r orig false).1).countRec r
        else rd.1

/-- TIDE_DISPATCH (R354): one fabric cycle of a running table. What would count before its tests falls in the next cycle from here on. -/
def execTideDispatch (d : DieId) (s : State) : Ans :=
  .next (
    if s.tideDue d then
      let s1 := ((s.modDie d (fun y => { y with tide := { y.tide with cyc := y.tide.cyc + 1 } })).tideStep d).tideDone d
      { s1 with fab := { s1.fab with tides := s1.fab.tides.set d.val true } }
    else s)

/-- Credits reach the tide table of a die (R354): one that is neither LOADED nor RUNNING loses them. -/
def State.addCredits (s0 : State) (d : DieId) (n : Nat) : State :=
  let s := s0.tideTurn d
  let x := s.dies[d.val].tide
  if x.st = .loaded ∨ x.st = .running then
    s.modDie d (fun y => { y with tide := { y.tide with credits := min (y.tide.credits + n) 65535 } })
  else s.logEvent 0x0E (srcDie d) (evData 0 (d.val + n * 65536))

/-- TIDE_CREDIT_ARRIVAL (R354, R419): the next packet of the peer brings credits to the table of the link's die; a seized package
holds them for the restore. -/
def execTideCreditArrival (l : LinkId) (n : BitVec 16) (s : State) : Ans :=
  .next (
    let d := dieOfLink l
    let s1 := s.modLink l Link.accept
    if !s.links[l.val].up then s
    else if s.seize.st ≠ .none then s1.modDie d (fun y => { y with heldCredits := y.heldCredits + n.toNat })
    else s1.addCredits d n.toNat)

end Sys2Proof.Machine
end

