-- ==== Sys2Proof/Machine/Power.lean ====
section
/-! DEFINITION. The steps of power and of fleet time: timer, sample, the end of a gate, the ramp, re-plans, the current arbiter
and thermal limits (R79, R360, R364 to R367, R371, R372, R375 to R378). -/

namespace Sys2Proof.Machine

/-! ### Fleet time (R375, R376, R378) -/

/-- TIMER (R378): the configured period has expired since it last did. -/
def execTimer (t : TileId) (s : State) : Ans :=
  .next (
    let x := s.tile t
    let n := s.fleet.toNat / s.cfg.timerPeriod
    if s.cfg.timerPeriod ≠ 0 ∧ x.st = .running ∧ x.timed < n then
      s.modTile t (fun y => { y with timed := n, m := { y.m with rep := { y.m.rep with timer := true } } })
    else s)

/-- A sample probe (R376): the cycles of the interval and a count. -/
def smpWord (total n : Nat) : W64 := BitVec.ofNat 64 (total % 2 ^ 32 * 2 ^ 32 + n % 2 ^ 32)

/-- SAMPLE (R375): the next edge of a resident tile after a multiple of 10,000 ns. -/
def execSample (t : TileId) (s : State) : Ans :=
  .next (
    let x := s.tile t
    let n := s.fleet.toNat / 10000
    if s.owesSample t then
      let gear := x.m.ctl .gear
      let s1 := s.modTile t (fun y => { y with
        sampled := n
        smp := (0, 0, 0, 0)
        m := { y.m with ctr := { y.m.ctr with
          smpIssue := smpWord y.smp.1 y.smp.2.1
          smpMem := smpWord y.smp.1 y.smp.2.2.1
          smpBusy := smpWord y.smp.1 y.smp.2.2.2
          smpSeq := y.m.ctr.smpSeq + 1 } } })
      if gear.getLsbD 15 then s1.post t (BitVec.ofNat 8 (192 + fld gear 8 6)) 1 ⟨7, BitVec.ofNat 7 t.val, 0⟩ else s1
    else s)

/-! ### Gates and ramps (R360, R371, R372, R377) -/

/-- CLOCK_RESUME (R360): the gate ends, unless a re-plan holds the fast clock (R377). -/
def execClockResume (t : TileId) (s : State) : Ans :=
  .next (
    let x := s.tile t
    if x.gated && !(x.isl.held && x.fast) then s.modTile t (fun y => { y with gated := false }) else s)

/-- The fleet time of the end of a step or settle has come. -/
def State.reached_ (s : State) (w : W64) : Bool := decide (w.toNat ≤ s.fleet.toNat)

/-- RAMP_VOLTAGE_STEP (R371, R377): 10 mV of the fast rail, and the regulator makes its next pass; where none is due, a step of
the die's low rail. -/
def execRampVoltageStep (t : TileId) (s : State) : Ans :=
  .next (
    let x := (s.tile t).isl
    let d := dieOfTile t
    let y := s.dies[d.val]
    let step := fun (mv : Nat) => (s.modTile t (fun z => { z with isl := { z.isl with mv := mv } })).rampPass t
    if x.reg = .stepUp ∧ s.reached_ x.until_ = true then step (x.mv + 10)
    else if x.reg = .stepDown ∧ s.reached_ x.until_ = true then step (x.mv - 10)
    else if y.lowMv ≠ y.lowTarget ∧ s.reached_ y.lowUntil = true then
      s.modDie d (fun z => { z with
        lowMv := if z.lowMv < z.lowTarget then min (z.lowMv + 10) z.lowTarget else max (z.lowMv - 10) z.lowTarget
        lowUntil := s.fleet + 1000 })
    else s)

/-- RAMP_SETTLE_END (R371, R372): the clock stands at the new point; one gate; the arrival post; the next pass. -/
def execRampSettleEnd (t : TileId) (s : State) : Ans :=
  .next (
    let x := (s.tile t).isl
    match x.reg with
    | .settle p =>
      if s.reached_ x.until_ then
        let here := decide (p = x.target)
        let s1 := s.modTile t (fun y => { y with
          gated := y.gated || y.fast
          isl := { y.isl with point := p, reg := .idle, armed := if here then none else y.isl.armed } })
        let s2 := match x.armed with
          | some n => if here then s1.arrival t n else s1
          | none => s1
        s2.rampPass t
      else s
    | .idle | .stepUp | .stepDown => s)

/-- The codes of a curve record are non-decreasing and at most 30 (R368). -/
def curveOk (c : BitVec 128) : Bool :=
  (List.range 14).all (fun n => decide (fld c (5 * n) 5 ≤ 30)) && (List.range 13).all (fun n => decide (fld c (5 * n) 5 ≤ fld c (5 * n + 5) 5))

/-- A re-plan reaches an island (R377): where its rail lies below the new curve the regulator acts as soon as it is free. -/
def State.replanIsland (s : State) (t : TileId) (c : BitVec 128) : State :=
  let x := (s.tile t).isl
  let s1 := s.modTile t (fun y => { y with isl := { y.isl with nextCurve := some c } })
  if x.mv < curveMv c x.point ∧ x.reg = .idle then s1.rampPass t else s1

/-- REPLAN (R377): EFF is the code of `op10`; each re-plan logs one event. -/
def execReplan (r : Replan) (s : State) : Ans :=
  .next (match r with
    | .island t c =>
      if curveOk c then
        (s.replanIsland t (BitVec.ofNat 128 (fld c 0 70 + fld c 50 5 * 2 ^ 70))).logEvent 0x11 srcFw (evData 0 t.val)
      else s
    | .low d mv =>
      if 420 ≤ mv ∧ mv ≤ 520 then
        (s.modDie d (fun x => { x with lowTarget := mv, lowUntil := s.fleet + 1000 })).logEvent 0x11 srcFw (evData 0 127)
      else s)

/-! ### The current arbiter (R364, R365, R367) -/

/-- The units that a tile's grant takes. -/
def Tile.units (x : Tile) : Nat := match x.grant with | some c => classCost c | none => 0

/-- The units that the tiles of a die hold. -/
def State.unitsHeld (s : State) (d : DieId) : Nat :=
  ((List.finRange 128).filter (fun t => dieOfTile t == d)).foldl (fun a t => a + (s.tile t).units) 0

/-- The class that a tile in the FIFO asks for: a launch or restore before its first instruction, or `pwr.acq`. -/
def Tile.asks (x : Tile) : Option (BitVec 3) :=
  if x.st = .claimed then x.m.id.cls
  else
    match x.m.su.wait with
    | .acq c => some c
    | .no | .again _ | .drain .. | .waita .. | .barWait .. | .trap .. | .eret _ | .retired => none

/-- Reassigns sunk grants, lowest tile first, until `need` units have come free (R364). -/
def State.reassign (s : State) (d : DieId) : List TileId → Nat → State
  | [], _ => s
  | t :: ts, need =>
    if need = 0 then s
    else if dieOfTile t = d ∧ (s.tile t).sunk = true ∧ (s.tile t).grant.isSome = true then
      State.reassign ((s.logReplay t (.grant none)).modTile t (fun x => { x with grant := none, reassigned := true })) d ts
        (need - (s.tile t).units)
    else State.reassign s d ts need

/-- The grant goes to the head of the FIFO (R364, R365, R367). -/
def State.giveGrant (s : State) (d : DieId) (t : TileId) (c : BitVec 3) : State :=
  let s1 := s.modDie d (fun x => { x with fifo := x.fifo.tail })
  let s2 := (s1.logReplay t (.grant (some c))).modTile t (fun x => { x with grant := some c })
  if (s.tile t).st = .claimed then s2.modTile t (fun x => { s2.beginCounts x with st := .running })
  else s2.modM t (fun m => m.retire 4)

/-- ARBITER_GRANT (R364): the head is granted where the free units cover it, or would with the grants of sunk tiles. -/
def execArbiterGrant (d : DieId) (s : State) : Ans :=
  .next (match s.dies[d.val].fifo with
    | [] => s
    | t :: _ =>
      match (s.tile t).asks with
      | none => s.modDie d (fun x => { x with fifo := x.fifo.tail })
      | some c =>
        if (s.tile t).st = .claimed ∧ s.seize.st ≠ .none then s
        else
        let free := s.cfg.budget - s.unitsHeld d
        let sunk := ((List.finRange 128).filter (fun u => dieOfTile u == d && (s.tile u).sunk)).foldl (fun a u => a + (s.tile u).units) 0
        if classCost c ≤ free then s.giveGrant d t c
        else if classCost c ≤ free + sunk then (s.reassign d (List.finRange 128) (classCost c - free)).giveGrant d t c
        else s)

/-! ### Thermal limits (R79) -/

/-- THERMAL (R79): `level` is 0 below the limits, 1 above the first, 2 above the second; each step in or out logs one
event. -/
def execThermal (stack : Fin 8) (level : BitVec 2) (s : State) : Ans :=
  .next (
    let x := s.shelves[stack.val]
    let hot := decide (1 ≤ level.toNat)
    let cap := decide (2 ≤ level.toNat)
    let ev := fun (st : State) (on : Bool) (second : Bool) =>
      st.logEvent 0x03 (srcShelf stack.val) (evData 0 (stack.val + on.toNat * 256 + second.toNat * 512))
    let s1 := { s with shelves := s.shelves.set stack.val ⟨hot, cap⟩ }
    let s2 := if x.hot ≠ hot then ev s1 hot false else s1
    if x.capped ≠ cap then ev s2 cap true else s2)

end Sys2Proof.Machine
end

