-- ==== Sys2Proof/Machine/Host.lean ====
section
/-! DEFINITION. The host ports: training, locks, registers, the register window, the aperture and the messages POST, MAIL, INTR, SUBMIT, ATTEST and
LINKOWN (R82, R88, R317, R329, R331, R402 to R408). -/

namespace Sys2Proof.Machine

/-! ### Locks and ports (R402, R404) -/

/-- The port holds a host lock (R403, R404). -/
def State.holds (s : State) (p : PortId) (n : Fin 32) : Bool := s.hlock[n.val] == some p

/-- A port is up (R402). -/
def State.portUp (s : State) (p : PortId) : Bool := (s.ports[p.val]).lanes != 0

/-- Some port is up. -/
def State.anyPort (s : State) : Bool := s.portUp 0 || s.portUp 1

/-- HOST_NOLOCK (R403, R410). -/
def State.noLock (s : State) (p : PortId) (off : Nat) : State := s.logEvent 0x12 (srcPort p) (evData off p.val)

/-- The place of a host lock. -/
def lockNo (n : BitVec 5) : Fin 32 := ⟨n.toNat, n.isLt⟩

/-- A value returned to the host. -/
def State.answer (s : State) (p : PortId) (bs : List Byte) (abort : Bool) : State :=
  s.modPort p (fun x => { x with out := x.out ++ [bs], abort := abort })

/-- A host lock can be used: a package whose images were rejected exposes the one of the upload buffer (R407). -/
def State.lockOpen (s : State) (i : Fin 32) : Bool := s.fw.valid || i == 0

/-- The reads of one lock in one fabric cycle go port 0's first (R404). -/
def State.lockTurn (s : State) (p : PortId) (i : Fin 32) : State :=
  if p = 0 then s.inCycle (fun f => !f.locks.contains i.val)
  else { s with fab := { s.fab with locks := i.val :: s.fab.locks } }

/-- The read of a host lock (R404): 1, and the port owns it, where the lock is free or the port's own. -/
def State.takeLock (s0 : State) (p : PortId) (i : Fin 32) : State :=
  let s := s0.lockTurn p i
  if s.hlock[i.val] = none ∨ s.hlock[i.val] = some p then
    { s with hlock := s.hlock.set i.val (some p) }.answer p (bytesOfNat 8 1) false
  else s.answer p (bytesOfNat 8 0) false

/-- HLOCK_READ (R404). -/
def execHlockRead (p : PortId) (n : BitVec 5) (s0 : State) : Ans :=
  .next (if !s0.portUp p || !s0.lockOpen (lockNo n) then s0 else s0.takeLock p (lockNo n))

/-- HLOCK_WRITE (R404). -/
def execHlockWrite (p : PortId) (n : BitVec 5) (v : W64) (s : State) : Ans :=
  .next (
    let i := lockNo n
    if s.portUp p && s.lockOpen i && s.holds p i && v == 0 then { s with hlock := s.hlock.set i.val none } else s)

/-- HOST_PORT_TRAIN (R393, R402, R404): x16, x8 or down. A port that goes down frees its locks; during a freeze a narrower or
lost port makes it late, and a trained port lets a holding freeze go on. -/
def execHostPortTrain (p : PortId) (lanes : BitVec 5) (s : State) : Ans :=
  .next (
    let n := lanes.toNat
    let old := (s.ports[p.val]).lanes
    if n ≠ 16 ∧ n ≠ 8 ∧ n ≠ 0 then s
    else
      let s1 := s.modPort p (fun x => { x with
        lanes := n, busy := x.busy && decide (n ≠ 0), work := if n = 0 then none else x.work })
      let s2 := if n = 0 ∧ old ≠ 0 then
          let f := s1.tickFree
          { f.2 with hlock := vmap f.2.hlock (fun h => if h = some p then none else h) }.logEvent 0x12 (srcPort p)
            (evData (Config.freeWord f.1).toNat (p.val + 512))
        else s1
      let late := (s.seize.st == .stopping || s.seize.st == .writing) && decide (n < old)
      let st := if s.seize.st = .writing ∧ s2.anyPort = false then Freeze.holding
        else if s.seize.st = .holding ∧ s2.anyPort = true then Freeze.writing else s.seize.st
      { s2 with seize := { s2.seize with st := st, late := s2.seize.late || late } })

/-! ### The aperture (R403, R406) -/

/-- What a host access comes to. -/
inductive HostRes where
  | ok (bs : List Byte)
  | wait
  | poison (a : Nat)
  deriving DecidableEq, Repr

/-- Reads physical pieces for the host. -/
def State.hostReads (s : State) : List (Nat × Nat) → State × HostRes
  | [] => (s, .ok [])
  | (a, n) :: ps =>
    let r := s.readAt a n
    match r.2 with
    | .ok bs =>
      let rest := State.hostReads r.1 ps
      (rest.1, match rest.2 with | .ok more => .ok (bs ++ more) | x => x)
    | .poison => (r.1, .poison a)
    | .wait | .pending | .dropped => (r.1, .wait)

/-- Writes physical pieces for the host (R329, R403), behind those of the port that still wait (R406); those that have to wait stay with
the port. Answers whether all have landed. -/
def State.hostWrites (s : State) (p : PortId) (ws : List (Nat × List Byte)) : State × Bool :=
  if (s.ports[p.val]).wr ≠ [] then (s.modPort p (fun x => { x with wr := x.wr ++ ws }), false)
  else
    let w := s.outsidePut (srcPort p) ws
    (w.1.modPort p (fun x => { x with wr := w.2 }), w.2.isEmpty)

/-- A physical range touches a reserved address, or a shelf window. -/
def touches (k : Region → Bool) (a n : Nat) : Bool := k (regionOf a) || k (regionOf (a + n - 1))

/-- A reserved region. -/
def Region.isReserved : Region → Bool
  | .reserved => true
  | .dram | .shelf _ _ | .host _ => false

/-- A shelf window. -/
def Region.isShelf : Region → Bool
  | .shelf _ _ => true
  | .dram | .reserved | .host _ => false

/-! ### The register window (R90, R394, R401, R403, R405) -/

/-- A record of the wait-record ring (R401). -/
def WaitRec.bits (r : WaitRec) : BitVec 256 :=
  r.time ++ r.waited ++ r.by_.pseq ++ 0#8 ++ r.by_.pcl ++ r.by_.ptile ++ r.sem ++ 0#37 ++ r.wseq

/-- HST of a debug block (R394). -/
def Hst.code : Hst → BitVec 2
  | .running => 0
  | .liveHead => 1
  | .replayHalt => 2
  | .replaying => 3

/-- The control word of a debug block (R394). -/
def Dbg.control (d : Dbg) : W64 := (0 : BitVec 56) ++ d.hst.code ++ 0#3 ++ BitVec.ofBool d.hreq ++ BitVec.ofBool d.recording ++ BitVec.ofBool d.dm

/-- The record of a wait that has not passed, as a read of the debug window finds it (R401): PCL 15, and what it has waited so far. -/
def State.pendingWait (s : State) (t : TileId) (sem : BitVec 8) (c : Cmd) : Option WaitRec :=
  c.since.map (fun k =>
    ⟨s.fleet, BitVec.ofNat 32 (min ((s.tile t).m.ctr.cycle - k) (2 ^ 32 - 1)), ⟨15, 0, 0⟩, sem, c.seq⟩)

/-- The waits of a tile that have been tested and have not passed (R401): those of the commands at the heads of the engines, and the
triggers of `carm`, which name no semaphore (log 36). -/
def State.pendingWaits (s : State) (t : TileId) : List WaitRec :=
  (allSites.filterMap (s.tile t).m.headOf).filterMap (fun c => c.wait.bind (fun w => s.pendingWait t w.sem c))
    ++ (s.dies.toList.flatMap (fun d => d.ce)).filterMap (fun r =>
      match r.cmd.op with
      | .carm .. => if r.home = .tile t 0 ∧ r.progress = 0 then s.pendingWait t 0 r.cmd else none
      | _ => none)

/-- A dword of a tile's debug window (R394, R401, R403): the control word, then the ring. DESIGN CHOICE (log 114): the records follow
the control word at offset 8, the oldest first, and after them the pending ones. -/
def State.debugDword (s : State) (t : TileId) (off : Nat) : W64 :=
  let d := (s.tile t).dbg
  if off = 0 then d.control
  else match (d.waits ++ s.pendingWaits t)[(off - 8) / 32]? with
    | some r => r.bits.extractLsb' ((off - 8) % 32 * 8) 64
    | none => 0

/-- A dword of the register window (R403), read by a port; none for what a package whose images were rejected does not expose (R407).
DESIGN CHOICE (log 114): the identity and status are a free value, and an offset that the table leaves out reads 0. -/
def State.bar0Dword (s : State) (p : PortId) (off : Nat) : Option W64 :=
  let x := s.ports[p.val]
  if off < 0x1000 then some (Config.freeWord s.free)
  else if 0x10000 ≤ off ∧ off < 0x30000 then some (s.shelfDword 0 (off - 0x10000 + 0x40000))
  else if 0x80000 ≤ off ∧ off < 0x180000 then some (BitVec.ofNat 64 (numAt s.upload (off - 0x80000) 8))
  else if !s.fw.valid then none
  else if off = 0x2000 then some x.msga
  else if off = 0x2008 then some x.msgb
  else if off = 0x2010 then some x.msgdb
  else if off = 0x2018 then some (BitVec.ofBool x.busy ++ (0 : BitVec 59) ++ x.status)
  else if off = 0x3000 then some x.apbase
  else if 0x800000 ≤ off then some (s.debugDword (tileNo ((off - 0x800000) / 65536)) (off % 65536))
  else some 0

/-- The read of a dword of the register window (R403): a lock answers as R404 lays down. -/
def State.bar0Read (s : State) (p : PortId) (off : Nat) : State :=
  if 0x1000 ≤ off ∧ off < 0x1100 then
    let i := lockNo (BitVec.ofNat 5 ((off - 0x1000) / 8))
    if s.lockOpen i then s.takeLock p i else s
  else match s.bar0Dword p off with
    | some v => (if off < 0x1000 then s.tickFree.2 else s).answer p (bytesOfNat 8 v.toNat) false
    | none => s

/-- HOST_APERTURE_ACCESS (R403): an access of BAR2 is performed at the word's memory point, dropped for want of HLOCK1, or aborted; a
dword of BAR0 is read. A read that has to wait, or stands behind a write of its port that waits, is tried again; the pieces of a write
that have to wait stay with the port. -/
def execHostApertureAccess (p : PortId) (a : HostAcc) (s : State) : Ans :=
  .next (
    let base := (s.ports[p.val]).apbase.toNat
    let abort := fun (pa : Nat) =>
      (s.answer p [] true).logEvent 0x12 (srcPort p) (evData pa (p.val + 256))
    if !s.portUp p then s
    else
      match a with
      | .bar0 off => if off % 8 = 0 ∧ off < 0x1000000 then s.bar0Read p off else s
      | .read off n =>
        let pa := base + off
        if !s.fw.valid || n = 0 || decide (2 ^ 36 < off + n) || (s.ports[p.val]).wr != [] then s
        else if touches Region.isReserved pa n then abort pa
        else
          let r := s.hostReads (paPieces (n + 1) pa n)
          (match r.2 with
          | .ok bs => r.1.answer p bs false
          | .wait => r.1
          | .poison x => (r.1.logPoison (srcPort p) x).answer p [] false)
      | .write off bs =>
        let pa := base + off
        if !s.fw.valid || bs.isEmpty || decide (2 ^ 36 < off + bs.length) then s
        else if touches Region.isReserved pa bs.length then abort pa
        else if touches Region.isShelf pa bs.length ∧ s.holds p 1 = false then s.noLock p pa
        else (s.hostWrites p (bytePieces pa bs)).1)

/-! ### Registers that only store (R82, R85, R87, R331, R403) -/

/-- The offset that HOST_NOLOCK reports for a register. -/
def regOffset : RegTarget → Nat
  | .msga => 0x2000
  | .msgb => 0x2008
  | .apbase => 0x3000
  | .upload off => 0x80000 + off
  | .queueCb q d => 0x10000000000 + q.toNat % 8 * 0x100000 + 0x10000 + q.toNat / 8 * 64 + d.toNat * 8
  | .poolCb q d => 0x10000000000 + q.toNat % 8 * 0x100000 + 0x20000 + q.toNat / 8 * 64 + d.toNat * 8
  | .levelCfg _ _ => 0
  | .slot _ _ => 0

/-- REGISTER_WRITE (R82): a register or control block that only stores its value, under the lock that guards it (R403). -/
def execRegisterWrite (p : PortId) (r : RegTarget) (v : W64) (s : State) : Ans :=
  .next (
    let need := fun (n : Fin 32) (f : State) => if s.holds p n then f else s.noLock p (regOffset r)
    if !s.portUp p then s
    else
      match r with
      | .upload off =>
        if off + 8 ≤ 0x100000 then need 0 { s with upload := putBytes s.upload off (bytesOfNat 8 v.toNat) } else s
      | .msga => if s.fw.valid then s.modPort p (fun x => { x with msga := v }) else s
      | .msgb => if s.fw.valid then s.modPort p (fun x => { x with msgb := v }) else s
      | .apbase => if s.fw.valid then s.modPort p (fun x => { x with apbase := v &&& ~~~0xFFFFFFFFF#64 }) else s
      | .queueCb q d =>
        if s.fw.valid then need 1 (s.putQcb q.toNat (setFld (s.qcbOf q) (64 * d.toNat) 64 v.toNat)) else s
      | .poolCb q d =>
        if s.fw.valid then need 1 (s.putPcb q.toNat (setFld (s.pcbOf q) (64 * d.toNat) 64 v.toNat)) else s
      | .levelCfg l id =>
        if s.fw.valid ∧ s.ceilHolds (s.levelAddr (levelIx l) id.toNat) = false then
          s.setLevel (levelIx l) id.toNat (setFld (s.levelEntry (levelIx l) id.toNat) 112 16 v.toNat)
        else s
      | .slot l e =>
        if s.fw.valid then need 2 (s.modLink l (fun x => { x with shadow := SMap.set 0 x.shadow e.toNat (v.setWidth 16 &&& 0x80FF) })) else s)

/-! ### Messages (R405, R406) -/

/-- The messages of one fabric cycle go port 0's first (R406). -/
def State.messageTurn (s : State) (p : PortId) : State :=
  if p = 0 then s.inCycle (fun f => !f.message) else { s with fab := { s.fab with message := true } }

/-- A write of a message's type to MSGDB (R405): it sets busy and is performed, once the earlier writes of the port have landed (R406)
and it can be; what waits is tried again. While busy a write is ignored: only the message that waits goes on. A package that runs no
launch takes none (R407). -/
def State.message (s : State) (p : PortId) (ty : W64) (f : State → W64 → W64 → State) : State :=
  let x := s.ports[p.val]
  if !s.portUp p || !s.fw.valid then s
  else if x.busy then
    match x.work with
    | some (k, a, b) => if k = ty ∧ x.wr = [] then f (s.messageTurn p) a b else s
    | none => s
  else
    let s1 := s.modPort p (fun y => { y with msgdb := ty, busy := true, work := some (ty, x.msga, x.msgb) })
    if x.wr = [] then f (s1.messageTurn p) x.msga x.msgb else s1

/-- The bits of an operand outside its fields are 0. -/
def onlyBits (v mask : W64) : Bool := v &&& ~~~mask == 0

/-- The job whose member a tile holds, live or behind a halted replay (R400, R405). -/
def State.holdsJob (s : State) (t : TileId) (job : BitVec 12) : Bool :=
  s.residentOf t job || ((s.tile t).replays
    && s.slots.any (fun e => e.1 == replaySlot t && e.2.img.job == job))

/-- POST (R405, R318, R319). -/
def execPost (p : PortId) (s0 : State) : Ans :=
  .next (s0.message p 3 (fun s a b =>
    let t := tileNo (fld a 0 7)
    let n : BitVec 8 := a.extractLsb' 8 8
    let inc := fld a 32 24
    let by_ : Poster := ⟨6, BitVec.ofNat 7 p.val, 0⟩
    if !onlyBits a 0x00FFFFFF0FFFFF7F || b != 0 || isLocal n then s.msgDone p 3
    else if !s.holdsJob t (a.extractLsb' 16 12) then s.msgDone p 2
    else if (s.tile t).replays then
      (s.modSlot (replaySlot t) (fun x => { x with posts := x.posts ++ [(n, inc, by_)] })).msgDone p 0
    else (s.post t n inc by_).msgDone p 0))

/-- MAIL (R405, R166): the write lands by its own step, in the order of R166. -/
def execMail (p : PortId) (s0 : State) : Ans :=
  .next (s0.message p 4 (fun s a b =>
    let t := tileNo (fld a 0 7)
    let w : Nat → MbWrite := fun id => ⟨a.extractLsb' 8 4, b, false, p.val, id⟩
    if !onlyBits a 0x0FFF0F7F then s.msgDone p 3
    else if !s.holdsJob t (a.extractLsb' 16 12) then s.msgDone p 2
    else if (s.tile t).replays then
      (s.modSlot (replaySlot t) (fun x => { x with mbs := x.mbs ++ [w 0] })).msgDone p 0
    else (s.modM t (fun m => { m with
      mbq := m.mbq ++ [w m.su.nextId], su := { m.su with nextId := m.su.nextId + 1 } })).msgDone p 0))

/-- INTR (R405, R378). -/
def execIntr (p : PortId) (s0 : State) : Ans :=
  .next (s0.message p 5 (fun s a b =>
    let t := tileNo (fld a 0 7)
    let f := fun (m : Member) => { m with rep := { m.rep with hostMsg := m.rep.hostMsg ++ [b] } }
    if !onlyBits a 0x0FFF007F then s.msgDone p 3
    else if !s.holdsJob t (a.extractLsb' 16 12) then s.msgDone p 2
    else if (s.tile t).replays then
      (s.modSlot (replaySlot t) (fun x => { x with img := f x.img })).msgDone p 0
    else (s.modM t f).msgDone p 0))

/-- SUBMIT (R405, R332, R344): checked as `spawn` checks, counted and pushed; a refused push withdraws its count. A record that a cancel
reaches is counted, discarded and finished as it gets ready (R349). -/
def execSubmit (p : PortId) (s0 : State) : Ans :=
  .next (s0.message p 6 (fun s a b =>
    let q : BitVec 12 := a.extractLsb' 0 12
    let pa := b.toNat
    if !onlyBits a 0xFFF || pa % 64 != 0 || touches Region.isReserved pa 64 then s.msgDone p 3
    else
      let rd := s.hostReads (paPieces 65 pa 64)
      match rd.2 with
      | .wait => rd.1
      | .poison x => (rd.1.logPoison (srcPort p) x).msgDone p 3
      | .ok bs =>
        let r : W512 := BitVec.ofNat 512 (natOfBytes bs)
        (match recSpawnCheck r true with
        | some _ => rd.1.msgDone p 3
        | none =>
          let r1 := setFld r 457 1 1
          let c := rd.1.countRec r1
          let x := c.pushQueue q r1 pa true
          if rd.1.recCancelled r1 pa then
            if rd.1.finishHeld r1 pa then rd.1 else (c.finishWhole r1 pa).msgDone p 0
          else if rd.1.submitHeld q r1 [] then rd.1
          else if x.2 then x.1.msgDone p 0 else (x.1.uncountRec r1).msgDone p 4)))

/-- The launch record of a gang (R408), or none where it cannot be read yet. DESIGN CHOICE (log 115): of a record that can no longer be
read the bytes are free. -/
def State.launchBytes (s : State) (g : Gang) : State × Option (List Byte) :=
  let r := s.dispRead (engineTile 0) .ce (recAsid g.record) .read false (recLrec g.record) 1024
  match r.2 with
  | .ok bs => (r.1, some bs)
  | .wait => (r.1, none)
  | .bad => ((r.1.freeBytes 1024).2, some (r.1.freeBytes 1024).1)

/-- The launch records of the resident launches in increasing LAUNCH (R408). -/
def State.residentLaunches (s : State) : State × Option (List Byte) :=
  let gs := s.gangs.filter (fun g => !(s.gangTiles g.id).isEmpty)
  let ids := (gs.map (fun g => recLevel g.record 0)).dedup.mergeSort
  ids.foldl (fun a k =>
    match a.2, gs.find? (fun g => recLevel g.record 0 == k) with
    | some l, some g => let r := a.1.launchBytes g; (r.1, r.2.map (fun bs => l ++ bs))
    | _, _ => a) (s, some [])

/-- The attestation report (R408) over the launch records of the resident launches. -/
def State.report (s : State) (nonce launches : List Byte) : List Byte :=
  let lw := (List.finRange 18).foldl (fun a l => a + (s.links[l.val]).lanes.toNat * 4 ^ l.val) 0
  let body := nonce ++ bytesOfNat 32 s.fw.fwDigest.toNat ++ bytesOfNat 32 s.fw.cfgDigest.toNat
    ++ bytesOfNat 32 (Config.sm3 launches).toNat ++ bytesOfNat 16 s.tfail.toNat ++ bytesOfNat 8 lw
    ++ bytesOfNat 8 s.fleet.toNat ++ bytesOfNat 4 s.fw.fwver.toNat ++ bytesOfNat 4 s.fw.cfgver.toNat ++ bytesOfNat 280 0
  body ++ bytesOfNat 64 (Config.sm2 (Config.sm3 body)).toNat

/-- ATTEST (R405, R408): the report is formed once the nonce and the launch records can be read; a part of it that has to wait stays with
the port, and the message is done once all of it has landed. -/
def execAttest (p : PortId) (s0 : State) : Ans :=
  .next (s0.message p 7 (fun s a b =>
    let pa := b.toNat
    if a != 0 || touches Region.isReserved pa 512 then s.msgDone p 3
    else
      let rd := s.hostReads (paPieces 33 pa 32)
      match rd.2 with
      | .wait => rd.1
      | .poison x => (rd.1.logPoison (srcPort p) x).msgDone p 3
      | .ok nonce =>
        let l := rd.1.residentLaunches
        match l.2 with
        | none => l.1
        | some ls =>
          let w := l.1.hostWrites p (bytePieces pa (l.1.report nonce ls))
          if w.2 then w.1.msgDone p 0 else w.1.modPort p (fun x => { x with work := some (attestLanding, a, b) })))

/-- LINKOWN (R405): needs HLOCK2. -/
def execLinkown (p : PortId) (s0 : State) : Ans :=
  .next (s0.message p 8 (fun s a b =>
    let l := fld a 0 5
    if !onlyBits a 0x0FFF001F || b != 0 || decide (17 < l) then s.msgDone p 3
    else if !s.holds p 2 then s.msgDone p 1
    else (s.modLink (linkOf (a.extractLsb' 0 5)) (fun x => { x with owner := a.extractLsb' 16 12 })).msgDone p 0))

end Sys2Proof.Machine
end

