-- ==== Sys2Proof/Machine/Service.lean ====
section
/-! DEFINITION. Shadowing, seizure and resumption, soft errors, reset and loss of power (R49, R78, R90, R368, R389 to R393,
R407, R409). -/

namespace Sys2Proof.Machine

/-! ### Granules (R389, R390) -/

/-- The 64 KiB from `a` on of one map take the place of those from `b` on of another. -/
def copyGranule (src dst : SMap Byte) (a b : Nat) : SMap Byte :=
  dst.filter (fun e => decide (e.1 < b))
    ++ (src.filter (fun e => decide (a ≤ e.1 ∧ e.1 < a + 65536))).map (fun e => (e.1 - a + b, e.2))
    ++ dst.filter (fun e => decide (b + 65536 ≤ e.1))

/-- The mirror of a granule (R389): MIRROR + PA, in the host's memory. -/
def State.mirrorOf (s : State) (g : Nat) : Nat := s.cfg.mirror + g * 65536

/-- The port by which a copy of a granule leaves (R389). -/
def State.copyPort (s : State) (g : Nat) : PortId :=
  let p : PortId := ⟨g % 2, Nat.mod_lt _ (by decide)⟩
  if (s.ports[p.val]).lanes ≠ 0 then p else if p = 0 then 1 else 0

/-- A copy of a granule to its mirror: S clears as it starts (R390). -/
def State.shadowGranule (s : State) (g : Nat) : State :=
  ({ s with
    mirror := copyGranule s.mem s.mirror (g * 65536) (s.mirrorOf g)
    ms := { s.ms with sbit := s.ms.sbit.erase g } }).modPort (s.copyPort g) (fun x => { x with copies := x.copies + 1 })

/-- GRANULE_SHADOW_COPY (R390): the granule whose S is oldest, while a port is up and no freeze writes. -/
def execGranuleShadowCopy (g : Nat) (s : State) : Ans :=
  .next (
    if s.ms.sbit.head? = some g ∧ s.anyPort = true ∧ (s.seize.st = .none ∨ s.seize.st = .stopping) then s.shadowGranule g else s)

/-! ### Seizure (R392, R393) -/

/-- A freeze that has not begun. -/
def Seize.reset : Seize := ⟨.none, 0, none, 0, false, none, none⟩

/-- Every member that runs owes PREEMPT (R380, R392). -/
def State.preemptAll (s : State) : State :=
  { s with tiles := vmap s.tiles (fun x =>
      if x.st == .running then { x with m := { x.m with rep := { x.m.rep with preempt := true } } } else x) }

/-- SEIZE (R392, R405): done at SEIZE_DONE; done at once while frozen. -/
def execSeize (p : PortId) (s0 : State) : Ans :=
  .next (s0.message p 1 (fun s a b =>
    if a != 0 || b != 0 then s.msgDone p 3
    else
      let busy := s.modPort p (fun x => { x with work := none })
      match s.seize.st with
      | .done => s.msgDone p 0
      | .stopping | .writing | .holding => busy
      | .none => { busy.preemptAll with seize := { Seize.reset with st := .stopping, t0 := s.fleet } }))

/-- The accesses of a stopped member that are outstanding. -/
def State.outstandingAccs (s : State) (t : TileId) : List Requester :=
  let m := (s.tile t).m
  (List.range m.su.loads.length).map (Requester.suLoad t) ++ (List.range m.su.stores.length).map (Requester.suStore t)
    ++ (List.range m.vu.lq.length).map (Requester.vuLoad t) ++ (List.range m.vu.sq.length).map (Requester.vuStore t)
    ++ ((List.finRange 5).map (fun c =>
      (List.range ((m.ch[c.val]).runs.foldl (fun a r => a + r.flights.length) 0)).map (Requester.engine t (.ch c)))).flatten

/-- Every member has stopped: none runs, and each has landed or had its accesses recorded (R392). -/
def State.allStopped (s : State) : Bool :=
  (List.finRange 128).all (fun t => (s.tile t).st != .running
    && ((s.tile t).st != .stopped || s.landed t || s.seize.accs.isSome))

/-- SEIZE_ACCESS_RECORD (R392): 15 us after SEIZE, what is outstanding is recorded. It stays with its member, its stores no longer in
the forwarding table, and is issued again after the resumption where no memory point has performed it. -/
def execSeizeAccessRecord (s : State) : Ans :=
  .next (
    if s.seize.st = .stopping ∧ s.seize.accs = none ∧ s.seize.t0.toNat + 15000 ≤ s.fleet.toNat then
      let accs := (((List.finRange 128).filter (fun t => (s.tile t).st == .stopped)).map s.outstandingAccs).flatten
      { s with
        seize := { s.seize with accs := some accs }
        tiles := vmap s.tiles (fun x =>
          if x.st == .stopped then { x with m := { x.m with su := { x.m.su with record := x.m.su.nextId } } } else x) }
    else s)

/-- The package image (R392). -/
def State.pkgImage (s : State) : PkgImage where
  rcs := s.dies.toList.map (fun d => d.rc)
  slots := s.links.toList.map (fun l => (l.active, l.shadow))
  tides := s.dies.toList.map (fun d => d.tide)
  bars := s.ms.bars
  joins := s.ms.joins
  qcb := s.ms.qcb
  pcb := s.ms.pcb
  ces := s.dies.toList.map (fun d => d.ce)

/-- Each stopped member's tile returns its grant, and the member keeps the class held for its image (R367). -/
def State.dropGrants (s : State) : State :=
  { s with
    tiles := vmap s.tiles (fun x =>
      if x.st == .stopped then
        { x with grant := none, sunk := false, reassigned := false, drop := false, m := { x.m with id := { x.m.id with cls := x.grant } } }
      else x) }

/-- The tiles of the frozen members: those stopped, and those that had not started yet for want of their class (R367). -/
def State.stoppedTiles (s : State) : List TileId := (List.finRange 128).filter s.holdsMember

/-- The slot of a tile's member. -/
def State.slotOf (s : State) (t : TileId) : Nat := s.keyOf (s.tile t).m.id.gang + (s.tile t).m.id.index

/-- The dirty parts of a member's image are written to the mirror of its slot (R392 step 1): each dirty stash line at its offset; the
inner layout of the other sections is not stated, and the bytes of their granules are free (log 66). -/
def State.mirrorImage (s : State) (e : TileId × Stash × Nat) : State :=
  let k := s.slotOf e.1
  let s1 := (s.tile e.1).m.partGranules.foldl (fun st g => { st with
    mirror := putBytes st.mirror (st.cfg.mirror + st.slotGranule k g) ((List.range 65536).map (Config.freeByte (e.2.2 + g))) }) s
  e.2.1.dirtyLines.foldl (fun st l => { st with
    mirror := putBytes st.mirror (st.cfg.mirror + st.slotByte k (256 * l)) (bytesAt e.2.1.bytes (256 * l) 256) }) s1

/-- The images that the freeze has written stand in the mirror, also of a slot granule that it copies after them (log 70). -/
def State.mirrorImages (s : State) : State := (s.seize.imgs.getD []).foldl State.mirrorImage s

/-- The images of the stopped members are written, in slots that firmware assigns now where a gang has none (R386, R392 step 1). -/
def State.writeImages (s : State) : State :=
  let s1 := s.stoppedTiles.foldl (fun st t => st.assignKey (st.tile t).m.id.gang) s
  { s1 with
    free := s1.free + 128 * 128
    seize := { s1.seize with
      imgs := some (s1.stoppedTiles.map (fun t => (t, (s1.tile t).m.stash, s1.free + 128 * t.val))) } }.mirrorImages

/-- SEIZE_WRITE (R392, R393): once every member has stopped the package image is taken; then the images are written and each granule
with S = 1. Without a port the freeze holds. -/
def execSeizeWrite (s : State) : Ans :=
  .next (match s.seize.st with
    | .stopping =>
      if s.allStopped then
        { s.dropGrants with seize := { s.seize with
          st := if s.anyPort then .writing else .holding, late := s.seize.late || !s.anyPort, pimg := some s.pkgImage } }
      else s
    | .writing => (match s.seize.imgs, s.ms.sbit with
      | none, _ => s.writeImages
      | some _, g :: _ => let s1 := (s.shadowGranule g).mirrorImages
        { s1 with seize := { s1.seize with bytes := s1.seize.bytes + 65536 } }
      | some _, [] => s)
    | .none | .holding | .done => s)

/-- The bytes of the images' dirty parts that are known, and the most that the others and the package image take (R385, R393). -/
def State.imageBytes (s : State) : Nat × Nat :=
  (s.seize.imgs.getD []).foldl (fun a e =>
    (a.1 + 256 * e.2.1.dirtyLines.length, a.2 + 65536 * (s.tile e.1).m.partGranules.length)) (0, 2 ^ 26)

/-- SEIZE_DONE (R392, R393, R405): every write is done; both hosts learn of it, and each SEIZE that waited for it completes, with the
bytes written: those of the granules and of the images. How many the package image and the parts beside stash lines take is not
stated: a free value within their sizes (log 70). -/
def execSeizeDone (s : State) : Ans :=
  .next (
    if s.seize.st = .writing ∧ s.seize.imgs.isSome ∧ s.ms.sbit = [] then
      let f := s.tickFree
      let n := s.seize.bytes + s.imageBytes.1 + (Config.freeWord f.1).toNat % (s.imageBytes.2 + 1)
      let s1 := { f.2 with seize := { f.2.seize with st := .done } }.logEvent 0x10 srcFw
        (evData (if s.seize.late then 1 else 0) n)
      [0, 1].foldl (fun st p =>
        let x := st.ports[(p : PortId).val]
        if x.busy && x.work.isNone then st.msgDone p 0 else st) s1
    else s)

/-- The granules of slots that the freeze wrote to the mirror. -/
def State.imageGranules (s : State) : List Nat :=
  ((s.seize.imgs.getD []).flatMap (fun e =>
    (s.tile e.1).m.partGranules.map (fun g => s.slotGranule (s.slotOf e.1) g / 65536)
      ++ e.2.1.dirtyLines.map (fun l => s.slotByte (s.slotOf e.1) (256 * l) / 65536))).dedup

/-- The mirror's granules come back (R393 step 1), and the stopped members' stashes are those of their images. -/
def State.reload (s : State) : State :=
  let s1 := (s.ms.tbit ++ s.imageGranules).foldl (fun st g =>
    { st with mem := copyGranule st.mirror st.mem (st.mirrorOf g) (g * 65536) }) s
  (s.seize.imgs.getD []).foldl (fun st e => st.modM e.1 (fun m => { m with stash := e.2.1 })) s1

/-- The package image is restored (R393 step 3). A tide table goes on from this fabric cycle (R419). -/
def State.restorePkg (s : State) (i : PkgImage) : State :=
  { s with
    dies := Vector.ofFn (fun (d : Fin 2) =>
      let x := s.dies[d.val]
      { x with rc := i.rcs.getD d.val x.rc, tide := { i.tides.getD d.val x.tide with cyc := s.fabric }, ce := i.ces.getD d.val x.ce })
    links := Vector.ofFn (fun (l : Fin 18) =>
      let x := s.links[l.val]
      { x with active := (i.slots.getD l.val (x.active, x.shadow)).1, shadow := (i.slots.getD l.val (x.active, x.shadow)).2 })
    ms := { s.ms with bars := i.bars, joins := i.joins, qcb := i.qcb, pcb := i.pcb } }

/-- The tide credits that arrived while the package was seized are added (R419). -/
def State.releaseCredits (s : State) : State :=
  ([0, 1] : List DieId).foldl (fun st d =>
    let n := st.dies[d.val].heldCredits
    if n = 0 then st else (st.modDie d (fun y => { y with heldCredits := 0 })).addCredits d n) s

/-- Puts a gang in its place: the largest first. -/
def State.gangBySize (s : State) (id : Nat) : List Nat → List Nat
  | [] => [id]
  | x :: xs =>
    let size := fun (k : Nat) => match s.gangs.find? (fun g => g.id == k) with | some g => g.size | none => 0
    if size x < size id then id :: x :: xs else x :: s.gangBySize id xs

/-- The frozen members leave their tiles for their slots, and their gangs wait to be placed (R393 step 4); a tile claimed for one of
their members that has not been restored yet is idle again, and that member keeps its slot. -/
def State.liftFrozen (s : State) : State :=
  let ts := s.stoppedTiles
  let ids := (ts.map (fun t => (s.tile t).m.id.gang)).dedup
  let s1 := ts.foldl (fun st t =>
    let id := (st.tile t).m.id
    let s2 := (st.modTile t (fun x => { x with grant := id.cls })).assignKey id.gang
    s2.saveMember t (s2.keyOf id.gang + id.index)) s
  let s2 := (ids.flatMap s1.gangTiles).foldl (fun st t => st.modTile t Tile.vacate) s1
  { s2 with contQ := s2.contQ ++ ids.foldl (fun l k => s2.gangBySize k l) [] }

/-- RESUME (R393, R405): refused unless the package is frozen. The slots that the frozen members go to were written by the
freeze, so their granules count as saved. -/
def execResume (p : PortId) (s0 : State) : Ans :=
  .next (s0.message p 2 (fun s a b =>
    if a != 0 || b != 0 then s.msgDone p 3
    else if s.seize.st ≠ .done then s.msgDone p 4
    else
      let s1 := s.reload
      let s2 := match s.seize.pimg with | some i => s1.restorePkg i | none => s1
      let s3 := { s2 with seize := Seize.reset }.liftFrozen
      { s3 with ms := { s3.ms with sbit := [], tbit := [] } }.releaseCredits.msgDone p 0))

/-! ### Soft errors (R78, R409) -/

/-- CORRECTED (R409, R410). -/
def State.corrected (s : State) (e : ErrSite) : State :=
  match e with
  | .dram b => s.logEvent 0x01 (srcShelf (stackOf (b * 64))) (evData (b * 64) 0)
  | .stash t w => s.logEvent 0x01 (srcTile t) (evData w 1)
  | .opcache t => (let f := s.tickFree
    f.2.logEvent 0x01 (srcTile t) (evData (Config.freeWord f.1).toNat 1))
  | .sram t i => s.logEvent 0x01 (srcTile t) (evData i 1)
  | .l2 w => (let f := s.tickFree
    f.2.logEvent 0x01 (srcSlice (dieOfPa (w * 8)) (sliceOf (w * 8))) (evData (Config.freeWord f.1).toNat 1))

/-- SRAM_SCRUB_PASS (R409): it may correct an error, which is counted and logged; otherwise it changes only timing. -/
def execSramScrubPass (fixed : Option ErrSite) (s : State) : Ans :=
  .next (match fixed with
    | some e => s.corrected e
    | none => s)

/-- The consumer of a poisoned word of another SRAM takes MEM_POISON (R78, R409): the running matrix command (accumulator memory, weight
buffer, its queue), the running vector block (table memory, registers, its queue), or the steering unit (register faces). DEDUCED
(log 117): which word an SRAM index names is not stated, so which of them consumes it, if any does before the word is written whole, is a
free choice, and the error is seen when it is consumed; nor are the addresses in TVAL and in the event stated. -/
def State.consumeSram (s : State) (t : TileId) : State :=
  let f := s.tickFree
  let g := f.2.tickFree
  let who := (Config.freeWord f.1).toNat % 4
  let va := Config.freeWord g.1
  let m := (s.tile t).m
  let hit := fun (x : Member → Member) => (g.2.logPoison (srcTile t) va.toNat).modM t x
  let engine := fun (n : Member) (r : Report) => { n.rep with engine := n.rep.engine ++ [(n.su.nextId, r)] }
  match who, m.mu, m.vu.cmd with
  | 1, some r, _ => hit (fun n => { n with
      mu := some { r with halted := true }, rep := engine n (engineReport 0x05 r.cmd.seq 0 2 0 0 va) })
  | 2, _, some c =>
    let rep := engineReport 0x05 c.seq 0 1 0 0 va
    hit (fun n => { n with vu := { n.vu with halted := some rep }, rep := engine n rep })
  | 3, _, _ => hit (fun n => { n with rep := { n.rep with deferred := n.rep.deferred ++ [(n.su.nextId, suReport 0x05 0 va)] } })
  | _, _, _ => g.2

/-- UNCORRECTED_ERROR (R78, R409): the block or word is poisoned, in an L2 slice a word of a line that it holds. An operand cache word is
fetched again. -/
def execUncorrectedError (e : ErrSite) (s : State) : Ans :=
  .next (match e with
    | .dram b =>
      if regionOf (b * 64) = .dram ∧ s.ms.poison.contains b = false then
        { s with ms := { s.ms with poison := s.ms.poison ++ [b] } }
      else s
    | .stash t w =>
      if w < 524288 then
        s.modM t (fun m => { m with stash := { m.stash with bad := if m.stash.bad.contains w then m.stash.bad else m.stash.bad ++ [w] } })
      else s
    | .opcache t => s.modTile t (fun x => { x with oc := [] })
    | .l2 w =>
      if s.ms.l2.contains (w / 8) ∧ s.ms.bad.contains w = false then
        { s with ms := { s.ms with bad := s.ms.bad ++ [w] } }
      else s
    | .sram t _ => if (s.tile t).st == .running then s.consumeSram t else s)

/-! ### Reset and loss of power (R49, R90, R368, R407) -/

/-- The largest SEQ of a copy of the recorder. -/
def maxSeq (m : SMap Event) : Nat := m.foldl (fun a e => max a e.2.seq.toNat) 0

/-- A tile after reset: its curve, its rail, its recording default (R368, R377, R394). The curve is the re-plan's, which the monitors
fix (log 67). -/
def resetTile (cfg : CfgImage) (replan : List (BitVec 128)) (t : Nat) : Tile :=
  let c := if curveOk (replan.getD t 0) then replan.getD t 0 else cfg.curves.getD t 0
  let c1 : BitVec 128 := BitVec.ofNat 128 (fld c 0 70 + fld c 50 5 * 2 ^ 70)
  { Tile.reset with
    isl := { Island.reset with curve := c1, mv := curveMv c1 10 }
    dbg := { Dbg.reset with recording := cfg.recDefault } }

/-- The images that a reset finds (R407, log 15): those of the last reset, or others, of which nothing is known but that neither
version lies below the one stored where both are accepted. `ok` is the verdict of both signatures. -/
def Firmware.atReset (x : Firmware) (new : Bool) (n : Nat) (ok : Bool) : Firmware :=
  let y := if new then
      { x with
        fwver := (Config.freeWord n).setWidth 32
        cfgver := (Config.freeWord (n + 1)).setWidth 32
        fwDigest := Config.sm3 (bytesOfNat 8 (Config.freeWord (n + 2)).toNat)
        cfgDigest := Config.sm3 (bytesOfNat 8 (Config.freeWord (n + 3)).toNat) }
    else x
  { y with valid := ok && decide (y.fwMin.toNat ≤ y.fwver.toNat) && decide (y.cfgMin.toNat ≤ y.cfgver.toNat) }

/-- DATA of IMAGE_REJECT (R407, R410): the firmware image is verified before the configuration image, and a signature before a version.
`second` tells which signature failed where `signed` is false. -/
def Firmware.rejected (x : Firmware) (signed second : Bool) : Nat :=
  if !signed && !second then 0
  else if x.fwver.toNat < x.fwMin.toNat then 256
  else if !signed then 1 else 257

/-- PACKAGE_RESET (R407). DESIGN CHOICE (log 110): the root entries lie in DRAM, and the configuration image of the model brings none, so
after a reset they are what DRAM holds. The recorder is reconciled (R90), failing tiles are logged and withdrawn (R49), and a package whose
image is rejected runs no launch. `signed` is the verdict of the two signatures. Whether DRAM keeps its bytes across a reset that
follows no loss of power is left open, and so is a fleet time that comes from the peers (R288). -/
def execPackageReset (tfail : BitVec 128) (signed : Bool) (s : State) : Ans :=
  .next (
    let fb := s.freeBit
    let nb := fb.2.freeBit
    let fw := nb.2.tickFree
    let lo := fun (k : Nat) => 420 + (Config.freeWord (fw.1 + 5 + k)).toNat % 101
    let s0 : State := { fw.2 with free := fw.2.free + 8 }
    let w := Config.freeWord fw.1
    let cfg := if nb.1 then Config.freeCfg fw.1 else s.cfg
    let fwm := s.fw.atReset nb.1 (fw.1 + 1) signed
    let imageOk := fwm.valid
    let keep := s.powered && fb.1
    let ev := if maxSeq s.events < maxSeq s.eventsMirror then s.eventsMirror else s.events
    let bad : BitVec 128 := (List.range 128).foldl (fun b t => if curveOk (cfg.curves.getD t 0) then b else b ||| (1#128 <<< t)) tfail
    let s1 : State := { State.reset with
      cfg := cfg
      sched := s0.sched
      free := s0.free
      tiles := Vector.ofFn (fun t => resetTile cfg (Config.freeCfg (fw.1 + 1)).curves t.val)
      dies := Vector.ofFn (fun d => { Die.reset with lowMv := lo d.val, lowTarget := lo d.val })
      mem := if keep then s.mem else s.mem.filter (fun e => decide (regionOf e.1 ≠ .dram))
      mirror := s.mirror
      upload := s.upload
      events := ev
      eventsMirror := ev
      eventSeq := s.eventSeq
      fleet := if cfg.master then s.fleet else w
      ceilReq := cfg.dceil.setWidth 32
      links := Vector.ofFn (fun l => { Link.reset with
        lanes := (s.links[l.val]).lanes, owner := cfg.owners.getD l.val 0 })
      ports := vmap s.ports (fun x => { Port.reset with lanes := x.lanes })
      tfail := bad
      fw := fwm }
    let s2 := (List.range 128).foldl (fun st t =>
      if bad.getLsbD t then st.logEvent 0x06 srcFw (evData 0 t) else st) s1
    let s3 := ((List.range 128) ++ [127, 127]).foldl (fun st k => st.logEvent 0x11 srcFw (evData 0 k)) s2
    if imageOk then s3 else s3.logEvent 0x13 srcFw (evData 0 (fwm.rejected signed (Config.freeBit (fw.1 + 7)))))

/-- LOSS_OF_POWER (R90): all state but the non-volatile cells is lost; the package takes no step until a reset. The host's
memory, which holds the mirror, stands outside the module. -/
def execLossOfPower (s : State) : Ans :=
  .next { State.reset with
    cfg := s.cfg
    sched := s.sched
    free := s.free
    mem := s.mem.filter (fun e => decide (regionOf e.1 ≠ .dram))
    mirror := s.mirror
    events := s.events
    eventsMirror := s.eventsMirror
    eventSeq := s.eventSeq
    fw := s.fw
    links := vmap s.links (fun (x : Link) => { Link.reset with lanes := x.lanes })
    ports := vmap s.ports (fun (x : Port) => { Port.reset with lanes := x.lanes })
    powered := false }

end Sys2Proof.Machine
end

