-- ==== Sys2Proof/Machine/Debug.lean ====
section
/-! DEFINITION. The debug blocks: halts, debug mode, recording, register writes, stops, proofs (R129, R175, R394 to R399). The
debug window of a tile needs its host lock (R403). -/

namespace Sys2Proof.Machine

/-- The host lock of a tile's debug window (R403). -/
def debugLock (t : TileId) : Fin 32 := ⟨8 + t.val / 16, by have := t.isLt; omega⟩

/-- A write to a tile's debug window (R403): under its lock, else HOST_NOLOCK. -/
def State.debugWrite (s : State) (p : PortId) (t : TileId) (f : State) : State :=
  if !s.portUp p || !s.fw.valid then s
  else if s.holds p (debugLock t) then f
  else s.noLock p (0x800000 + t.val * 0x10000)

/-- Changes a tile's debug block. -/
def State.modDbg (s : State) (t : TileId) (f : Dbg → Dbg) : State := s.modTile t (fun x => { x with dbg := f x.dbg })

/-- The steering unit of a tile stands at a boundary, or no member is there (R394). -/
def Tile.atBoundary (x : Tile) : Bool := x.st != .running || x.dbg.hst != .running || x.m.su.wait.boundary

/-- DEBUG_HALT_REQUEST (R394, R399): HREQ is set, and the tile halts at its next boundary; clearing it returns a replay to the
live head and lets the member run. -/
def execDebugHaltRequest (p : PortId) (t : TileId) (on : Bool) (s : State) : Ans :=
  .next (s.debugWrite p t (
    if on then s.modDbg t (fun d => { d with hreq := true })
    else
      let s1 := if (s.tile t).replays then s.unparkLive t else s
      s1.modDbg t (fun d => { d with hreq := false, goal := none, hst := .running })))

/-- A change of DM or REC (R394, R399): it takes effect at the next boundary, at once where the tile stands at one; in a replay it is
refused. -/
def State.askDbg (s : State) (t : TileId) (f : Dbg → Dbg) : State :=
  match (s.tile t).dbg.hst with
  | .replayHalt | .replaying => s.modDbg t (fun d => { d with status := .replay })
  | .running | .liveHead =>
    let s1 := s.modDbg t f
    if (s.tile t).atBoundary then s1.modTile t Tile.takeDbg else s1

/-- DEBUG_MODE_SET (R129, R394). -/
def execDebugModeSet (p : PortId) (t : TileId) (on : Bool) (s : State) : Ans :=
  .next (s.debugWrite p t (s.askDbg t (fun d => { d with dmReq := some on })))

/-- DEBUG_RECORD_SET (R394): set, the tile takes proof 0 at that boundary. -/
def execDebugRecordSet (p : PortId) (t : TileId) (on : Bool) (s : State) : Ans :=
  .next (s.debugWrite p t (s.askDbg t (fun d => { d with recReq := some on })))

/-! ### Proofs (R395, R396) -/

/-- PROOF_TAKE (R394, R395): at the boundary that owes one, once every access has landed. -/
def execProofTake (t : TileId) (s : State) : Ans :=
  .next (
    let x := s.tile t
    if (x.suLive || (x.st == .running && x.dbg.hst == .liveHead)) && x.m.su.wait.boundary && x.owesProof && s.landed t then
      s.takeProof t
    else s)

/-! ### A halted tile (R175, R398, R399) -/

/-- The fields of a tensor descriptor (R206): bits [447:420], [388:386], [127:119] and [63:55] are reserved. -/
def tdMask : W512 := BitVec.ofNat 512 (2 ^ 512 - 2 ^ 448 + (2 ^ 420 - 2 ^ 389) + (2 ^ 386 - 2 ^ 128) + (2 ^ 119 - 2 ^ 64) + (2 ^ 55 - 1))

/-- The debugger's write of one face (R175): a hidden one sets W. Reserved bits of a control register and of a descriptor stay 0
(R10). -/
def Member.debugPut (m : Member) (r : DbgReg) (hidden : Bool) (v0 : W4096) : Member :=
  let v := match r with
    | .ctl c => v0 &&& (ctlMask c).setWidth 4096
    | .td _ => v0 &&& tdMask.setWidth 4096
    | _ => v0
  m.modReg r (fun n f => if hidden then Faced.put f (v.setWidth n) else { f with vis := v.setWidth n })

/-- DEBUG_REGISTER_WRITE (R175, R399): accepted only at the live head; in a replay it is refused. -/
def execDebugRegisterWrite (p : PortId) (t : TileId) (r : DbgReg) (hidden : Bool) (v : W4096) (s : State) : Ans :=
  .next (s.debugWrite p t (
    match (s.tile t).dbg.hst with
    | .liveHead => (s.modM t (fun m => m.debugPut r hidden v)).modDbg t (fun d => { d with status := .ok })
    | .replayHalt | .replaying => s.modDbg t (fun d => { d with status := .replay })
    | .running => s))

/-- A stop at a retired-work count (R398): a live member halts first, and a replay under way reaches its own goal first; one that no
remaining proof reaches is refused (R396). -/
def State.stopReq (s : State) (t : TileId) (n : W64) : State :=
  let x := s.tile t
  match x.dbg.hst with
  | .running =>
    if x.st ≠ .running then s
    else if n.toNat < x.m.ctr.retired.toNat ∧ x.dbg.trace.noProof n = true then s.modDbg t (fun d => { d with status := .noproof })
    else s.modDbg t (fun d => { d with hreq := true, goal := some n })
  | .liveHead | .replayHalt => s.stopAt t n
  | .replaying => (s.replayTo t).stopAt t n

/-- DEBUG_STOP (R398). -/
def execDebugStop (p : PortId) (t : TileId) (n : W64) (s : State) : Ans := .next (s.debugWrite p t (s.stopReq t n))

/-- DEBUG_REVERSE_STEP (R399): a stop at n - 1 of a halted tile. DESIGN CHOICE (log 116): no proof lies before RETIRED 0, so a step
back from there is refused with NOPROOF (R396). -/
def execDebugReverseStep (p : PortId) (t : TileId) (s : State) : Ans :=
  .next (s.debugWrite p t (
    if (s.tile t).dbg.hst = .running ∨ (s.tile t).dbg.hst = .replaying then s
    else if (s.tile t).m.ctr.retired = 0 then s.modDbg t (fun d => { d with status := .noproof })
    else s.stopReq t ((s.tile t).m.ctr.retired - 1)))

/-- DEBUG_FORWARD_STEP (R399): a stop at n + 1, taken from the replay halt. -/
def execDebugForwardStep (p : PortId) (t : TileId) (s : State) : Ans :=
  .next (s.debugWrite p t (
    if (s.tile t).dbg.hst = .replayHalt then s.stopReq t ((s.tile t).m.ctr.retired + 1) else s))

end Sys2Proof.Machine
end

