-- ==== Sys2Proof/Machine/Scalar.lean ====
section
/-! DEFINITION. Register arithmetic, compares, immediates and bit fields of the steering unit (R179 to R186). -/

namespace Sys2Proof.Machine

/-! ### Values -/

/-- The high 64 bits of a signed product (R180). -/
def mulhVal (a b : W64) : W64 := ((a.signExtend 128 * b.signExtend 128) >>> 64).setWidth 64

/-- The high 64 bits of an unsigned product (R180). -/
def mulhuVal (a b : W64) : W64 := ((a.setWidth 128 * b.setWidth 128) >>> 64).setWidth 64

/-- `div` (R181): truncation toward zero, -1 for a zero divisor, and -2^63 for the quotient that does not fit. -/
def divVal (a b : W64) : W64 := if b = 0 then BitVec.allOnes 64 else BitVec.ofInt 64 (a.toInt.tdiv b.toInt)

/-- `divu` (R181). -/
def divuVal (a b : W64) : W64 := if b = 0 then BitVec.allOnes 64 else a / b

/-- `rem` (R181): the sign of the dividend, and the dividend itself for a zero divisor. -/
def remVal (a b : W64) : W64 := if b = 0 then a else BitVec.ofInt 64 (a.toInt.tmod b.toInt)

/-- `remu` (R181). -/
def remuVal (a b : W64) : W64 := if b = 0 then a else a % b

/-- The field of `bfx` (R184): `wd1 + 1` bits from `lo`. -/
def bfxVal (a : W64) (lo wd1 : BitVec 6) : W64 := (a >>> lo.toNat) &&& (BitVec.allOnes 64 >>> (63 - wd1.toNat))

/-- The field of `bfxs` (R184). -/
def bfxsVal (a : W64) (lo wd1 : BitVec 6) : W64 :=
  ((a >>> lo.toNat) <<< (63 - wd1.toNat)).sshiftRight (63 - wd1.toNat)

/-- The value of `bfi` (R184). -/
def bfiVal (old a : W64) (lo wd1 : BitVec 6) : W64 :=
  let mask : W64 := (BitVec.allOnes 64 >>> (63 - wd1.toNat)) <<< lo.toNat
  (old &&& ~~~mask) ||| ((a <<< lo.toNat) &&& mask)

/-- A shift amount of a register (R180). -/
def shAmt (b : W64) : Nat := b.toNat % 64

/-! ### SA alu (R180, R181) -/

/-- `add` (R180). -/
def execAdd (d a b : SReg) (s : State) : Ans := .next (s.opS d (fun m => m.sreg a + m.sreg b) 0 4)
/-- `sub` (R180). -/
def execSub (d a b : SReg) (s : State) : Ans := .next (s.opS d (fun m => m.sreg a - m.sreg b) 0 4)
/-- `mul` (R180). -/
def execMul (d a b : SReg) (s : State) : Ans := .next (s.opS d (fun m => m.sreg a * m.sreg b) 2 4)
/-- `mulh` (R180). -/
def execMulh (d a b : SReg) (s : State) : Ans := .next (s.opS d (fun m => mulhVal (m.sreg a) (m.sreg b)) 2 4)
/-- `mulhu` (R180). -/
def execMulhu (d a b : SReg) (s : State) : Ans := .next (s.opS d (fun m => mulhuVal (m.sreg a) (m.sreg b)) 2 4)
/-- `div` (R181). -/
def execDiv (d a b : SReg) (s : State) : Ans := .next (s.opS d (fun m => divVal (m.sreg a) (m.sreg b)) 20 4)
/-- `divu` (R181). -/
def execDivu (d a b : SReg) (s : State) : Ans := .next (s.opS d (fun m => divuVal (m.sreg a) (m.sreg b)) 20 4)
/-- `rem` (R181). -/
def execRem (d a b : SReg) (s : State) : Ans := .next (s.opS d (fun m => remVal (m.sreg a) (m.sreg b)) 20 4)
/-- `remu` (R181). -/
def execRemu (d a b : SReg) (s : State) : Ans := .next (s.opS d (fun m => remuVal (m.sreg a) (m.sreg b)) 20 4)
/-- `and` (R180). -/
def execAnd (d a b : SReg) (s : State) : Ans := .next (s.opS d (fun m => m.sreg a &&& m.sreg b) 0 4)
/-- `or` (R180). -/
def execOr (d a b : SReg) (s : State) : Ans := .next (s.opS d (fun m => m.sreg a ||| m.sreg b) 0 4)
/-- `xor` (R180). -/
def execXor (d a b : SReg) (s : State) : Ans := .next (s.opS d (fun m => m.sreg a ^^^ m.sreg b) 0 4)
/-- `andn` (R180). -/
def execAndn (d a b : SReg) (s : State) : Ans := .next (s.opS d (fun m => m.sreg a &&& ~~~(m.sreg b)) 0 4)
/-- `shl` (R180). -/
def execShl (d a b : SReg) (s : State) : Ans := .next (s.opS d (fun m => m.sreg a <<< shAmt (m.sreg b)) 0 4)
/-- `shr` (R180). -/
def execShr (d a b : SReg) (s : State) : Ans := .next (s.opS d (fun m => m.sreg a >>> shAmt (m.sreg b)) 0 4)
/-- `sra` (R180). -/
def execSra (d a b : SReg) (s : State) : Ans := .next (s.opS d (fun m => (m.sreg a).sshiftRight (shAmt (m.sreg b))) 0 4)
/-- `min` (R180). -/
def execMin (d a b : SReg) (s : State) : Ans :=
  .next (s.opS d (fun m => if slt64 (m.sreg b) (m.sreg a) then m.sreg b else m.sreg a) 0 4)
/-- `max` (R180). -/
def execMax (d a b : SReg) (s : State) : Ans :=
  .next (s.opS d (fun m => if slt64 (m.sreg a) (m.sreg b) then m.sreg b else m.sreg a) 0 4)
/-- `minu` (R180). -/
def execMinu (d a b : SReg) (s : State) : Ans :=
  .next (s.opS d (fun m => if ult64 (m.sreg b) (m.sreg a) then m.sreg b else m.sreg a) 0 4)
/-- `maxu` (R180). -/
def execMaxu (d a b : SReg) (s : State) : Ans :=
  .next (s.opS d (fun m => if ult64 (m.sreg a) (m.sreg b) then m.sreg b else m.sreg a) 0 4)

/-! ### SA cmp (R182) -/

/-- `seq` (R182). -/
def execSeq (d a b : SReg) (s : State) : Ans := .next (s.opS d (fun m => boolW (m.sreg a == m.sreg b)) 0 4)
/-- `sne` (R182). -/
def execSne (d a b : SReg) (s : State) : Ans := .next (s.opS d (fun m => boolW (m.sreg a != m.sreg b)) 0 4)
/-- `slt` (R182). -/
def execSlt (d a b : SReg) (s : State) : Ans := .next (s.opS d (fun m => boolW (slt64 (m.sreg a) (m.sreg b))) 0 4)
/-- `sltu` (R182). -/
def execSltu (d a b : SReg) (s : State) : Ans := .next (s.opS d (fun m => boolW (ult64 (m.sreg a) (m.sreg b))) 0 4)
/-- `sel` (R182): the condition is the visible face of its destination. -/
def execSel (d a b : SReg) (s : State) : Ans :=
  .next (s.opS d (fun m => if m.sreg d ≠ 0 then m.sreg a else m.sreg b) 0 4)
/-- `clz` (R182). -/
def execClz (d a : SReg) (s : State) : Ans := .next (s.opS d (fun m => BitVec.ofNat 64 (clz64 (m.sreg a))) 0 4)
/-- `ctz` (R182). -/
def execCtz (d a : SReg) (s : State) : Ans := .next (s.opS d (fun m => BitVec.ofNat 64 (ctz64 (m.sreg a))) 0 4)
/-- `popc` (R182). -/
def execPopc (d a : SReg) (s : State) : Ans := .next (s.opS d (fun m => BitVec.ofNat 64 (popc64 (m.sreg a))) 0 4)

/-! ### SI arithmetic and bit fields (R183, R184) -/

/-- `addi` (R183). -/
def execAddi (d a : SReg) (imm : BitVec 12) (s : State) : Ans :=
  .next (s.opS d (fun m => m.sreg a + imm.signExtend 64) 0 4)
/-- `andi` (R183). -/
def execAndi (d a : SReg) (imm : BitVec 12) (s : State) : Ans :=
  .next (s.opS d (fun m => m.sreg a &&& imm.setWidth 64) 0 4)
/-- `ori` (R183). -/
def execOri (d a : SReg) (imm : BitVec 12) (s : State) : Ans :=
  .next (s.opS d (fun m => m.sreg a ||| imm.setWidth 64) 0 4)
/-- `xori` (R183). -/
def execXori (d a : SReg) (imm : BitVec 12) (s : State) : Ans :=
  .next (s.opS d (fun m => m.sreg a ^^^ imm.setWidth 64) 0 4)
/-- `shli` (R183). -/
def execShli (d a : SReg) (n : BitVec 6) (s : State) : Ans := .next (s.opS d (fun m => m.sreg a <<< n.toNat) 0 4)
/-- `shri` (R183). -/
def execShri (d a : SReg) (n : BitVec 6) (s : State) : Ans := .next (s.opS d (fun m => m.sreg a >>> n.toNat) 0 4)
/-- `srai` (R183). -/
def execSrai (d a : SReg) (n : BitVec 6) (s : State) : Ans :=
  .next (s.opS d (fun m => (m.sreg a).sshiftRight n.toNat) 0 4)
/-- `slti` (R183). -/
def execSlti (d a : SReg) (imm : BitVec 12) (s : State) : Ans :=
  .next (s.opS d (fun m => boolW (slt64 (m.sreg a) (imm.signExtend 64))) 0 4)
/-- `sltui` (R183): the immediate is zero-extended. -/
def execSltui (d a : SReg) (imm : BitVec 12) (s : State) : Ans :=
  .next (s.opS d (fun m => boolW (ult64 (m.sreg a) (imm.setWidth 64))) 0 4)
/-- `bfx` (R184). -/
def execBfx (d a : SReg) (lo wd1 : BitVec 6) (s : State) : Ans := .next (s.opS d (fun m => bfxVal (m.sreg a) lo wd1) 0 4)
/-- `bfxs` (R184). -/
def execBfxs (d a : SReg) (lo wd1 : BitVec 6) (s : State) : Ans :=
  .next (s.opS d (fun m => bfxsVal (m.sreg a) lo wd1) 0 4)
/-- `bfi` (R184): it reads the visible face of its destination. -/
def execBfi (d a : SReg) (lo wd1 : BitVec 6) (s : State) : Ans :=
  .next (s.opS d (fun m => bfiVal (m.sreg d) (m.sreg a) lo wd1) 0 4)

/-! ### Long immediates (R185) -/

/-- `li` (R185). -/
def execLi (d : SReg) (imm : W32) (s : State) : Ans := .next (s.opS d (fun _ => imm.signExtend 64) 0 8)
/-- `lhi` (R185). -/
def execLhi (d a : SReg) (imm : W32) (s : State) : Ans :=
  .next (s.opS d (fun m => (imm ++ (m.sreg a).setWidth 32 : BitVec 64)) 0 8)

end Sys2Proof.Machine
end

