-- ==== Sys2Proof/Machine/Dispatch.lean ====
section
/-! DEFINITION. The meaning of every instruction and step: one arm for each constructor, each a call of its meaning. -/

namespace Sys2Proof.Machine

/-- The meaning of an instruction or step on a state. -/
def exec (i : Instr) (s : State) : Host.Outcome State Fault Refusal :=
  match i with
  | .add d a b => Sys2Proof.Machine.execAdd d a b s
  | .sub d a b => Sys2Proof.Machine.execSub d a b s
  | .mul d a b => Sys2Proof.Machine.execMul d a b s
  | .mulh d a b => Sys2Proof.Machine.execMulh d a b s
  | .mulhu d a b => Sys2Proof.Machine.execMulhu d a b s
  | .div d a b => Sys2Proof.Machine.execDiv d a b s
  | .divu d a b => Sys2Proof.Machine.execDivu d a b s
  | .rem d a b => Sys2Proof.Machine.execRem d a b s
  | .remu d a b => Sys2Proof.Machine.execRemu d a b s
  | .and d a b => Sys2Proof.Machine.execAnd d a b s
  | .or d a b => Sys2Proof.Machine.execOr d a b s
  | .xor d a b => Sys2Proof.Machine.execXor d a b s
  | .andn d a b => Sys2Proof.Machine.execAndn d a b s
  | .shl d a b => Sys2Proof.Machine.execShl d a b s
  | .shr d a b => Sys2Proof.Machine.execShr d a b s
  | .sra d a b => Sys2Proof.Machine.execSra d a b s
  | .min d a b => Sys2Proof.Machine.execMin d a b s
  | .max d a b => Sys2Proof.Machine.execMax d a b s
  | .minu d a b => Sys2Proof.Machine.execMinu d a b s
  | .maxu d a b => Sys2Proof.Machine.execMaxu d a b s
  | .seq d a b => Sys2Proof.Machine.execSeq d a b s
  | .sne d a b => Sys2Proof.Machine.execSne d a b s
  | .slt d a b => Sys2Proof.Machine.execSlt d a b s
  | .sltu d a b => Sys2Proof.Machine.execSltu d a b s
  | .sel d a b => Sys2Proof.Machine.execSel d a b s
  | .clz d a => Sys2Proof.Machine.execClz d a s
  | .ctz d a => Sys2Proof.Machine.execCtz d a s
  | .popc d a => Sys2Proof.Machine.execPopc d a s
  | .mov d m => Sys2Proof.Machine.execMov d m s
  | .ctlRd d c => Sys2Proof.Machine.execCtlRd d c s
  | .ctlWr c a => Sys2Proof.Machine.execCtlWr c a s
  | .probe d p => Sys2Proof.Machine.execProbe d p s
  | .flip => Sys2Proof.Machine.execFlip s
  | .nop => Sys2Proof.Machine.execNop s
  | .retire => Sys2Proof.Machine.execRetire s
  | .eret => Sys2Proof.Machine.execEret s
  | .eretAbort => Sys2Proof.Machine.execEretAbort s
  | .pwrRel => Sys2Proof.Machine.execPwrRel s
  | .jr a => Sys2Proof.Machine.execJr a s
  | .callr d a => Sys2Proof.Machine.execCallr d a s
  | .tlbiAll => Sys2Proof.Machine.execTlbiAll s
  | .tlbiAsid a => Sys2Proof.Machine.execTlbiAsid a s
  | .tlbiVa a b => Sys2Proof.Machine.execTlbiVa a b s
  | .fenceT => Sys2Proof.Machine.execFenceT s
  | .fenceQ => Sys2Proof.Machine.execFenceQ s
  | .fenceD => Sys2Proof.Machine.execFenceD s
  | .fenceP => Sys2Proof.Machine.execFenceP s
  | .fenceS => Sys2Proof.Machine.execFenceS s
  | .barInit a b => Sys2Proof.Machine.execBarInit a b s
  | .barWait a b => Sys2Proof.Machine.execBarWait a b s
  | .barWaitSink a b => Sys2Proof.Machine.execBarWaitSink a b s
  | .waita d a b => Sys2Proof.Machine.execWaita d a b s
  | .addi d a imm => Sys2Proof.Machine.execAddi d a imm s
  | .andi d a imm => Sys2Proof.Machine.execAndi d a imm s
  | .ori d a imm => Sys2Proof.Machine.execOri d a imm s
  | .xori d a imm => Sys2Proof.Machine.execXori d a imm s
  | .shli d a n => Sys2Proof.Machine.execShli d a n s
  | .shri d a n => Sys2Proof.Machine.execShri d a n s
  | .srai d a n => Sys2Proof.Machine.execSrai d a n s
  | .slti d a imm => Sys2Proof.Machine.execSlti d a imm s
  | .sltui d a imm => Sys2Proof.Machine.execSltui d a imm s
  | .bfx d a lo wd1 => Sys2Proof.Machine.execBfx d a lo wd1 s
  | .bfxs d a lo wd1 => Sys2Proof.Machine.execBfxs d a lo wd1 s
  | .bfi d a lo wd1 => Sys2Proof.Machine.execBfi d a lo wd1 s
  | .trap imm => Sys2Proof.Machine.execTrap imm s
  | .gearLo => Sys2Proof.Machine.execGearLo s
  | .gearHi => Sys2Proof.Machine.execGearHi s
  | .pwrAcq c => Sys2Proof.Machine.execPwrAcq c s
  | .pwrReq d a pv n => Sys2Proof.Machine.execPwrReq d a pv n s
  | .ldB d a off => Sys2Proof.Machine.execLdB d a off s
  | .ldBu d a off => Sys2Proof.Machine.execLdBu d a off s
  | .ldH d a off => Sys2Proof.Machine.execLdH d a off s
  | .ldHu d a off => Sys2Proof.Machine.execLdHu d a off s
  | .ldW d a off => Sys2Proof.Machine.execLdW d a off s
  | .ldWu d a off => Sys2Proof.Machine.execLdWu d a off s
  | .ldD d a off => Sys2Proof.Machine.execLdD d a off s
  | .tdLoad n a off => Sys2Proof.Machine.execTdLoad n a off s
  | .stB src a off => Sys2Proof.Machine.execStB src a off s
  | .stH src a off => Sys2Proof.Machine.execStH src a off s
  | .stW src a off => Sys2Proof.Machine.execStW src a off s
  | .stD src a off => Sys2Proof.Machine.execStD src a off s
  | .qdrop d a q => Sys2Proof.Machine.execQdrop d a q s
  | .beq a b off => Sys2Proof.Machine.execBeq a b off s
  | .bne a b off => Sys2Proof.Machine.execBne a b off s
  | .blt a b off => Sys2Proof.Machine.execBlt a b off s
  | .bge a b off => Sys2Proof.Machine.execBge a b off s
  | .bltu a b off => Sys2Proof.Machine.execBltu a b off s
  | .bgeu a b off => Sys2Proof.Machine.execBgeu a b off s
  | .li d imm => Sys2Proof.Machine.execLi d imm s
  | .lhi d a imm => Sys2Proof.Machine.execLhi d a imm s
  | .jal d imm => Sys2Proof.Machine.execJal d imm s
  | .semPost n v => Sys2Proof.Machine.execSemPost n v s
  | .semPostTile a n v => Sys2Proof.Machine.execSemPostTile a n v s
  | .semSet n v => Sys2Proof.Machine.execSemSet n v s
  | .semRd d n => Sys2Proof.Machine.execSemRd d n s
  | .spawn d a pool => Sys2Proof.Machine.execSpawn d a pool s
  | .publish c a => Sys2Proof.Machine.execPublish c a s
  | .yield d => Sys2Proof.Machine.execYield d s
  | .cancelTask a => Sys2Proof.Machine.execCancelTask a s
  | .cancel l a => Sys2Proof.Machine.execCancel l a s
  | .poolGet d pool => Sys2Proof.Machine.execPoolGet d pool s
  | .poolPut a pool => Sys2Proof.Machine.execPoolPut a pool s
  | .tideLoad a n1 => Sys2Proof.Machine.execTideLoad a n1 s
  | .tideGo a post => Sys2Proof.Machine.execTideGo a post s
  | .tideRd d sel => Sys2Proof.Machine.execTideRd d sel s
  | .mma h acc tda tdb sat ta z => Sys2Proof.Machine.execMma h acc tda tdb sat ta z s
  | .mmaSp h acc tda tdb sat ta z => Sys2Proof.Machine.execMmaSp h acc tda tdb sat ta z s
  | .wload h wb tdb => Sys2Proof.Machine.execWload h wb tdb s
  | .wloadT h wb tdb sparse => Sys2Proof.Machine.execWloadT h wb tdb sparse s
  | .aclr h acc => Sys2Proof.Machine.execAclr h acc s
  | .ainit h acc tds => Sys2Proof.Machine.execAinit h acc tds s
  | .adrain h acc tdd tr clear => Sys2Proof.Machine.execAdrain h acc tdd tr clear s
  | .adrainMx h acc tdd tr clear => Sys2Proof.Machine.execAdrainMx h acc tdd tr clear s
  | .fenceOc h => Sys2Proof.Machine.execFenceOc h s
  | .cp h tdd tds slot => Sys2Proof.Machine.execCp h tdd tds slot s
  | .cpAccF32 h tdd tds slot => Sys2Proof.Machine.execCpAccF32 h tdd tds slot s
  | .cpAccBf16 h tdd tds => Sys2Proof.Machine.execCpAccBf16 h tdd tds s
  | .cpAccI32 h tdd tds => Sys2Proof.Machine.execCpAccI32 h tdd tds s
  | .cpMc h tdd tds x mask => Sys2Proof.Machine.execCpMc h tdd tds x mask s
  | .gather h tdd tdt tdl strict => Sys2Proof.Machine.execGather h tdd tdt tdl strict s
  | .scatter h tdt tds tdl strict => Sys2Proof.Machine.execScatter h tdt tds tdl strict s
  | .scatterAccF32 h tdt tds tdl strict => Sys2Proof.Machine.execScatterAccF32 h tdt tds tdl strict s
  | .scatterAccBf16 h tdt tds tdl strict => Sys2Proof.Machine.execScatterAccBf16 h tdt tds tdl strict s
  | .scatterAccI32 h tdt tds tdl strict => Sys2Proof.Machine.execScatterAccI32 h tdt tds tdl strict s
  | .fill h tdd x => Sys2Proof.Machine.execFill h tdd x s
  | .atomAdd h ret x y => Sys2Proof.Machine.execAtomAdd h ret x y s
  | .atomAddthr h ret x y z => Sys2Proof.Machine.execAtomAddthr h ret x y z s
  | .atomSwap h ret x y => Sys2Proof.Machine.execAtomSwap h ret x y s
  | .atomCas h ret x y z => Sys2Proof.Machine.execAtomCas h ret x y z s
  | .atomMin h ret x y => Sys2Proof.Machine.execAtomMin h ret x y s
  | .atomMax h ret x y => Sys2Proof.Machine.execAtomMax h ret x y s
  | .atomArrive h ret x => Sys2Proof.Machine.execAtomArrive h ret x s
  | .note h x y => Sys2Proof.Machine.execNote h x y s
  | .chain h w x => Sys2Proof.Machine.execChain h w x s
  | .stashMap h td zero soff => Sys2Proof.Machine.execStashMap h td zero soff s
  | .stashUnmap h td => Sys2Proof.Machine.execStashUnmap h td s
  | .stashWb h td => Sys2Proof.Machine.execStashWb h td s
  | .offload h tdd tds x => Sys2Proof.Machine.execOffload h tdd tds x s
  | .csend h c link tag tds => Sys2Proof.Machine.execCsend h c link tag tds s
  | .crecv h link tag tdd rc => Sys2Proof.Machine.execCrecv h link tag tdd rc s
  | .cstep h c link tag tdd tdk tds rc => Sys2Proof.Machine.execCstep h c link tag tdd tdk tds rc s
  | .carm h c link tag tds rc y => Sys2Proof.Machine.execCarm h c link tag tds rc y s
  | .crcSet h rc x die => Sys2Proof.Machine.execCrcSet h rc x die s
  | .crcRd h m rc die fleet => Sys2Proof.Machine.execCrcRd h m rc die fleet s
  | .cslot h link x first count1 commit => Sys2Proof.Machine.execCslot h link x first count1 commit s
  | .cef h c link tag tds tdr tdw => Sys2Proof.Machine.execCef h c link tag tds tdr tdw s
  | .vrun h imm => Sys2Proof.Machine.execVrun h imm s
  | .vadd ty rm sat d a b pm => Sys2Proof.Machine.execVadd ty rm sat d a b pm s
  | .vsub ty rm sat d a b pm => Sys2Proof.Machine.execVsub ty rm sat d a b pm s
  | .vmul ty rm sat d a b pm => Sys2Proof.Machine.execVmul ty rm sat d a b pm s
  | .vfma ty rm sat d a b c pm => Sys2Proof.Machine.execVfma ty rm sat d a b c pm s
  | .vmin ty d a b pm => Sys2Proof.Machine.execVmin ty d a b pm s
  | .vmax ty d a b pm => Sys2Proof.Machine.execVmax ty d a b pm s
  | .vand ty d a b pm => Sys2Proof.Machine.execVand ty d a b pm s
  | .vor ty d a b pm => Sys2Proof.Machine.execVor ty d a b pm s
  | .vxor ty d a b pm => Sys2Proof.Machine.execVxor ty d a b pm s
  | .vshl ty d a b pm => Sys2Proof.Machine.execVshl ty d a b pm s
  | .vshr ty d a b pm => Sys2Proof.Machine.execVshr ty d a b pm s
  | .vsra ty d a b pm => Sys2Proof.Machine.execVsra ty d a b pm s
  | .vcmpEq ty d a b pm => Sys2Proof.Machine.execVcmpEq ty d a b pm s
  | .vcmpLt ty d a b pm => Sys2Proof.Machine.execVcmpLt ty d a b pm s
  | .vcmpLe ty d a b pm => Sys2Proof.Machine.execVcmpLe ty d a b pm s
  | .vsel ty d a b pc pm => Sys2Proof.Machine.execVsel ty d a b pc pm s
  | .vcvt ty src rm sat d a pm => Sys2Proof.Machine.execVcvt ty src rm sat d a pm s
  | .vpack ty rm sat d a b pm => Sys2Proof.Machine.execVpack ty rm sat d a b pm s
  | .vperm ty d a b pm => Sys2Proof.Machine.execVperm ty d a b pm s
  | .vredSum ty rm d a pm => Sys2Proof.Machine.execVredSum ty rm d a pm s
  | .vredMax ty d a pm => Sys2Proof.Machine.execVredMax ty d a pm s
  | .vredMin ty d a pm => Sys2Proof.Machine.execVredMin ty d a pm s
  | .vbcast ty d pm imm => Sys2Proof.Machine.execVbcast ty d pm imm s
  | .vslideUp ty d a pm n => Sys2Proof.Machine.execVslideUp ty d a pm n s
  | .vslideDn ty d a pm n => Sys2Proof.Machine.execVslideDn ty d a pm n s
  | .vld conv v kb pm off => Sys2Proof.Machine.execVld conv v kb pm off s
  | .vst conv v kb pm off => Sys2Proof.Machine.execVst conv v kb pm off s
  | .vqmark => Sys2Proof.Machine.execVqmark s
  | .vloop src dist count => Sys2Proof.Machine.execVloop src dist count s
  | .vend => Sys2Proof.Machine.execVend s
  | .vflip => Sys2Proof.Machine.execVflip s
  | .kli d imm => Sys2Proof.Machine.execKli d imm s
  | .kadd d a src n imm => Sys2Proof.Machine.execKadd d a src n imm s
  | .kld d a off => Sys2Proof.Machine.execKld d a off s
  | .kmov d src => Sys2Proof.Machine.execKmov d src s
  | .plen d src imm => Sys2Proof.Machine.execPlen d src imm s
  | .plenS d src imm => Sys2Proof.Machine.execPlenS d src imm s
  | .pand d a b => Sys2Proof.Machine.execPand d a b s
  | .por d a b => Sys2Proof.Machine.execPor d a b s
  | .pnot d a => Sys2Proof.Machine.execPnot d a s
  | .vnop => Sys2Proof.Machine.execVnop s
  | .vtip d a tbl pm => Sys2Proof.Machine.execVtip d a tbl pm s
  | .vtipX d a tbl pm => Sys2Proof.Machine.execVtipX d a tbl pm s
  | .vupd d a b kc pm => Sys2Proof.Machine.execVupd d a b kc pm s
  | .vldx conv v a kc pm => Sys2Proof.Machine.execVldx conv v a kc pm s
  | .vstx conv v a kc pm => Sys2Proof.Machine.execVstx conv v a kc pm s
  | .debugHaltRequest p t on => Sys2Proof.Machine.execDebugHaltRequest p t on s
  | .wordEncodingNothing w => Sys2Proof.Machine.execWordEncodingNothing w s
  | .engineAccessLands t u k => Sys2Proof.Machine.execEngineAccessLands t u k s
  | .semPostTileLands k => Sys2Proof.Machine.execSemPostTileLands k s
  | .queuedPush t => Sys2Proof.Machine.execQueuedPush t s
  | .commandStart t u => Sys2Proof.Machine.execCommandStart t u s
  | .commandCompletion t u k => Sys2Proof.Machine.execCommandCompletion t u k s
  | .flipExchange t d => Sys2Proof.Machine.execFlipExchange t d s
  | .slowWriteLands t => Sys2Proof.Machine.execSlowWriteLands t s
  | .suLoadLands t k => Sys2Proof.Machine.execSuLoadLands t k s
  | .suStoreLands t k => Sys2Proof.Machine.execSuStoreLands t k s
  | .vectorQueueSend t store => Sys2Proof.Machine.execVectorQueueSend t store s
  | .vuLoadLands t k => Sys2Proof.Machine.execVuLoadLands t k s
  | .vuStoreLands t k => Sys2Proof.Machine.execVuStoreLands t k s
  | .mailboxOutsideWrite t ks => Sys2Proof.Machine.execMailboxOutsideWrite t ks s
  | .stashFillComplete t line => Sys2Proof.Machine.execStashFillComplete t line s
  | .stashShadowing t line => Sys2Proof.Machine.execStashShadowing t line s
  | .granuleShadowCopy g => Sys2Proof.Machine.execGranuleShadowCopy g s
  | .remoteStashAccess r => Sys2Proof.Machine.execRemoteStashAccess r s
  | .rmwAtMemoryPoint t c k => Sys2Proof.Machine.execRmwAtMemoryPoint t c k s
  | .lineMove line => Sys2Proof.Machine.execLineMove line s
  | .walkerRecordLoad t w => Sys2Proof.Machine.execWalkerRecordLoad t w s
  | .trapEntry t => Sys2Proof.Machine.execTrapEntry t s
  | .cePacketLand l => Sys2Proof.Machine.execCePacketLand l s
  | .windowGrant l tag g credits => Sys2Proof.Machine.execWindowGrant l tag g credits s
  | .linkPacketStart l => Sys2Proof.Machine.execLinkPacketStart l s
  | .packetReceive l p crcOk => Sys2Proof.Machine.execPacketReceive l p crcOk s
  | .linkReplay l seq => Sys2Proof.Machine.execLinkReplay l seq s
  | .linkTrain l lanes => Sys2Proof.Machine.execLinkTrain l lanes s
  | .laneFailure l eight => Sys2Proof.Machine.execLaneFailure l eight s
  | .fleetTimeExchange ahead err => Sys2Proof.Machine.execFleetTimeExchange ahead err s
  | .slotTableCommit l => Sys2Proof.Machine.execSlotTableCommit l s
  | .dispatchRound d => Sys2Proof.Machine.execDispatchRound d s
  | .taskQueuePush k => Sys2Proof.Machine.execTaskQueuePush k s
  | .poolEnable p => Sys2Proof.Machine.execPoolEnable p s
  | .memberLaunch t => Sys2Proof.Machine.execMemberLaunch t s
  | .restore t => Sys2Proof.Machine.execRestore t s
  | .memberComplete t => Sys2Proof.Machine.execMemberComplete t s
  | .joinPushRetry q => Sys2Proof.Machine.execJoinPushRetry q s
  | .tideDispatch d => Sys2Proof.Machine.execTideDispatch d s
  | .tideCreditArrival l n => Sys2Proof.Machine.execTideCreditArrival l n s
  | .preempt t => Sys2Proof.Machine.execPreempt t s
  | .timer t => Sys2Proof.Machine.execTimer t s
  | .sample t => Sys2Proof.Machine.execSample t s
  | .waitaWake t => Sys2Proof.Machine.execWaitaWake t s
  | .waitaPeriodicReread t => Sys2Proof.Machine.execWaitaPeriodicReread t s
  | .barWaitSinkRelease t => Sys2Proof.Machine.execBarWaitSinkRelease t s
  | .clockResume t => Sys2Proof.Machine.execClockResume t s
  | .rampVoltageStep t => Sys2Proof.Machine.execRampVoltageStep t s
  | .rampSettleEnd t => Sys2Proof.Machine.execRampSettleEnd t s
  | .replan r => Sys2Proof.Machine.execReplan r s
  | .arbiterGrant d => Sys2Proof.Machine.execArbiterGrant d s
  | .thermal stack level => Sys2Proof.Machine.execThermal stack level s
  | .sramScrubPass fixed => Sys2Proof.Machine.execSramScrubPass fixed s
  | .packageReset tfail imageOk => Sys2Proof.Machine.execPackageReset tfail imageOk s
  | .hostPortTrain p lanes => Sys2Proof.Machine.execHostPortTrain p lanes s
  | .hostApertureAccess p a => Sys2Proof.Machine.execHostApertureAccess p a s
  | .hlockRead p n => Sys2Proof.Machine.execHlockRead p n s
  | .hlockWrite p n v => Sys2Proof.Machine.execHlockWrite p n v s
  | .seize p => Sys2Proof.Machine.execSeize p s
  | .resume p => Sys2Proof.Machine.execResume p s
  | .post p => Sys2Proof.Machine.execPost p s
  | .mail p => Sys2Proof.Machine.execMail p s
  | .intr p => Sys2Proof.Machine.execIntr p s
  | .submit p => Sys2Proof.Machine.execSubmit p s
  | .attest p => Sys2Proof.Machine.execAttest p s
  | .linkown p => Sys2Proof.Machine.execLinkown p s
  | .debugModeSet p t on => Sys2Proof.Machine.execDebugModeSet p t on s
  | .debugRecordSet p t on => Sys2Proof.Machine.execDebugRecordSet p t on s
  | .debugRegisterWrite p t r hidden v => Sys2Proof.Machine.execDebugRegisterWrite p t r hidden v s
  | .debugStop p t n => Sys2Proof.Machine.execDebugStop p t n s
  | .debugReverseStep p t => Sys2Proof.Machine.execDebugReverseStep p t s
  | .debugForwardStep p t => Sys2Proof.Machine.execDebugForwardStep p t s
  | .proofTake t => Sys2Proof.Machine.execProofTake t s
  | .registerWrite p r v => Sys2Proof.Machine.execRegisterWrite p r v s
  | .rotationQuantum => Sys2Proof.Machine.execRotationQuantum s
  | .seizeAccessRecord => Sys2Proof.Machine.execSeizeAccessRecord s
  | .seizeWrite => Sys2Proof.Machine.execSeizeWrite s
  | .seizeDone => Sys2Proof.Machine.execSeizeDone s
  | .lossOfPower => Sys2Proof.Machine.execLossOfPower s
  | .uncorrectedError e => Sys2Proof.Machine.execUncorrectedError e s

end Sys2Proof.Machine
end

