-- ==== Sys2Proof/Machine/Plan.lean ====
section
/-! DEFINITION. The schedule (log 3): what the next turn comes to, what a freeze or a replay holds, what has to happen before the next
fabric cycle, and the placing of a word where the next step fetches. -/

namespace Sys2Proof.Machine

/-! ### Fabric cycles (R338, R354, R405, R406) -/

/-- The message of a type is performed, or goes on (R405). -/
def State.runMessage (s : State) (p : PortId) (ty : W64) : State :=
  let r := fun (x : Ans) => match x with | .next u => u | .fault _ | .refused _ => s
  if ty = 1 then r (execSeize p s)
  else if ty = 2 then r (execResume p s)
  else if ty = 3 then r (execPost p s)
  else if ty = 4 then r (execMail p s)
  else if ty = 5 then r (execIntr p s)
  else if ty = 6 then r (execSubmit p s)
  else if ty = 7 then r (execAttest p s)
  else if ty = 8 then r (execLinkown p s)
  else s

/-- Notes that something has been tried in this fabric cycle. -/
def State.try_ (s : State) (k : Nat) : State := { s with fab := { s.fab with tried := k :: s.fab.tried } }

/-- What a host port has waiting is tried once in each fabric cycle (R405, R406): the writes that have not landed first, then the message
behind them. -/
def State.portDue (s : State) (p : PortId) : Option Plan :=
  let x := s.ports[p.val]
  if x.wr ≠ [] then
    (if s.fab.tried.contains (2 * p.val) then none else some (.stay ((s.try_ (2 * p.val)).landHost p)))
  else if s.fab.tried.contains (2 * p.val + 1) then none
  else x.work.map (fun w => .stay ((s.try_ (2 * p.val + 1)).runMessage p w.1))

/-- What has to happen before the next fabric cycle: the rounds, die 0's first, one step of each running table, and what the host ports
have waiting. -/
def State.dueFabric (s : State) : Option Plan :=
  if s.roundDue 0 then some (.run (.dispatchRound 0) s)
  else if s.roundDue 1 then some (.run (.dispatchRound 1) s)
  else if s.tideDue 0 then some (.run (.tideDispatch 0) s)
  else if s.tideDue 1 then some (.run (.tideDispatch 1) s)
  else (s.portDue 0).or (s.portDue 1)

/-- A step of a member: while the package is frozen none is taken (R392). -/
def Instr.ofMember : Instr → Bool
  | .engineAccessLands .. | .semPostTileLands _ | .queuedPush _ | .commandStart .. | .commandCompletion .. | .flipExchange ..
  | .slowWriteLands _ | .suLoadLands .. | .suStoreLands .. | .vectorQueueSend .. | .vuLoadLands .. | .vuStoreLands ..
  | .mailboxOutsideWrite .. | .stashFillComplete .. | .stashShadowing .. | .remoteStashAccess _ | .rmwAtMemoryPoint ..
  | .walkerRecordLoad .. | .trapEntry _ | .memberComplete _ | .preempt _ | .timer _ | .sample _ | .waitaWake _
  | .waitaPeriodicReread _ | .barWaitSinkRelease _ | .proofTake _ => true
  | _ => false

/-- The tile whose member a step belongs to, pre-emption aside. -/
def Instr.memberTile : Instr → Option TileId
  | .engineAccessLands _ .ce _ | .commandCompletion _ .ce _ => none
  | .engineAccessLands t _ _ | .queuedPush t | .commandStart t _ | .commandCompletion t _ _ | .flipExchange t _
  | .slowWriteLands t | .suLoadLands t _ | .suStoreLands t _ | .vectorQueueSend t _ | .vuLoadLands t _ | .vuStoreLands t _
  | .mailboxOutsideWrite t _ | .stashFillComplete t _ | .stashShadowing t _ | .rmwAtMemoryPoint t _ _ | .walkerRecordLoad t _
  | .trapEntry t | .memberComplete t | .timer t | .sample t | .waitaWake t | .waitaPeriodicReread t | .barWaitSinkRelease t
  | .proofTake t => some t
  | .remoteStashAccess r => some (match r with
    | .suLoad t _ | .suStore t _ | .vuLoad t _ | .vuStore t _ | .engine t _ _ | .rmw t _ _ => t)
  | _ => none

/-- A replay stands on the tile of a step's member: nothing of it goes on (R398). -/
def State.replayHolds (s : State) (i : Instr) : Bool :=
  match Instr.memberTile i with
  | some t => (s.tile t).replays
  | none => false

/-- A turn that the freeze of the package holds (R392), or the replay of a member (R398). -/
def State.holdsTurn (s : State) : Turn → Bool
  | .su _ | .vu _ | .tick _ => s.frozen
  | .event i => (s.frozen && Instr.ofMember i) || s.replayHolds i
  | .fleet _ | .fabric | .hostMem .. => false

/-- What a turn comes to. The event turn runs only the steps that no word encodes. -/
def State.planTurn (s : State) : Turn → Plan
  | .su t => s.planSu t
  | .vu t => s.planVu t
  | .tick t => match s.haltedStep t with
    | some s1 => .stay s1
    | none => if (s.tile t).clocked then s.endPlan t true else .stay s
  | .event i => if encode i = .none then .run i s else .stay s
  | .fleet ns => match s.dueAt with
    | some i => .run i s
    | none => .stay (s.passTime ns)
  | .fabric => match s.dueFabric with
    | some p => p
    | none => .stay s.newFabric
  | .hostMem a b => match regionOf a with
    | .host _ => .stay { s with mem := putBytes s.mem a [b] }
    | .dram | .shelf _ _ | .reserved => .stay s

/-- A module without power takes no step but its package reset (R90, R407). -/
def powersUp : Turn → Bool
  | .event (.packageReset _ _) => true
  | _ => false

/-- The next turn and the state without it (log 3). -/
def State.nextTurn (s : State) : Turn × State :=
  match s.sched with
  | t :: ts => (t, { s with sched := ts })
  | [] => (Config.freeTurn s.free, { s with free := s.free + 1 })

/-- A tile whose waits have been tested goes on to the end of its cycle, with the starts of the same cycle first (R74), and then the
instruction that acts after them (R320). -/
def State.closePlan (s : State) (t : TileId) : Plan :=
  match s.dueStart t, s.lastOf t with
  | some i, _ => .run i s
  | none, some i => .run i ({ s with cur := t }.note t)
  | none, none => .stay (s.closeCycle t)

/-- The plan of the next step. -/
def State.plan (s : State) : Plan :=
  match s.closing with
  | some t => s.closePlan t
  | none =>
    let n := s.nextTurn
    if !(s.powered || powersUp n.1) then .off else if s.holdsTurn n.1 then .stay n.2 else n.2.planTurn n.1

/-! ### Placing a word where the next step fetches -/

/-- A tile that runs and has nothing pending, with 16 bytes in its code store at both program counters' places. -/
def Tile.ready (x : Tile) (bs : List Byte) : Tile :=
  let m := x.m
  let pc := m.su.pc
  { x with
    st := .running
    gated := false
    dbg := { x.dbg with hst := .running, hreq := false, recording := false, dmReq := none, recReq := none }
    m := { m with
      su := { m.su with ready := m.ctr.cycle, wait := .no, flip := false }
      code := { m.code with scb := pc, scl := 16, hbase := pc, hlen := 16, bytes := putBytes m.code.bytes pc.toNat bs }
      f := if m.su.inHandler then m.f.mod (.ctl .tvec) (fun n f => { f with vis := pc.setWidth n }) else m.f
      rep := Reports.reset } }

/-- A tile whose vector unit runs a block at its vector program counter, with 8 bytes there. -/
def Tile.readyVu (x : Tile) (bs : List Byte) : Tile :=
  let m := x.m
  let a := m.vu.vpc
  { x with
    st := .running
    gated := false
    dbg := { x.dbg with hst := .running, hreq := false, recording := false, dmReq := none, recReq := none }
    m := { m with
      vu := { m.vu with
        cmd := some ⟨.vrun ⟨none, none, .tile⟩ 0, none, none, .tile, 0, 0, 0, 0, 0, 0, 0, m.asid, 0, 0, none⟩
        ready := m.ctr.cycle, flip := false, vending := false, halted := none }
      code := { m.code with vcb := a, vend := a.toNat + 8, bytes := putBytes m.code.bytes a.toNat bs } } }

/-- The state in which the next step fetches and runs the instruction of a table word on tile 0 (log 27). -/
def State.placeWord (s : State) (nbits w : Nat) : State :=
  let bs := bytesOfNat 16 (w % 2 ^ nbits)
  if nbits = 64 ∧ (decodeVu (BitVec.ofNat 64 w)).isSome = true then
    { (s.modTile 0 (fun x => x.readyVu (bs.take 8))) with sched := [.vu 0], closing := none }
  else { (s.modTile 0 (fun x => x.ready bs)) with sched := [.su 0], closing := none }

end Sys2Proof.Machine
end

