-- ==== Sys2Proof/Machine/Step.lean ====
section
/-! DEFINITION. One step of the machine: the next turn of the schedule. -/

namespace Sys2Proof.Machine

/-- One step: what the next turn comes to (log 3). -/
def step (s : State) : Host.Outcome State Fault Refusal :=
  match s.plan with
  | .run i s' => exec i s'
  | .stay s' => .next s'
  | .off => .fault .unpowered

/-- The state in which the next step fetches and runs the instruction of a table word (log 27). -/
def State.withFetchWord (s : State) (nbits w : Nat) : State := s.placeWord nbits w

end Sys2Proof.Machine
end

