-- ==== Sys2Proof/Safety.lean ====
section
/-! DEFINITION. What a safe run is: a state invariant, and a step that goes on. -/

namespace Sys2Proof.Machine

/-- A step that answers a next state. -/
def State.goesOn (s : State) : Bool :=
  match step s with
  | .next _ => true
  | .fault _ | .refused _ => false

/-- The byte maps of the package are in their canonical form. -/
def State.memOk (s : State) : Bool :=
  SMap.wf blankByte s.mem && SMap.wf blankByte s.mirror && SMap.wf blankByte s.upload

/-! ### Where an instruction can issue -/

/-- The steering unit of the current tile waits on nothing, and its window takes one more issue of this weight (R362). -/
def State.issues (s : State) (wt : Nat) : Bool := ((s.tile s.cur).m.su.wait == .no) && !s.suOver s.cur wt

/-- The vector window of the current tile takes the weight of one more word (R362). -/
def State.issuesV (s : State) (i : Instr) : Bool :=
  decide (windowSum (s.tile s.cur).m.su.vwin (s.tile s.cur).m.ctr.cycle + vuWeight i ≤ vuLimit (classOf (s.tile s.cur).grant))

/-- The weight of a steering instruction (R362): a push weighs 2, every other one 1. -/
def suWeight (i : Instr) : Nat := if (cmdHead i).isSome then 2 else 1

/-- An instruction answers a next state, of which `P` holds. -/
def completes (i : Instr) (s : State) (P : State → Prop) : Prop := ∃ t, exec i s = .next t ∧ P t

/-- A one-word steering word raises ILLEGAL_ENCODING, with the word in TVAL, where the steering unit stands before it (R67). -/
def raisesIllegal (w : W32) : Prop :=
  ∀ s : State, (s.tile s.cur).beforeWord = true → (s.tile s.cur).m.inSection (s.tile s.cur).m.su.pc = true →
    (s.tile s.cur).m.suWord (s.tile s.cur).m.su.pc = w →
    exec (.wordEncodingNothing (.su w)) s = .next (s.raise ⟨0x01, 0, 0, 0, 0, 0, w.setWidth 64⟩)

/-! ### What an instruction writes and what it leaves -/

/-- A register's visible face, hidden face and W bit (R162). -/
def Member.face (m : Member) : DbgReg → W4096 × W4096 × Bool
  | .s i => let f := m.f.s[(r6 i).val]; (f.vis.setWidth 4096, f.hid.setWidth 4096, f.w)
  | .sup i => let f := m.f.sup[(r6 i).val]; (f.vis.setWidth 4096, f.hid.setWidth 4096, f.w)
  | .mb i => let f := m.f.mb[(r4 i).val]; (f.vis.setWidth 4096, f.hid.setWidth 4096, f.w)
  | .td i => let f := m.f.td[(r6 i).val]; (f.vis.setWidth 4096, f.hid.setWidth 4096, f.w)
  | .ctl c => let f := m.f.ctl[c.index.val]; (f.vis.setWidth 4096, f.hid.setWidth 4096, f.w)
  | .v i => let f := m.vf.v[(r5 i).val]; (f.vis, f.hid, f.w)
  | .p i => let f := m.vf.p[(r3 i).val]; (f.vis.setWidth 4096, f.hid.setWidth 4096, f.w)
  | .k i => let f := m.vf.k[(r3 i).val]; (f.vis.setWidth 4096, f.hid.setWidth 4096, f.w)

/-- The steering unit has gone on from one state to another by `len` bytes: the next instruction issues one cycle later,
and the count of retired instructions rises outside a handler (R54, R178, R179). -/
def wentOn (m n : Member) (len : Nat) : Prop :=
  n.su.pc = m.su.pc + BitVec.ofNat 64 len ∧ n.su.ready = m.ctr.cycle + 1 ∧ n.su.wait = .no ∧ n.su.inHandler = m.su.inHandler
    ∧ n.ctr.retired = if m.su.inHandler then m.ctr.retired else m.ctr.retired + 1

/-- A register holds a new hidden face with W set, and its visible face as it was (R164). -/
def hiddenSet (m n : Member) (r : DbgReg) (v : W4096) : Prop := n.face r = ((m.face r).1, v, true)

/-- A steering instruction of `len` bytes has written `v` to the register that the scalar name `d` stands for (R162, R174,
R179): in its hidden face now, or as a slow write that lands `lat` cycles on. `s0` takes nothing. -/
def wrote (s t : State) (d : SReg) (v : W64) (lat len : Nat) : Prop :=
  let m := (s.tile s.cur).m
  let n := (t.tile s.cur).m
  wentOn m n len ∧
    if d = 0 then n.f = m.f
    else if lat = 0 then hiddenSet m n (m.sref d) (v.setWidth 4096)
    else n.f = m.f ∧ n.su.slow
      = m.su.slow ++ [⟨m.su.nextId, m.sref d, fullMask (m.sref d), v.setWidth 4096, m.ctr.cycle + lat⟩]

/-- The steering unit has jumped to an address or gone on to it: the next instruction issues `gap` cycles on (R178, R309). -/
def jumped (m n : Member) (pc : W64) (gap : Nat) : Prop :=
  n.su.pc = pc ∧ n.su.ready = m.ctr.cycle + gap ∧ n.su.wait = .no ∧ n.su.inHandler = m.su.inHandler
    ∧ n.ctr.retired = if m.su.inHandler then m.ctr.retired else m.ctr.retired + 1

/-- What an exchange makes of a register (R168): a register with W set swaps its faces and clears W; any other stays. -/
def exchanged (f : W4096 × W4096 × Bool) : W4096 × W4096 × Bool := if f.2.2 then (f.2.1, f.1, false) else f

/-- The steering unit has entered the handler with a report (R379, R381): TCAUSE, TPC and TVAL are visible, every other
register of the supervisor bank has flipped, and the program counter holds what vis(TVEC) was. -/
def entered (m n : Member) (r : Report) (tpc : W64) : Prop :=
  n.su.pc = m.ctl .tvec ∧ n.su.inHandler = true ∧ n.su.wait = .no ∧ n.su.ready = m.ctr.cycle + 1
    ∧ n.ctl .tcause = (r.seq ++ 0#8 ++ r.chan ++ r.cls ++ r.kind ++ r.reason ++ r.code : BitVec 64) ∧ n.ctl .tpc = tpc
    ∧ n.ctl .tval = r.tval ∧ n.ctr.retired = m.ctr.retired ∧ n.ctr.phaseS = m.ctr.phaseS
    ∧ (∀ i, n.face (.sup i) = exchanged (m.face (.sup i))) ∧ (∀ q, bankOf q ≠ .supervisor → n.face q = m.face q)

/-- Only the member of the current tile differs: every byte of memory, every other tile and every shared unit is the same. -/
def onlyMember (s t : State) : Prop := ∃ f, t = s.modM s.cur f

/-- The units of a member aside from its steering unit, its counters and its steering registers are the same. -/
def sameUnits (m n : Member) : Prop :=
  n.vf = m.vf ∧ n.code = m.code ∧ n.sems = m.sems ∧ n.q = m.q ∧ n.mu = m.mu ∧ n.ch = m.ch ∧ n.vu = m.vu ∧ n.stash = m.stash
    ∧ n.acc = m.acc ∧ n.wb = m.wb ∧ n.tbl = m.tbl ∧ n.rows = m.rows ∧ n.vbank = m.vbank ∧ n.dbank = m.dbank ∧ n.rep = m.rep
    ∧ n.mbq = m.mbq ∧ n.id = m.id

/-- The scalar register that an instruction writes with no check of its own: the arithmetic, the compares, the immediates, the
bit fields, `mov`, `probe` and `jal`. -/
def scalarDest : Instr → Option SReg
  | .add d _ _ | .sub d _ _ | .mul d _ _ | .mulh d _ _ | .mulhu d _ _ | .div d _ _ | .divu d _ _ | .rem d _ _ | .remu d _ _
  | .and d _ _ | .or d _ _ | .xor d _ _ | .andn d _ _ | .shl d _ _ | .shr d _ _ | .sra d _ _ | .min d _ _ | .max d _ _
  | .minu d _ _ | .maxu d _ _ | .seq d _ _ | .sne d _ _ | .slt d _ _ | .sltu d _ _ | .sel d _ _ | .clz d _ | .ctz d _
  | .popc d _ | .addi d _ _ | .andi d _ _ | .ori d _ _ | .xori d _ _ | .shli d _ _ | .shri d _ _ | .srai d _ _
  | .slti d _ _ | .sltui d _ _ | .bfx d _ _ _ | .bfxs d _ _ _ | .bfi d _ _ _ | .li d _ | .lhi d _ _ | .mov d _
  | .probe d _ | .jal d _ => some d
  | _ => none

/-! ### Memory and the forms of the memory instructions -/

/-- Every byte of memory reads as it did. -/
def sameMemory (s t : State) : Prop := ∀ a, byteAt t.mem a = byteAt s.mem a

/-- The destination, base, offset, size and kind of a steering load or `td.load` (R187, R209). -/
def loadForm (m : Member) : Instr → Option (DbgReg × SReg × BitVec 12 × Nat × LoadKind)
  | .ldB d a off => some (m.sref d, a, off, 1, .signed)
  | .ldBu d a off => some (m.sref d, a, off, 1, .unsigned)
  | .ldH d a off => some (m.sref d, a, off, 2, .signed)
  | .ldHu d a off => some (m.sref d, a, off, 2, .unsigned)
  | .ldW d a off => some (m.sref d, a, off, 4, .signed)
  | .ldWu d a off => some (m.sref d, a, off, 4, .unsigned)
  | .ldD d a off => some (m.sref d, a, off, 8, .unsigned)
  | .tdLoad n a off => some (.td n, a, off, 64, .desc ((wordOf (.tdLoad n a off)).setWidth 32))
  | _ => none

/-- The source, base, offset and size of a steering store (R187). -/
def storeForm : Instr → Option (SReg × SReg × BitVec 12 × Nat)
  | .stB v a off => some (v, a, off, 1)
  | .stH v a off => some (v, a, off, 2)
  | .stW v a off => some (v, a, off, 4)
  | .stD v a off => some (v, a, off, 8)
  | _ => none

/-- The scope of a fence (R276). -/
def fenceForm : Instr → Option Scope
  | .fenceT => some .tile
  | .fenceQ => some .quadrant
  | .fenceD => some .die
  | .fenceP => some .package
  | .fenceS => some .system
  | _ => none

/-- The translations that a `tlbi` keeps (R107): the entries that it does not name. -/
def tlbiKeeps (m : Member) : Instr → Option (TlbEntry → Bool)
  | .tlbiAll => some (fun _ => false)
  | .tlbiAsid a => some (fun e => e.asid != (m.sreg a).setWidth 12)
  | .tlbiVa a b => some (fun e =>
      e.asid != (m.sreg a).setWidth 12 || decide ((m.sreg b).toNat % 2 ^ 55 / 2 ^ e.span ≠ e.page))
  | _ => none

/-! ### Vector words -/

/-- The vector unit has gone on past a word (R212, R219). -/
def wordDone (m n : Member) : Prop :=
  n.vu.loops = (advLoops m.vu.vpc m.vu.loops).1 ∧ n.vu.vpc = (advLoops m.vu.vpc m.vu.loops).2
    ∧ n.vu.ready = m.ctr.cycle + 1 ∧ n.vu.flip = m.vu.flip ∧ n.vu.vending = m.vu.vending ∧ n.vu.halted = m.vu.halted
    ∧ n.vu.cmd = m.vu.cmd

/-- What no vector word touches: the steering stream and its registers, the counters, semaphores, queues, engines, stash,
accumulators, panels, tables and reports of its member. -/
def steeringSame (m n : Member) : Prop :=
  n.f = m.f ∧ n.code = m.code ∧ n.ctr = m.ctr ∧ n.sems = m.sems ∧ n.q = m.q ∧ n.mu = m.mu ∧ n.ch = m.ch ∧ n.stash = m.stash
    ∧ n.acc = m.acc ∧ n.wb = m.wb ∧ n.tbl = m.tbl ∧ n.rows = m.rows ∧ n.dbank = m.dbank ∧ n.rep = m.rep ∧ n.mbq = m.mbq
    ∧ n.id = m.id ∧ n.su.pc = m.su.pc ∧ n.su.wait = m.su.wait ∧ n.su.stores = m.su.stores

/-- A vector word has written the bits of `mask` of a register (R162, R164, R217): in its hidden face now, or as a slow write
that lands `lat` cycles on. `p0` takes nothing, and neither does a write that covers no bit. -/
def wroteV (m n : Member) (r : DbgReg) (mask val : W4096) (lat : Nat) : Prop :=
  if isConst r = true ∨ mask = 0 then ∀ q, n.face q = m.face q
  else if lat = 0 then
    n.face r = ((m.face r).1, ((if (m.face r).2.2 then (m.face r).2.1 else (m.face r).1) &&& ~~~mask) ||| (val &&& mask), true)
      ∧ ∀ q, q ≠ r → n.face q = m.face q
  else n.vf = m.vf ∧ n.su.slow = m.su.slow ++ [⟨m.su.nextId, r, mask, val, m.ctr.cycle + lat⟩]

/-- A vector word issues, goes on, and leaves what no vector word touches. -/
def wordRuns (i : Instr) (s : State) (P : Member → Member → Prop) : Prop :=
  completes i s (fun t => onlyMember s t ∧ wordDone (s.tile s.cur).m (t.tile s.cur).m
    ∧ steeringSame (s.tile s.cur).m (t.tile s.cur).m ∧ P (s.tile s.cur).m (t.tile s.cur).m)

/-- An element-wise word writes `f e` in every element `e` that its predicate holds active (R228). -/
def writesElems (i : Instr) (s : State) (ty : VTy) (d : VReg) (pm : PReg) (lat : Nat) (f : Member → Nat → Nat) : Prop :=
  wordRuns i s (fun m n => ∃ x, wroteV m n (.v d) (maskOf ty (m.preg pm)) x lat
    ∧ ∀ e, e < ty.count → active ty (m.preg pm) e = true → elemOf ty x e = f m e)

/-- The queue entry that a vector load makes (R216, R239, R241, R246): what it loads, its register, its alignment, its lane
addresses, the bits that it writes and the cycles that it holds the port. -/
def vloadForm (m : Member) : Instr → Option (VKind × DbgReg × Nat × List (Nat × W64) × W4096 × (List LaneAcc → Nat))
  | .vld conv v kb pm off => some (.load conv, .v v, convSize conv, lineAddrs m kb pm off (convSize conv), maskOf .f32 (m.preg pm), fun _ => 1)
  | .vldx conv v a kc pm => some (.load conv, .v v, convSize conv, indexAddrs m kc pm a, maskOf .f32 (m.preg pm), bankLoad)
  | .kld d a off => some (.kload, .k d, 8, [(0, m.kreg a + off.signExtend 64)], fullMask (.k d), fun _ => 1)
  | _ => none

/-- The queue entry that a vector store makes (R216, R239, R241): its conversion, its register, its lane addresses and the
cycles that it holds the port. -/
def vstoreForm (m : Member) : Instr → Option (Conv × VReg × List (Nat × W64) × (List LaneAcc → Nat))
  | .vst conv v kb pm off => some (conv, v, lineAddrs m kb pm off (convSize conv), fun _ => 1)
  | .vstx conv v a kc pm => some (conv, v, indexAddrs m kc pm a, bankLoad)
  | _ => none

/-- A word that rounds writes `f r e` in every element `e` that its predicate holds active, where `r` is the element's random
bits under `sr` and 0 under every other mode; the vector bank steps under `sr` alone (R203 to R205, R228). -/
def roundsElems (i : Instr) (s : State) (ty : VTy) (rm : RMode) (d : VReg) (pm : PReg) (lat : Nat) (u : BitVec 256 → GenUse)
    (f : Member → Nat → Nat → Nat) : Prop :=
  wordRuns i s (fun m n =>
    n.vbank = (if rm = .sr then (u (m.preg pm)).after m.vbank else m.vbank)
      ∧ ∃ x, wroteV m n (.v d) (maskOf ty (m.preg pm)) x lat ∧ ∀ e, e < ty.count → active ty (m.preg pm) e = true →
        elemOf ty x e = f m (if rm = .sr then (u (m.preg pm)).bits m.vbank e else 0) e)

/-- The code of an integer result, clamped to the type where SAT is set and wrapped otherwise (R230). -/
def intResult (ty : VTy) (sat : Bool) (n : Int) : Nat :=
  let w := vtyBits ty
  let signed : Bool := ty = .i32 ∨ ty = .i16
  let lo : Int := if signed then -2 ^ (w - 1) else 0
  let hi : Int := if signed then 2 ^ (w - 1) - 1 else 2 ^ w - 1
  ((if sat then max lo (min n hi) else n) % 2 ^ w).toNat

end Sys2Proof.Machine
end

