-- ==== Sys2Proof/Certificates/Slice0/Obligations.lean ====
section
/-! DEFINITION. The statements about the model, each a proposition. -/

open Sys2Proof
open Sys2Proof.Machine

/-! ### Encoding and fetching (R50 to R67) -/

/-- R55 and R61 to R66: every well-formed instruction that a word encodes is what its own encoding decodes to, with each operand
at every value that the encoding admits. -/
def Obligations.DecodeOfEncode : Prop :=
  ∀ i : Instr, i.wf = true → i.hasWord = true → (encode i).decoded = some i

/-- Words that the spec writes out stand for the instructions that it names beside them (R177, R180, R182, R183, R185, R223, R313,
R321, R324, R327, R359, R365, R366, R383). -/
def Obligations.WordsOfTheSpec : Prop :=
  decodeSuWords 0x010C4140 [] = .ok (.add 3 4 5) 4 ∧ decodeSuWords 0x020C4144 [] = .ok (.sel 3 4 5) 4
    ∧ decodeSuWords 0x020C4005 [] = .ok (.clz 3 4) 4 ∧ decodeSuWords 0x080C3FFF [] = .ok (.addi 3 3 0xFFF) 4
    ∧ decodeSuWords 0x0C0C4028 [] = .ok (.shli 3 4 40) 4 ∧ decodeSuWords 0x111C620B [] = .ok (.bfx 7 6 8 11) 4
    ∧ decodeSuWords 0x40140000 [0x12345678] = .ok (.li 5 0x12345678) 8 ∧ decodeSuWords 0x03143000 [] = .ok (.mov 5 3) 4
    ∧ decodeSuWords 0x03200001 [] = .ok (.ctlRd 8 .gear) 4 ∧ decodeSuWords 0x03803002 [] = .ok (.ctlWr .asid 3) 4
    ∧ decodeSuWords 0x03244003 [] = .ok (.probe 9 .flipwait) 4 ∧ decodeSuWords 0x03000004 [] = .ok .flip 4
    ∧ decodeSuWords 0x03000005 [] = .ok .nop 4 ∧ decodeSuWords 0x041461C8 [] = .ok (.waita 5 6 7) 4
    ∧ decodeSuWords 0x040061C5 [] = .ok (.barInit 6 7) 4 ∧ decodeSuWords 0x040061C6 [] = .ok (.barWait 6 7) 4
    ∧ decodeSuWords 0x15000001 [] = .ok .gearHi 4 ∧ decodeSuWords 0x16000005 [] = .ok (.pwrAcq 5) 4
    ∧ decodeSuWords 0x03000008 [] = .ok .pwrRel 4 ∧ decodeSuWords 0x1400002A [] = .ok (.trap 0x2A) 4
    ∧ decodeSuWords 0x03000007 [] = .ok .eret 4 ∧ decodeSuWords 0x03040007 [] = .ok .eretAbort 4
    ∧ decodeVu 0x4060000000000000 = some .vqmark ∧ decodeVu 0x6060000000000000 = some .vflip

/-- R54: a steering word with 11 in its top bits encodes nothing. R59, R60 and R61: neither does a one-word or a two-word
instruction of an unassigned major, or of an unassigned minor of its major, and so the zero word. R63 and R68: a command of an
unassigned major or minor is CMD_ERROR with reason 1. R64 and R66: a vector word of a format 101 to 111 or with opcode 0 encodes
nothing. -/
def Obligations.UnassignedWordsEncodeNothing : Prop :=
  (∀ (w : W32) (ws : List W32), w.extractLsb' 30 2 = 3 → decodeSuWords w ws = .noWord)
    ∧ (∀ ws, decodeSuWords 0 ws = .noWord)
    ∧ (∀ (w : W32) (ws : List W32), w.extractLsb' 30 2 = 0 →
        let maj := (w.extractLsb' 24 6).toNat
        (maj ∈ [0x00, 0x05, 0x06, 0x07, 0x25, 0x26, 0x27, 0x2E, 0x2F] ∨ 0x30 ≤ maj → decodeSuWords w ws = .noWord)
          ∧ ∀ e ∈ [(0x01, 0x14), (0x02, 0x08), (0x03, 0x0C), (0x04, 0x09)], maj = e.1 → e.2 ≤ (w.extractLsb' 0 6).toNat →
            decodeSuWords w ws = .noWord)
    ∧ (∀ (w x : W32) (ws : List W32), w.extractLsb' 30 2 = 1 →
        let maj := (w.extractLsb' 24 6).toNat
        (0x06 ≤ maj → decodeSuWords w (x :: ws) = .noWord)
          ∧ ∀ e ∈ [(0x00, 1), (0x01, 1), (0x02, 1), (0x03, 3), (0x04, 6), (0x05, 3)], maj = e.1 → e.2 ≤ (w.extractLsb' 6 6).toNat →
            decodeSuWords w (x :: ws) = .noWord)
    ∧ (∀ (w x y z : W32) (ws : List W32), w.extractLsb' 30 2 = 2 →
        let maj := (w.extractLsb' 24 6).toNat
        let minors := if maj = 0x11 ∨ maj = 0x15 then 3 else if maj = 0x17 then 7 else 1
        ((0x09 ≤ maj ∧ maj ≤ 0x0F) ∨ maj = 0x1E ∨ maj = 0x1F ∨ (0x28 ≤ maj ∧ maj ≠ 0x30) ∨ minors ≤ (w.extractLsb' 18 6).toNat →
          decodeSuWords w (x :: y :: z :: ws) = .badCmd 1))
    ∧ (∀ w : W64, 5 ≤ (w.extractLsb' 61 3).toNat → decodeVu w = none)
    ∧ (∀ w : W64, w.extractLsb' 53 8 = 0 → decodeVu w = none)

/-- A step runs the instruction that stands at the steering program counter: on a turn of a tile whose steering unit stands at a
boundary with nothing pending, the words in the code store decode to an instruction and the step is that instruction on the state
with the tile made current (and, while the tile records, its boundary noted). An instruction that acts at the end of its cycle
(R320) waits for what goes before it in the cycle. A step runs the word at the vector program counter of a running block, on the
state with the tile made current. -/
def Obligations.StepRunsWords : Prop :=
  (∀ (s : State) (t : TileId) (ts : List Turn) (i : Instr) (len : Nat),
     let x := s.tile t
     let m := x.m
     let w := m.suWord m.su.pc
     let more := (List.range (moreWords w)).map (fun k => m.su.pc + BitVec.ofNat 64 (4 * (k + 1)))
     s.powered = true → s.frozen = false → s.closing = none → s.sched = .su t :: ts → x.st = .running → x.gated = false →
     x.dbg.hst = .running → x.dbg.hreq = false → x.dbgFirst = false → m.su.ready ≤ m.ctr.cycle → m.reissues = false → m.su.flip = false →
     m.su.wait = .no → m.rep.preempt = false → (m.su.inHandler = true ∨ m.nextReport = none) →
     m.inSection m.su.pc = true → (∀ a ∈ more, m.inSection a = true) → decodeSuWords w (more.map m.suWord) = .ok i len →
     (Instr.actsLast i = false ∨ State.beforeLast { s with sched := ts } t = none) →
       step s = exec i (({ s with sched := ts, cur := t }).note t)
         ∧ (x.dbg.recording = false → step s = exec i { s with sched := ts, cur := t }))
  ∧ (∀ (s : State) (t : TileId) (ts : List Turn) (i : Instr),
       let x := s.tile t
       let m := x.m
       s.powered = true → s.frozen = false → s.closing = none → s.sched = .vu t :: ts → x.st = .running → x.gated = false →
       x.dbg.hst = .running → ((x.dbg.hreq = false ∧ x.owesProof = false) ∨ m.su.wait.boundary = false ∨ m.ctr.cycle < m.su.ready) →
       m.vu.ready ≤ m.ctr.cycle → m.vu.flip = false → m.vu.vending = false → m.vu.halted = none → m.vu.cmd ≠ none →
       m.code.vcb.toNat ≤ m.vu.vpc.toNat → m.vu.vpc.toNat + 8 ≤ m.code.vend →
       decodeVu (BitVec.ofNat 64 (numAt m.code.bytes m.vu.vpc.toNat 8)) = some i →
         step s = exec i { s with sched := ts, cur := t })

/-- The model's own schedule (log 3): with no turn listed a step takes the free turn, and a module without power takes no step but
a package reset (R90). A tile whose waits have been tested first finishes its cycle, the starts of the cycle before its end (R74).
A frozen package takes no turn of a tile (R392). -/
def Obligations.ScheduleAndPower : Prop :=
  ∀ s : State,
    (s.closing = none → s.sched = [] → step s = step { s with sched := [Config.freeTurn s.free], free := s.free + 1 })
      ∧ (∀ t ts, s.closing = none → s.sched = t :: ts → s.powered = false → powersUp t = false → step s = .fault .unpowered)
      ∧ (∀ f ok ts, s.closing = none → s.sched = .event (.packageReset f ok) :: ts →
          step s = exec (.packageReset f ok) { s with sched := ts })
      ∧ (∀ t i, s.closing = some t → s.dueStart t = some i → step s = exec i s)
      ∧ (∀ t, s.closing = some t → s.dueStart t = none → s.lastOf t = none → step s = .next (s.closeCycle t))
      ∧ (∀ t u ts, s.closing = none → s.powered = true → s.frozen = true → u ∈ [Turn.su t, Turn.vu t, Turn.tick t] →
          s.sched = u :: ts → step s = .next { s with sched := ts })

/-! ### Memory and reset -/

/-- Every step keeps the byte maps of the package in canonical form: addresses strictly rising, and no byte listed that reads as
an unlisted one. -/
def Obligations.StepKeepsMemoryForm : Prop :=
  ∀ s t : State, s.memOk = true → step s = .next t → t.memOk = true

/-- The byte maps have their canonical form after reset, and memory lists nothing. After reset every tile is idle and holds no
grant, every faced register reads 0 with W clear but `p0`, every semaphore, receive counter and slot entry is 0, and no report is
pending (R162, R170, R289, R293); every island stands at point 10 (R368), every link has owner 0 (R284) and every tide table is
idle (R352). Where the spec gives no reset value the value is the model's own (logs 5, 7, 17, 18). -/
def Obligations.ResetState : Prop :=
  (State.reset.memOk = true ∧ Memory.wf State.reset.mem ∧ ∀ a, byteAt State.reset.mem a = blankByte)
  ∧ ((∀ t : TileId,
       let x := State.reset.tile t
       x.st = .idle ∧ x.grant = none ∧ x.isl.point = 10 ∧ x.m.rep = Reports.reset
         ∧ (∀ r, r ≠ .p 0 → x.m.face r = (0, 0, false)) ∧ x.m.preg 0 = BitVec.allOnes 256
         ∧ (∀ n, x.m.sem n = 0) ∧ x.m.ctr.pseq = 0 ∧ x.m.su.inHandler = false)
       ∧ (∀ (d : DieId) (k : Fin 64), (State.reset.dies[d.val]).rc[k] = 0)
       ∧ (∀ l : LinkId, (State.reset.links[l.val]).active = [] ∧ (State.reset.links[l.val]).owner = 0)
       ∧ (∀ d : DieId, (State.reset.dies[d.val]).tide.st = .idle))

/-- R7: bytes written from an address read back in their order, every other byte reads as before, and the form is kept. Two byte
maps in canonical form that read alike are the same list. -/
def Obligations.ByteMaps : Prop :=
  (∀ (m : SMap Byte) (a : Nat) (bs : List Byte), Memory.wf m →
     Memory.wf (putBytes m a bs) ∧ bytesAt (putBytes m a bs) a bs.length = bs
       ∧ ∀ x, x < a ∨ a + bs.length ≤ x → byteAt (putBytes m a bs) x = byteAt m x)
  ∧ (∀ m n : SMap Byte, Memory.wf m → Memory.wf n → (∀ a, byteAt m a = byteAt n a) → m = n)

/-! ### Steering arithmetic (R179 to R185) -/

/-- R180 and R181: each `alu` instruction writes the value that the rule's table gives, in its hidden face at once, a multiply two
cycles later and a division twenty (R179), and goes on by one word. Division truncates toward zero, a remainder takes the sign of
its dividend, and the edge cases give the rule's values. The words hold major 0x01 and the minors of R60. COMPLETES (exec answers
next, on conditions on state and operands alone): `add`, `sub`, `mul`, `mulh`, `mulhu`, `and`, `or`, `xor`, `andn`, `shl`, `shr`,
`sra`, `min`, `max`, `minu`, `maxu`, `div`, `rem`, `divu`, `remu`. -/
def Obligations.SteeringArithmetic : Prop :=
  (∀ (s : State) (d a b : SReg), s.issues 1 = true →
     let m := (s.tile s.cur).m
     let x := m.sreg a
     let y := m.sreg b
     completes (.add d a b) s (fun t => wrote s t d (x + y) 0 4)
     ∧ completes (.sub d a b) s (fun t => wrote s t d (x - y) 0 4)
     ∧ completes (.mul d a b) s (fun t => wrote s t d (BitVec.ofNat 64 (x.toNat * y.toNat)) 2 4)
     ∧ completes (.mulh d a b) s (fun t => wrote s t d (BitVec.ofInt 64 (x.toInt * y.toInt / 2 ^ 64)) 2 4)
     ∧ completes (.mulhu d a b) s (fun t => wrote s t d (BitVec.ofNat 64 (x.toNat * y.toNat / 2 ^ 64)) 2 4)
     ∧ completes (.and d a b) s (fun t => wrote s t d (x &&& y) 0 4)
     ∧ completes (.or d a b) s (fun t => wrote s t d (x ||| y) 0 4)
     ∧ completes (.xor d a b) s (fun t => wrote s t d (x ^^^ y) 0 4)
     ∧ completes (.andn d a b) s (fun t => wrote s t d (x &&& ~~~y) 0 4)
     ∧ completes (.shl d a b) s (fun t => wrote s t d (BitVec.ofNat 64 (x.toNat * 2 ^ (y.toNat % 64))) 0 4)
     ∧ completes (.shr d a b) s (fun t => wrote s t d (BitVec.ofNat 64 (x.toNat / 2 ^ (y.toNat % 64))) 0 4)
     ∧ completes (.sra d a b) s (fun t => wrote s t d (BitVec.ofInt 64 (x.toInt / 2 ^ (y.toNat % 64))) 0 4)
     ∧ completes (.min d a b) s (fun t => wrote s t d (if x.toInt ≤ y.toInt then x else y) 0 4)
     ∧ completes (.max d a b) s (fun t => wrote s t d (if x.toInt ≤ y.toInt then y else x) 0 4)
     ∧ completes (.minu d a b) s (fun t => wrote s t d (if x.toNat ≤ y.toNat then x else y) 0 4)
     ∧ completes (.maxu d a b) s (fun t => wrote s t d (if x.toNat ≤ y.toNat then y else x) 0 4))
  ∧ (∀ (s : State) (d a b : SReg), s.issues 1 = true →
       let m := (s.tile s.cur).m
       let x := m.sreg a
       let y := m.sreg b
       completes (.div d a b) s (fun t => wrote s t d
         (if y = 0 then BitVec.ofInt 64 (-1) else if x.toInt = -2 ^ 63 ∧ y.toInt = -1 then BitVec.ofInt 64 (-2 ^ 63)
           else BitVec.ofInt 64 (x.toInt.tdiv y.toInt)) 20 4)
       ∧ completes (.rem d a b) s (fun t => wrote s t d
         (if y = 0 then x else if x.toInt = -2 ^ 63 ∧ y.toInt = -1 then 0
           else BitVec.ofInt 64 (x.toInt - x.toInt.tdiv y.toInt * y.toInt)) 20 4)
       ∧ completes (.divu d a b) s (fun t => wrote s t d
         (if y = 0 then BitVec.ofInt 64 (-1) else BitVec.ofNat 64 (x.toNat / y.toNat)) 20 4)
       ∧ completes (.remu d a b) s (fun t => wrote s t d
         (if y = 0 then x else BitVec.ofNat 64 (x.toNat - x.toNat / y.toNat * y.toNat)) 20 4))
  ∧ (∀ d a b : SReg, ∀ e ∈ [
      (Instr.add d a b, 0x00), (Instr.sub d a b, 0x01), (Instr.mul d a b, 0x02), (Instr.mulh d a b, 0x03), (Instr.mulhu d a b, 0x04),
      (Instr.div d a b, 0x05), (Instr.divu d a b, 0x06), (Instr.rem d a b, 0x07), (Instr.remu d a b, 0x08), (Instr.and d a b, 0x09),
      (Instr.or d a b, 0x0A), (Instr.xor d a b, 0x0B), (Instr.andn d a b, 0x0C), (Instr.shl d a b, 0x0D), (Instr.shr d a b, 0x0E),
      (Instr.sra d a b, 0x0F), (Instr.min d a b, 0x10), (Instr.max d a b, 0x11), (Instr.minu d a b, 0x12), (Instr.maxu d a b, 0x13)],
    (wordOf e.1).extractLsb' 24 6 = 0x01#6 ∧ (wordOf e.1).extractLsb' 0 6 = BitVec.ofNat 6 e.2)

/-- R182: compares, select and bit counts. `clz` counts the zero bits above the highest one bit, `ctz` those below the lowest, and
both give 64 for zero. The words hold major 0x02 and the minors of the table; `clz`, `ctz` and `popc` with SB nonzero encode
nothing and raise ILLEGAL_ENCODING. COMPLETES (exec answers next, on conditions on state and operands alone): `seq`, `sne`, `slt`,
`sltu`, `sel`, `clz`, `ctz`, `popc`. -/
def Obligations.CompareSelectCount : Prop :=
  (∀ (s : State) (d a b : SReg), s.issues 1 = true →
     let m := (s.tile s.cur).m
     let x := m.sreg a
     let y := m.sreg b
     completes (.seq d a b) s (fun t => wrote s t d (if x = y then 1 else 0) 0 4)
     ∧ completes (.sne d a b) s (fun t => wrote s t d (if x = y then 0 else 1) 0 4)
     ∧ completes (.slt d a b) s (fun t => wrote s t d (if x.toInt < y.toInt then 1 else 0) 0 4)
     ∧ completes (.sltu d a b) s (fun t => wrote s t d (if x.toNat < y.toNat then 1 else 0) 0 4)
     ∧ completes (.sel d a b) s (fun t => wrote s t d (if m.sreg d = 0 then y else x) 0 4)
     ∧ completes (.clz d a) s (fun t => ∃ n, wrote s t d (BitVec.ofNat 64 n) 0 4 ∧ n ≤ 64
         ∧ (∀ k, 64 - n ≤ k → x.getLsbD k = false) ∧ (n < 64 → x.getLsbD (63 - n) = true))
     ∧ completes (.ctz d a) s (fun t => ∃ n, wrote s t d (BitVec.ofNat 64 n) 0 4 ∧ n ≤ 64
         ∧ (∀ k, k < n → x.getLsbD k = false) ∧ (n < 64 → x.getLsbD n = true))
     ∧ completes (.popc d a) s (fun t => wrote s t d
         (BitVec.ofNat 64 ((List.range 64).filter (fun k => x.getLsbD k)).length) 0 4))
  ∧ (∀ d a b : SReg, ∀ e ∈ [(Instr.seq d a b, 0x00), (Instr.sne d a b, 0x01), (Instr.slt d a b, 0x02), (Instr.sltu d a b, 0x03),
      (Instr.sel d a b, 0x04), (Instr.clz d a, 0x05), (Instr.ctz d a, 0x06), (Instr.popc d a, 0x07)],
    (wordOf e.1).extractLsb' 24 6 = 0x02#6 ∧ (wordOf e.1).extractLsb' 0 6 = BitVec.ofNat 6 e.2)
  ∧ (∀ (w : W32) (ws : List W32), w.extractLsb' 24 8 = 0x02 → w.extractLsb' 0 6 ∈ [0x05#6, 0x06#6, 0x07#6] →
      w.extractLsb' 6 6 ≠ 0 → decodeSuWords w ws = .noWord ∧ raisesIllegal w)

/-- R183: arithmetic on immediates, each extended as its table states, under the majors of R59; a shift with IMM[11:6] nonzero
encodes nothing. R184: a field of `wd1 + 1` bits from bit `lo` is read zero-extended or sign-extended, or inserted, and `bfi`
keeps every other bit of the visible face of its destination; a field past bit 63 encodes nothing. R185: `li` and `lhi` with the
second word as their immediate. A word that encodes nothing raises ILLEGAL_ENCODING. COMPLETES (exec answers next, on conditions
on state and operands alone): `addi`, `andi`, `ori`, `xori`, `shli`, `shri`, `srai`, `slti`, `sltui`, `li`, `lhi`, `bfx`, `bfxs`,
`bfi`. -/
def Obligations.Immediates : Prop :=
  (∀ (s : State) (d a : SReg) (imm : BitVec 12) (n : BitVec 6) (w : W32), s.issues 1 = true →
     let m := (s.tile s.cur).m
     let x := m.sreg a
     completes (.addi d a imm) s (fun t => wrote s t d (BitVec.ofInt 64 (x.toInt + imm.toInt)) 0 4)
     ∧ completes (.andi d a imm) s (fun t => wrote s t d (x &&& BitVec.ofNat 64 imm.toNat) 0 4)
     ∧ completes (.ori d a imm) s (fun t => wrote s t d (x ||| BitVec.ofNat 64 imm.toNat) 0 4)
     ∧ completes (.xori d a imm) s (fun t => wrote s t d (x ^^^ BitVec.ofNat 64 imm.toNat) 0 4)
     ∧ completes (.shli d a n) s (fun t => wrote s t d (BitVec.ofNat 64 (x.toNat * 2 ^ n.toNat)) 0 4)
     ∧ completes (.shri d a n) s (fun t => wrote s t d (BitVec.ofNat 64 (x.toNat / 2 ^ n.toNat)) 0 4)
     ∧ completes (.srai d a n) s (fun t => wrote s t d (BitVec.ofInt 64 (x.toInt / 2 ^ n.toNat)) 0 4)
     ∧ completes (.slti d a imm) s (fun t => wrote s t d (if x.toInt < imm.toInt then 1 else 0) 0 4)
     ∧ completes (.sltui d a imm) s (fun t => wrote s t d (if x.toNat < imm.toNat then 1 else 0) 0 4)
     ∧ completes (.li d w) s (fun t => wrote s t d (BitVec.ofInt 64 w.toInt) 0 8)
     ∧ completes (.lhi d a w) s (fun t => wrote s t d (BitVec.ofNat 64 (w.toNat * 2 ^ 32 + x.toNat % 2 ^ 32)) 0 8))
  ∧ (∀ (s : State) (d a : SReg) (lo wd1 : BitVec 6), s.issues 1 = true → lo.toNat + (wd1.toNat + 1) ≤ 64 →
       let m := (s.tile s.cur).m
       let x := m.sreg a
       completes (.bfx d a lo wd1) s (fun t => wrote s t d ((x.extractLsb' lo.toNat (wd1.toNat + 1)).setWidth 64) 0 4)
       ∧ completes (.bfxs d a lo wd1) s (fun t => wrote s t d ((x.extractLsb' lo.toNat (wd1.toNat + 1)).signExtend 64) 0 4)
       ∧ completes (.bfi d a lo wd1) s (fun t => ∃ y, wrote s t d y 0 4 ∧ ∀ k, k < 64 → y.getLsbD k
           = if lo.toNat ≤ k ∧ k < lo.toNat + (wd1.toNat + 1) then x.getLsbD (k - lo.toNat) else (m.sreg d).getLsbD k))
  ∧ (∀ (d a : SReg) (imm : BitVec 12) (n lo wd1 : BitVec 6), ∀ e ∈ [
      (Instr.addi d a imm, 0x08), (Instr.andi d a imm, 0x09), (Instr.ori d a imm, 0x0A), (Instr.xori d a imm, 0x0B),
      (Instr.shli d a n, 0x0C), (Instr.shri d a n, 0x0D), (Instr.srai d a n, 0x0E), (Instr.slti d a imm, 0x0F),
      (Instr.sltui d a imm, 0x10), (Instr.bfx d a lo wd1, 0x11), (Instr.bfxs d a lo wd1, 0x12), (Instr.bfi d a lo wd1, 0x13)],
    (wordOf e.1).extractLsb' 24 8 = BitVec.ofNat 8 e.2)
  ∧ (∀ (w : W32) (ws : List W32), w.extractLsb' 24 8 ∈ [0x0C#8, 0x0D#8, 0x0E#8] → w.extractLsb' 6 6 ≠ 0 →
      decodeSuWords w ws = .noWord ∧ raisesIllegal w)
  ∧ (∀ (w : W32) (ws : List W32), w.extractLsb' 24 8 ∈ [0x11#8, 0x12#8, 0x13#8] →
      64 < (w.extractLsb' 6 6).toNat + ((w.extractLsb' 0 6).toNat + 1) →
      decodeSuWords w ws = .noWord ∧ raisesIllegal w)
  ∧ (∀ w imm : W32,
      (w.extractLsb' 24 8 = 0x40 → decodeSuWords w [imm]
        = if w.extractLsb' 0 18 = 0 then .ok (.li (w.extractLsb' 18 6) imm) 8 else .noWord)
      ∧ (w.extractLsb' 24 8 = 0x41 → decodeSuWords w [imm]
        = if w.extractLsb' 0 12 = 0 then .ok (.lhi (w.extractLsb' 18 6) (w.extractLsb' 12 6) imm) 8 else .noWord))

/-! ### Control (R166 to R178, R309 to R313, R378 to R383) -/

/-- R177: `mov` reads a mailbox's visible face, `ctl.rd` a control register's (and for `DCEIL` the ceiling in force, R391: log
102), `probe` the live value of a probe register, and `ctl.wr` writes a control register's hidden face with the reserved fields at
0; `nop` changes nothing but the issue. R178: the probe registers read the counters of the tile's member, but for the three SLACK
registers: they read the die's tide table (R355) and 0 where it is idle, which is the model's resolution of R178 against R355 (log
96). COMPLETES (exec answers next, on conditions on state and operands alone): `mov`, `ctlRd`, `ctlWr`, `probe`, `nop`. -/
def Obligations.MovesAndProbes : Prop :=
  (∀ (s : State) (d a : SReg) (i : MIx) (c : Ctl) (p : Prb), s.issues 1 = true →
     let m := (s.tile s.cur).m
     let n := fun (t : State) => (t.tile s.cur).m
     completes (.mov d i) s (fun t => wrote s t d (m.f.mb[(r4 i).val]).vis 0 4)
     ∧ (c ∈ [.gear, .opreq, .rank, .taskid, .jobid] ∨ m.su.inHandler = true →
         completes (.ctlRd d c) s (fun t =>
           wrote s t d (if c = .dceil then BitVec.ofNat 64 s.ceiling else (m.f.ctl[c.index.val]).vis) 0 4))
     ∧ ((c = .gear ∧ ((m.sreg a).getLsbD 0 = true → (s.tile s.cur).grant ≠ none)) ∨ (c ≠ .gear ∧ m.su.inHandler = true) →
         completes (.ctlWr c a) s (fun t => wentOn m (n t) 4 ∧ hiddenSet m (n t) (.ctl c) ((m.sreg a &&& ctlMask c).setWidth 4096)))
     ∧ completes (.probe d p) s (fun t => wrote s t d (s.probeVal s.cur p) 0 4)
     ∧ completes .nop s (fun t => onlyMember s t ∧ wentOn m (n t) 4 ∧ (n t).f = m.f ∧ sameUnits m (n t)))
  ∧ (∀ (s : State) (t : TileId),
       let c := (s.tile t).m.ctr
       s.probeVal t .cycle = BitVec.ofNat 64 c.cycle ∧ s.probeVal t .retired = c.retired ∧ s.probeVal t .phaseS = c.phaseS
         ∧ s.probeVal t .phaseV = c.phaseV ∧ s.probeVal t .flipwait = c.flipwait ∧ s.probeVal t .smpMem = c.smpMem
         ∧ s.probeVal t .smpIssue = c.smpIssue ∧ s.probeVal t .smpBusy = c.smpBusy ∧ s.probeVal t .smpSeq = c.smpSeq
         ∧ s.probeVal t .nfCount = c.nfCount ∧ s.probeVal t .pseq = c.pseq
         ∧ (s.dies[(dieOfTile t).val].tide.st = .idle → s.probeVal t .slackIn = 0 ∧ s.probeVal t .slackSlot = 0
           ∧ s.probeVal t .slackCredit = 0))

/-- R162: `s0` reads 0 and `p0` all ones in every state, and a write of either changes no face. R164 and R165: a landing write
sets W and replaces the bits it covers; where W was clear the other bits are those of the visible face; the visible face and every
other register stay, and older pending writes lose the bits covered. R166: an outside write that finds W set in its mailbox is
discarded and the tile owes WAW_COLLISION; otherwise the mailbox's hidden face takes it and W is set. -/
def Obligations.RegisterWritesLand : Prop :=
  (∀ (m : Member) (v : W512) (k w : W4096) (id : Nat),
     m.sreg 0 = 0 ∧ m.preg 0 = BitVec.allOnes 256
       ∧ (∀ q, (m.putReg (.s 0) v).face q = m.face q ∧ (m.putReg (.sup 0) v).face q = m.face q)
       ∧ (∀ q, (m.land id (.s 0) k w).face q = m.face q ∧ (m.land id (.p 0) k w).face q = m.face q))
  ∧ (∀ (m : Member) (id : Nat) (r q : DbgReg) (k v : W4096), k ≠ 0 → isConst r = false → k &&& fullMask r = k →
       (m.land id r k v).face r
           = ((m.face r).1, ((if (m.face r).2.2 then (m.face r).2.1 else (m.face r).1) &&& ~~~k) ||| (v &&& k), true)
         ∧ (q ≠ r → (m.land id r k v).face q = m.face q)
         ∧ (∀ w ∈ (m.land id r k v).su.slow, w.ref = r → w.id < id → w.mask &&& k = 0))
  ∧ (∀ (m : Member) (i : MIx) (v : W64),
       ((m.face (.mb i)).2.2 = true → (∀ q, (m.outside i v).face q = m.face q) ∧ (m.outside i v).rep.waw = m.rep.waw ++ [i])
         ∧ ((m.face (.mb i)).2.2 = false → hiddenSet m (m.outside i v) (.mb i) (v.setWidth 4096) ∧ (m.outside i v).rep = m.rep
           ∧ ∀ q, q ≠ .mb i → (m.outside i v).face q = m.face q))

/-- R168, R169 and R174: an exchange swaps the faces of every register of its domain with W set, clears W, leaves every other
register as it is, and counts one phase; the next instruction issues in the following cycle. R168: `flip` issues and waits for the
exchange with every face as it was; a `vflip` does so in the vector unit. COMPLETES (exec answers next, on conditions on state and
operands alone): `flip`, `vflip`. -/
def Obligations.FlipsExchange : Prop :=
  (∀ (m : Member) (q : DbgReg),
     (isConst q = false → ({ m with f := m.f.exchange false }).face q
         = if bankOf q = .steering then exchanged (m.face q) else m.face q)
       ∧ (isConst q = false → ({ m with f := m.f.exchange true }).face q
         = if bankOf q = .supervisor then exchanged (m.face q) else m.face q)
       ∧ (m.exchangeV).face q = (if bankOf q = .vector then exchanged (m.face q) else m.face q)
       ∧ (m.exchangeV).ctr.phaseV = m.ctr.phaseV + 1 ∧ (m.exchangeV).vu.ready = m.ctr.cycle + 1
       ∧ (m.exchangeV).vu.flip = false)
  ∧ (∀ (s : State),
       let m := (s.tile s.cur).m
       let n := fun (t : State) => (t.tile s.cur).m
       (s.issues 1 = true → completes .flip s (fun t => onlyMember s t ∧ (n t).su.flip = true ∧ (n t).su.pc = m.su.pc
           ∧ (n t).f = m.f ∧ (n t).ctr = m.ctr ∧ sameUnits m (n t)))
       ∧ (s.issuesV .vflip = true → completes .vflip s (fun t => onlyMember s t ∧ (n t).vu.flip = true ∧ (n t).vf = m.vf
           ∧ (n t).f = m.f ∧ (n t).ctr = m.ctr)))

/-- R309 to R311: a taken branch goes to its own address plus four times its offset, two cycles on; one that is not taken goes on
by a word, one cycle on; `jal` also writes the address after its two words. R312: `jr` and `callr` jump to the value of a
register, `callr` with the address after itself in its link register; a target that is no multiple of 4 is ALIGNMENT at the jump,
with the target in TVAL. COMPLETES (exec answers next, on conditions on state and operands alone): `beq`, `bne`, `blt`, `bge`,
`bltu`, `bgeu`, `jal`, `jr`, `callr`. -/
def Obligations.BranchesJumpsCalls : Prop :=
  (∀ (s : State) (d a b : SReg) (off : BitVec 12) (imm : W32), s.issues 1 = true →
     let m := (s.tile s.cur).m
     let n := fun (t : State) => (t.tile s.cur).m
     let x := m.sreg a
     let y := m.sreg b
     let P : Prop → State → Prop := fun c t => onlyMember s t ∧ (n t).f = m.f ∧ sameUnits m (n t)
       ∧ (c → jumped m (n t) (m.su.pc + BitVec.ofInt 64 (4 * off.toInt)) 2) ∧ (¬ c → jumped m (n t) (m.su.pc + 4) 1)
     completes (.beq a b off) s (P (x = y)) ∧ completes (.bne a b off) s (P (x ≠ y))
     ∧ completes (.blt a b off) s (P (x.toInt < y.toInt)) ∧ completes (.bge a b off) s (P (y.toInt ≤ x.toInt))
     ∧ completes (.bltu a b off) s (P (x.toNat < y.toNat)) ∧ completes (.bgeu a b off) s (P (y.toNat ≤ x.toNat))
     ∧ completes (.jal d imm) s (fun t => jumped m (n t) (m.su.pc + BitVec.ofInt 64 (4 * imm.toInt)) 2
         ∧ (d = 0 → (n t).f = m.f) ∧ (d ≠ 0 → hiddenSet m (n t) (m.sref d) ((m.su.pc + 8).setWidth 4096))))
  ∧ (∀ (s : State) (d a : SReg), s.issues 1 = true →
       let m := (s.tile s.cur).m
       let n := fun (t : State) => (t.tile s.cur).m
       let x := m.sreg a
       (x.toNat % 4 = 0 → completes (.jr a) s (fun t => onlyMember s t ∧ jumped m (n t) x 2 ∧ (n t).f = m.f)
         ∧ completes (.callr d a) s (fun t => jumped m (n t) x 2 ∧ (d = 0 → (n t).f = m.f)
             ∧ (d ≠ 0 → hiddenSet m (n t) (m.sref d) ((m.su.pc + 4).setWidth 4096))))
       ∧ (x.toNat % 4 ≠ 0 → exec (.jr a) s = .next (s.raise ⟨0x02, 0, 0, 0, 0, 0, x⟩)
         ∧ exec (.callr d a) s = .next (s.raise ⟨0x02, 0, 0, 0, 0, 0, x⟩)))

/-- R380 and R381: an exception of a drained tile outside a handler enters the handler; before the drain the steering unit waits
with the report. R382: inside a handler it is a double fault once the writes of the handler have landed, as `eret.abort` awaits
them (R383); until then the steering unit waits with the report, and no register has changed. R383: outside a handler `trap`
completes and enters the handler with SW_TRAP, its operand in TVAL and the address after it in TPC; inside a handler it is a
double fault. That the handler's first instruction issues one cycle on is the model's reading (log 46). COMPLETES (exec answers
next, on conditions on state and operands alone): `trap`. -/
def Obligations.ExceptionEntry : Prop :=
  (∀ (s : State) (t : TileId) (r : Report) (tpc : W64),
     let m := (s.tile t).m
     (m.su.inHandler = false → m.drained = true → entered m ((s.takeTrap t r tpc).tile t).m r tpc
         ∧ ∀ a, byteAt (s.takeTrap t r tpc).mem a = byteAt s.mem a)
       ∧ (m.su.inHandler = false → m.drained = false → ((s.takeTrap t r tpc).tile t).m.su.wait = .trap r tpc
         ∧ ∀ q, ((s.takeTrap t r tpc).tile t).m.face q = m.face q)
       ∧ (m.su.inHandler = true → s.eretReady t = true → s.takeTrap t r tpc = s.doubleFault t r)
       ∧ (m.su.inHandler = true → s.eretReady t = false → ((s.takeTrap t r tpc).tile t).m.su.wait = .trap r tpc
         ∧ sameMemory s (s.takeTrap t r tpc) ∧ ∀ q, ((s.takeTrap t r tpc).tile t).m.face q = m.face q))
  ∧ (∀ (s : State) (imm : BitVec 12), s.issues 1 = true →
       let m := (s.tile s.cur).m
       let r : Report := ⟨0x15, 0, 0, 0, 0, 0, imm.setWidth 64⟩
       (m.su.inHandler = false → m.drained = true →
           completes (.trap imm) s (fun t => entered { m with ctr := { m.ctr with retired := m.ctr.retired + 1 } } (t.tile s.cur).m r
             (m.su.pc + 4)))
         ∧ (m.su.inHandler = true → s.eretReady s.cur = true → exec (.trap imm) s = .next (s.doubleFault s.cur r)))

/-- R174 and R383: `eret` leaves the handler once its writes have landed: the supervisor bank flips, the program counter takes
TPC, and the halted engines are released; outside a handler it is ILLEGAL_ENCODING. COMPLETES (exec answers next, on conditions on
state and operands alone): `eret`. -/
def Obligations.ReturnFromException : Prop :=
  ∀ (s : State), s.issues 1 = true →
    let m := (s.tile s.cur).m
    (m.su.inHandler = true → s.eretReady s.cur = true → completes .eret s (fun t =>
      let n := (t.tile s.cur).m
      let tpc := m.f.ctl[Ctl.tpc.index.val]
      n.su.pc = (if tpc.w then tpc.hid else tpc.vis) ∧ n.su.inHandler = false ∧ n.su.wait = .no ∧ n.su.ready = m.ctr.cycle + 1
        ∧ n.vu.halted = none ∧ (∀ r, n.mu = some r → r.halted = false)
        ∧ (∀ q, isConst q = false → n.face q = if bankOf q = .supervisor then exchanged (m.face q) else m.face q)
        ∧ ∀ a, byteAt t.mem a = byteAt s.mem a))
      ∧ (m.su.inHandler = false → exec .eret s = .next (s.raise ⟨0x01, 0, 0, 0, 0, 0, 0x03000007⟩)
        ∧ exec .eretAbort s = .next (s.raise ⟨0x01, 0, 0, 0, 0, 0, 0x03040007⟩))

/-- R176: outside a handler, a read of a supervisor-only control register and a write of any control register but GEAR raise
ILLEGAL_ENCODING. -/
def Obligations.ControlRegisterPrivilege : Prop :=
  ∀ (s : State) (d a : SReg) (c : Ctl), s.issues 1 = true → (s.tile s.cur).m.su.inHandler = false →
    (c ∈ [.asid, .tvec, .tcause, .tpc, .tval, .dceil, .srseed] →
        exec (.ctlRd d c) s = .next (s.raise ⟨0x01, 0, 0, 0, 0, 0, wordOf (.ctlRd d c)⟩))
      ∧ (c ≠ .gear → exec (.ctlWr c a) s = .next (s.raise ⟨0x01, 0, 0, 0, 0, 0, wordOf (.ctlWr c a)⟩))

/-! ### Issue and frames (R362) -/

/-- R362: a steering instruction whose weight would carry its window above the limit of the held class raises POWER_OVER with
reason 1 and the sum; a vector word does so at its own window. A push that finds its queue full (R70) or a store that finds its
table full (R191) has not issued. R361 and R362: an issue that the window takes leaves the window's sum within the limit of the
held class. The weight of `vcvt` and `vpack` is the model's reading (log 21). -/
def Obligations.IssueWindow : Prop :=
  ((∀ (i : Instr) (s : State) (ws : List W32), encode i = .su ws → (s.tile s.cur).m.su.wait = .no →
     s.suOver s.cur (suWeight i) = true → (Instr.isStore i = true → (s.tile s.cur).m.su.room = none) →
     (∀ h q, cmdHead i = some (h, q) → s.qUsed s.cur q < qCap q ∨ s.pushChecks s.cur ((s.tile s.cur).m.capture i h) ≠ none) →
     let m := (s.tile s.cur).m
     let sum := windowSum m.su.win m.ctr.cycle + suWeight i
     exec i s = .next (s.raise ⟨0x0C, 0, 0, 0, 0, 1, BitVec.ofNat 64 (sum * 2 ^ 32 + 1)⟩))
   ∧ (∀ (i : Instr) (s : State) (w : W64), encode i = .vu w → s.issuesV i = false →
     (s.tile s.cur).m.vu.loadsHeld < 16 → (s.tile s.cur).m.vu.storesHeld < 16 →
     let m := (s.tile s.cur).m
     let sum := windowSum m.su.vwin m.ctr.cycle + vuWeight i
     exec i s = .next (s.vecTrap s.cur 0x0C 1 (BitVec.ofNat 64 (sum * 2 ^ 32 + 1)))))
  ∧ (∀ (s : State) (wt : Nat), s.issues wt = true → (s.tile s.cur).m.su.inHandler = false →
       let m := (s.tile s.cur).m
       windowSum (m.addWeight wt).su.win m.ctr.cycle = windowSum m.su.win m.ctr.cycle + wt
         ∧ windowSum (m.addWeight wt).su.win m.ctr.cycle ≤ suLimit (classOf (s.tile s.cur).grant))

/-- An instruction that writes one scalar register changes no other register, no byte of memory, nothing of another tile or of a
shared unit, no unit of its own tile but the steering unit, and no counter but RETIRED. -/
def Obligations.ScalarWriteFrame : Prop :=
  ∀ (i : Instr) (d : SReg) (s t : State), scalarDest i = some d → s.issues 1 = true → exec i s = .next t →
    let m := (s.tile s.cur).m
    let n := (t.tile s.cur).m
    onlyMember s t ∧ (∀ a, byteAt t.mem a = byteAt s.mem a) ∧ sameUnits m n ∧ n.su.stores = m.su.stores
      ∧ (∀ q, q ≠ m.sref d → n.face q = m.face q) ∧ { n.ctr with retired := m.ctr.retired } = m.ctr

/-! ### Ends, gears and current (R107, R108, R350, R359, R365, R366, R370, R383) -/

/-- R350: outside a handler `retire` takes one sequence number and the steering unit issues nothing after it, once each queue has
room for its marker; inside one it is ILLEGAL_ENCODING. R383: inside a handler `eret.abort` ends the member: its queues and
accesses are gone and it issues nothing more. It completes (R350) once its ranges have been released. That no byte of memory
changes is the model's choice: R383 leaves open whether an unlanded write lands (log 26). COMPLETES (exec answers next, on
conditions on state and operands alone): `retire`, `eretAbort`. -/
def Obligations.RetireAndAbort : Prop :=
  ∀ (s : State), s.issues 1 = true →
    let m := (s.tile s.cur).m
    let n := fun (t : State) => (t.tile s.cur).m
    (m.su.inHandler = false → (∀ q ∈ [QId.mu, .cu, .vu, .ce], s.qUsed s.cur q < qCap q) →
        completes .retire s (fun t => onlyMember s t ∧ (n t).su.wait = .retired ∧ (n t).ctr.pseq = m.ctr.pseq + 1
          ∧ (n t).ctr.retired = m.ctr.retired + 1 ∧ (n t).f = m.f ∧ sameUnits m (n t)))
      ∧ (m.su.inHandler = true → exec .retire s = .next (s.raise ⟨0x01, 0, 0, 0, 0, 0, wordOf .retire⟩))
      ∧ (m.su.inHandler = true → s.eretReady s.cur = true → completes .eretAbort s (fun t =>
          (n t).su.wait = .retired ∧ (n t).q = ⟨[], [], [], []⟩ ∧ (n t).mu = none ∧ (n t).rel = [] ∧ (n t).mbq = []
            ∧ (n t).su.loads = [] ∧ (n t).su.stores = [] ∧ (n t).su.slow = [] ∧ (n t).vu.cmd = none ∧ (n t).f = m.f
            ∧ t.eventSeq = s.eventSeq + 1 ∧ sameMemory s t
            ∧ ∀ d : DieId, ∀ c ∈ t.dies[d.val].ce, c.home ≠ .tile s.cur 0))

/-- R359, R365, R366 and R370: `gear` writes HI of GEAR and `gear hi` needs a grant; `pwr.acq` joins the FIFO and waits unless the
tile holds a grant; `pwr.rel` returns the grant unless GEAR is high, and does nothing without one; `pwr.req` writes OPREQ and
answers 0, 1 or 2. The grant that `pwr.rel` returns is held to the end of the issue cycle. COMPLETES (exec answers next, on
conditions on state and operands alone): `pwrAcq`, `pwrReq`, `gearLo`, `gearHi`, `pwrRel`. -/
def Obligations.GearsAndGrants : Prop :=
  ∀ (s : State) (d a : SReg) (c : BitVec 3) (pv : Bool) (k : BitVec 6), s.issues 1 = true →
    let x := s.tile s.cur
    let m := x.m
    let n := fun (t : State) => (t.tile s.cur).m
    let tooMuch : Nat → Report := fun reason =>
      ⟨0x0C, 0, 0, 0, 0, BitVec.ofNat 8 reason, BitVec.ofNat 64 ((windowSum m.su.win m.ctr.cycle + 1) * 2 ^ 32 + reason)⟩
    let g := m.f.ctl[Ctl.gear.index.val]
    let high : Prop := g.vis.getLsbD 0 = true ∨ (g.w = true ∧ g.hid.getLsbD 0 = true)
    completes .gearLo s (fun t => onlyMember s t ∧ wentOn m (n t) 4
        ∧ hiddenSet m (n t) (.ctl .gear) ((m.ctl .gear &&& 0xFFFFFFFFFFFFFFFE).setWidth 4096))
    ∧ (x.grant ≠ none → completes .gearHi s (fun t => onlyMember s t ∧ wentOn m (n t) 4
        ∧ hiddenSet m (n t) (.ctl .gear) ((m.ctl .gear ||| 1).setWidth 4096)))
    ∧ (x.grant = none → exec .gearHi s = .next (s.raise (tooMuch 2)))
    ∧ (x.grant = none → completes (.pwrAcq c) s (fun t => (n t).su.wait = .acq c ∧ (n t).su.pc = m.su.pc ∧ (n t).f = m.f
        ∧ (t.dies[(dieOfTile s.cur).val]).fifo = (s.dies[(dieOfTile s.cur).val]).fifo ++ [s.cur] ∧ sameMemory s t))
    ∧ (x.grant ≠ none → exec (.pwrAcq c) s = .next (s.raise (tooMuch 4)))
    ∧ (x.grant = none → completes .pwrRel s (fun t => onlyMember s t ∧ wentOn m (n t) 4 ∧ (n t).f = m.f))
    ∧ (x.grant ≠ none → ¬ high → completes .pwrRel s (fun t => wentOn m (n t) 4 ∧ (n t).f = m.f ∧ sameMemory s t
        ∧ (t.tile s.cur).grant = x.grant ∧ (t.tile s.cur).giveBack.grant = none))
    ∧ (x.grant ≠ none → high → exec .pwrRel s = .next (s.raise (tooMuch 3)))
    ∧ ((m.sreg a).toInt < 0 → completes (.pwrReq d a pv k) s (fun t => wrote s t d 2 0 4))
    ∧ (0 ≤ (m.sreg a).toInt → completes (.pwrReq d a pv k) s (fun t => onlyMember s t ∧ wentOn m (n t) 4
        ∧ hiddenSet m (n t) (.ctl .opreq)
          (BitVec.ofNat 4096 (min (m.sreg a).toNat 13 + k.toNat * 256 + if pv then 32768 else 0))
        ∧ (d ≠ 0 → hiddenSet m (n t) (m.sref d)
          (if x.isl.point ≠ x.isl.target ∨ (m.f.ctl[Ctl.opreq.index.val]).w = true then 1 else 0))))

/-- R107 and R108: inside a handler a `tlbi` removes the translations it names from every TLB of the package, and completes once
the accesses issued before it have reached their memory points; outside one it is ILLEGAL_ENCODING. R276: a fence completes once
every earlier load has landed and every earlier store that its scope orders has reached its memory point; until then it waits. It
changes no register and no byte. A result of a task instruction is no load. COMPLETES (exec answers next, on conditions on state
and operands alone): `tlbiAll`, `tlbiAsid`, `tlbiVa`, `fenceT`, `fenceQ`, `fenceD`, `fenceP`, `fenceS`. -/
def Obligations.FencesAndInvalidation : Prop :=
  (∀ (s : State) (i : Instr) (keep : TlbEntry → Bool), s.issues 1 = true → tlbiKeeps (s.tile s.cur).m i = some keep →
     let m := (s.tile s.cur).m
     let n := fun (t : State) => (t.tile s.cur).m
     let marks := s.tiles.toList.map (fun x => x.m.su.nextId)
     (m.su.inHandler = true → completes i s (fun t => (∀ u, (t.tile u).tlb = (s.tile u).tlb.filter keep)
         ∧ (∀ d : DieId, (t.dies[d.val]).tlb = (s.dies[d.val]).tlb.filter keep) ∧ sameMemory s t ∧ (n t).f = m.f
         ∧ (s.reached marks = true → wentOn m (n t) 4)
         ∧ (s.reached marks = false → (n t).su.wait = .drain i marks ∧ (n t).su.pc = m.su.pc)))
       ∧ (m.su.inHandler = false → exec i s = .next (s.raise ⟨0x01, 0, 0, 0, 0, 0, wordOf i⟩)))
  ∧ (∀ (s : State) (i : Instr) (sc : Scope), fenceForm i = some sc → s.issues 1 = true →
       let m := (s.tile s.cur).m
       let done : Prop := (∀ x ∈ m.su.loads, x.isResult = true)
         ∧ ∀ x ∈ m.su.stores, scopeRank sc < scopeRank (s.scopeOf s.cur x.tgt)
       (done → completes i s (fun t => onlyMember s t ∧ wentOn m (t.tile s.cur).m 4 ∧ (t.tile s.cur).m.f = m.f
         ∧ sameUnits m (t.tile s.cur).m))
       ∧ (¬ done → exec i s = .next ((s.hold i).modM s.cur (fun y => y.addWeight 1))))

/-! ### Loads, stores and fences (R114, R188 to R193, R209, R276) -/

/-- R188 and R114: an access tests its alignment first, then finds its address: in the tile's own stash where a range in service
holds it, without translation; otherwise by the walk, whose fault it reports with its kind; a reserved address is PA_RANGE. R98
and R99: an access is permitted by R for a read, W for a write, both for a read-modify-write and X for a fetch; a page with K = 1
is refused outside a handler first. R80: an entry that maps a shelf window gives PA_RANGE outside a handler; that this goes before
the refusal by K is the model's reading (log 86). A walk whose address has a bit above bit 54 set finds no page. -/
def Obligations.AccessChecks : Prop :=
  (∀ (s : State) (t : TileId) (va : W64) (n : Nat) (kind : AccKind),
     let m := (s.tile t).m
     let x := s.translate t .su m.asid va kind m.su.inHandler
     (va.toNat % n ≠ 0 → s.suCheck t va n kind = (s, .error ⟨0x02, 0, 0, 0, 0, 0, va⟩))
       ∧ (va.toNat % n = 0 → ∀ off, m.stash.route m.asid va.toNat = some off → s.suCheck t va n kind = (s, .ok (.own off)))
       ∧ (va.toNat % n = 0 → m.stash.route m.asid va.toNat = none →
         (∀ r, x.2 = .bad r → s.suCheck t va n kind = (x.1, .error ⟨0x03, 0, 0, 0, kind.code, r, va⟩))
           ∧ (x.2 = .range → s.suCheck t va n kind = (x.1, .error ⟨0x04, 0, 0, 0, 0, 0, va⟩))
           ∧ (∀ a mt, x.2 = .pa a mt →
             let barred : Prop := regionOf a = .reserved ∨ ((∃ k o, regionOf a = .shelf k o) ∧ m.su.inHandler = false)
             (barred → s.suCheck t va n kind = (x.1, .error ⟨0x04, 0, 0, 0, 0, 0, va⟩))
               ∧ (¬ barred → s.suCheck t va n kind = (x.1, .ok (.pa a mt))))))
  ∧ (∀ (s : State) (asid : BitVec 12) (va e : W64) (span : Nat) (kind : AccKind) (handler : Bool),
       let allowed : Prop := match kind with
         | .read => e.getLsbD 2 = true
         | .write => e.getLsbD 3 = true
         | .rmw => e.getLsbD 2 = true ∧ e.getLsbD 3 = true
         | .fetch => e.getLsbD 4 = true
       let window : Prop := leafShelf e span = true ∧ handler = false
       (window → leafPa e span va kind handler = .range)
         ∧ (¬ window → e.getLsbD 5 = true → handler = false → leafPa e span va kind handler = .bad 6)
         ∧ (¬ window → e.getLsbD 5 = false ∨ handler = true → ¬ allowed → leafPa e span va kind handler = .bad 5)
         ∧ (¬ window → e.getLsbD 5 = false ∨ handler = true → allowed →
           leafPa e span va kind handler = .pa (fld e 16 32 * 65536 + va.toNat % 2 ^ span) (e.extractLsb' 6 2))
         ∧ (fld va 55 9 ≠ 0 → s.walk asid va = .bad 1))

/-- R187 to R189 and R209: a load that passes its checks issues: it joins the loads in flight with its address, its target and the
bytes that the forwarding table holds, and no register and no byte of memory has changed yet; where the table holds every byte its
value stands already. R187, R188, R190 and R191: a store that passes its checks enters the forwarding table with its address,
size, data and target, and no register and no byte of memory or of the stash has changed yet; with 16 entries it waits at issue
for the oldest; that it has no weight before it issues is the model's reading (log 56). COMPLETES (exec answers next, on
conditions on state and operands alone): `ldB`, `ldBu`, `ldH`, `ldHu`, `ldW`, `ldWu`, `ldD`, `tdLoad`, `stB`, `stH`, `stW`, `stD`.
-/
def Obligations.LoadsAndStoresIssue : Prop :=
  (∀ (s : State) (i : Instr) (dst : DbgReg) (a : SReg) (off : BitVec 12) (k : Nat) (kind : LoadKind) (tgt : Target),
     let x := s.tile s.cur
     let m := x.m
     let va := m.sreg a + off.signExtend 64
     let fwd := (List.range k).map (fun j => m.fwdByte (va.toNat + j))
     loadForm m i = some (dst, a, off, k, kind) → s.issues 1 = true → (s.suCheck s.cur va k .read).2 = .ok tgt →
     m.pendWord x.dbg.dm tgt fwd = none →
     completes i s (fun t =>
       let n := (t.tile s.cur).m
       wentOn m n 4 ∧ n.f = m.f ∧ n.vf = m.vf ∧ sameMemory s t ∧ n.su.stores = m.su.stores ∧ ∃ x : SuLoad,
         n.su.loads = m.su.loads ++ [x] ∧ x.dst = dst ∧ x.live = true ∧ x.va = va ∧ x.n = k ∧ x.kind = kind ∧ x.tgt = tgt
           ∧ x.fwd = fwd ∧ x.got = if fwd.all (fun b => b.isSome) then
               some (extendLoad kind k (fwd.map (fun b => b.getD 0)), false, m.ctr.cycle + 1) else none))
  ∧ (∀ (s : State) (i : Instr) (v a : SReg) (off : BitVec 12) (k : Nat) (tgt : Target),
       let m := (s.tile s.cur).m
       let va := m.sreg a + off.signExtend 64
       storeForm i = some (v, a, off, k) → s.issues 1 = true →
       (m.su.room = none → (s.suCheck s.cur va k .write).2 = .ok tgt → completes i s (fun t =>
         let n := (t.tile s.cur).m
         wentOn m n 4 ∧ n.f = m.f ∧ n.vf = m.vf ∧ sameMemory s t ∧ n.stash.bytes = m.stash.bytes ∧ n.su.loads = m.su.loads
           ∧ ∃ x : SuStore, n.su.stores = m.su.stores ++ [x] ∧ x.asid = m.asid ∧ x.va = va ∧ x.n = k ∧ x.data = m.sreg v
             ∧ x.tgt = tgt))
       ∧ (∀ k, m.su.room = some k →
           exec i s = .next ((s.modM s.cur (fun y => { y with su := { y.su with full := some k } })).hold i))
       ∧ (m.su.full = none → m.su.room = if 16 ≤ m.su.stores.length then m.su.stores.head?.map (fun x => x.id) else none))

/-- An access that cannot be made raises its trap at the instruction (R188), and no load, store or register has changed. -/
def Obligations.FailedAccessTraps : Prop :=
  ∀ (s : State) (i : Instr) (dst : DbgReg) (v a : SReg) (off : BitVec 12) (k : Nat) (kind : LoadKind) (e : Report),
    let m := (s.tile s.cur).m
    let va := m.sreg a + off.signExtend 64
    s.issues 1 = true →
    (loadForm m i = some (dst, a, off, k, kind) → (s.suCheck s.cur va k .read).2 = .error e →
      exec i s = .next ((s.suCheck s.cur va k .read).1.raise e))
    ∧ (storeForm i = some (v, a, off, k) → m.su.room = none → (s.suCheck s.cur va k .write).2 = .error e →
      exec i s = .next ((s.suCheck s.cur va k .write).1.raise e))

/-- R190 to R193: a store lands at its target once no older access to its word is left (R193, R271). In the own stash on a READY
line that no other stash has registered since it writes its bytes at its offset and memory stays; in DRAM that no stash owns it
writes them at its physical address; a word of a live barrier object takes nothing, and the tile owes BARRIER_CLOBBER. Every other
byte reads as before, no register changes, and the store leaves the forwarding table. R187, R189 and R192: a load with no bound in
cycles reads DRAM that no stash owns and lands: its register's hidden face takes the bytes of memory, the forwarded ones in their
places, extended as its word says; a poisoned aligned 8-byte word that is not forwarded whole leaves the register and the tile
owes MEM_POISON. COMPLETES (exec answers next, on conditions on state and operands alone): `suStoreLands`, `suLoadLands`. -/
def Obligations.LoadsAndStoresLand : Prop :=
  (∀ (s : State) (t : TileId) (k : Nat) (x : SuStore),
     let m := (s.tile t).m
     m.su.stores[k]? = some x → x.due = none → s.storeBlocked t x = false →
     (∀ off, x.tgt = .own off → s.homeOf t (.own off) = .own off → (m.stash.line (off / 256)).fill = .ready → completes (.suStoreLands t k) s (fun u =>
       let n := (u.tile t).m
       sameMemory s u ∧ n.f = m.f ∧ n.su.stores = m.su.stores.filter (fun y => y.id != x.id)
         ∧ n.stash.bytes = putBytes m.stash.bytes off (bytesOfNat x.n x.data.toNat)
         ∧ ∀ b, b < off ∨ off + x.n ≤ b → byteAt n.stash.bytes b = byteAt m.stash.bytes b))
     ∧ (∀ a mt, s.memOk = true → x.tgt = .pa a mt → regionOf a = .dram → s.ownerOf a = none → s.inBarrier a = false → s.ceilHolds a = false →
       completes (.suStoreLands t k) s (fun u =>
         let n := (u.tile t).m
         n.f = m.f ∧ n.stash.bytes = m.stash.bytes ∧ n.su.stores = m.su.stores.filter (fun y => y.id != x.id)
           ∧ ∀ b, byteAt u.mem b
             = if a ≤ b ∧ b < a + x.n then x.data.extractLsb' (8 * (b - a)) 8 else byteAt s.mem b))
     ∧ (∀ a mt, x.tgt = .pa a mt → regionOf a = .dram → s.inBarrier a = true → completes (.suStoreLands t k) s (fun u =>
         let n := (u.tile t).m
         sameMemory s u ∧ n.f = m.f ∧ n.su.stores = m.su.stores.filter (fun y => y.id != x.id)
           ∧ n.rep.deferred = m.rep.deferred ++ [(x.id, ⟨0x0D, 0, 0, 0, 0, 0, x.va⟩)])))
  ∧ (∀ (s : State) (t : TileId) (k : Nat) (x : SuLoad) (a : Nat) (mt : BitVec 2),
       let m := (s.tile t).m
       let bad : Prop := ∃ i, 8 * i < x.n ∧ s.poisoned (a + 8 * i) (min 8 (x.n - 8 * i)) = true
         ∧ ∃ j, j < min 8 (x.n - 8 * i) ∧ x.fwd.getD (8 * i + j) none = none
       m.su.loads[k]? = some x → x.got = none → x.port = none → x.tgt = .pa a mt → s.loadBlocked t x = false →
       (∀ i, 8 * i < x.n → regionOf (a + 8 * i) = .dram ∧ s.ownerOf (a + 8 * i) = none) →
       (x.kind = .signed ∨ x.kind = .unsigned → x.live = true → isConst x.dst = false → ¬ bad →
         completes (.suLoadLands t k) s (fun u =>
           let n := (u.tile t).m
           let v := extendLoad x.kind x.n (mergeBytes x.fwd (bytesAt s.mem a x.n))
           hiddenSet m n x.dst (v.setWidth 4096 &&& fullMask x.dst) ∧ (∀ q, q ≠ x.dst → n.face q = m.face q) ∧ sameMemory s u
             ∧ (∀ y ∈ n.su.loads, y.id ≠ x.id) ∧ n.su.stores = m.su.stores))
       ∧ (bad → completes (.suLoadLands t k) s (fun u =>
           let n := (u.tile t).m
           (∀ q, n.face q = m.face q) ∧ sameMemory s u ∧ (∀ y ∈ n.su.loads, y.id ≠ x.id)
             ∧ n.rep.deferred = m.rep.deferred ++ [(x.id, ⟨0x05, 0, 0, 0, 0, 0, x.va⟩)])))

/-! ### Waits, barriers and semaphores (R73, R76, R314 to R328) -/

/-- R321: `waita` reads its word, and completes once the word is at least vis(sb), signed, with the word in sd; until then the
steering unit waits on the word. R322: a wake, and the reading of an unwatched word at each microsecond, test it again where its
address then leads. COMPLETES (exec answers next, on conditions on state and operands alone): `waita`, `waitaWake`,
`waitaPeriodicReread`. -/
def Obligations.WaitaWaitsForItsWord : Prop :=
  ∀ (s : State) (t : TileId) (d a b : SReg) (z va x : W64) (tgt : Target),
    let on : State := { s with cur := t }
    let m := (s.tile t).m
    let n := fun (u : State) => (u.tile t).m
    (s.cur = t → s.issues 1 = true → va = m.sreg a → z = m.sreg b → (s.suCheck t va 8 .read).2 = .ok tgt →
      ((s.suCheck t va 8 .read).1.readWord t tgt va).2 = .val x →
      (z.toInt ≤ x.toInt → completes (.waita d a b) s (fun u => wrote on u d x 0 4))
      ∧ (x.toInt < z.toInt → completes (.waita d a b) s (fun u => (n u).su.wait = .waita d z va tgt false ∧ (n u).su.pc = m.su.pc
          ∧ (n u).f = m.f ∧ (s.watched tgt = true → ⟨t, s.paOfTarget t tgt / 8⟩ ∈ u.ms.waiters))))
    ∧ (∀ woken i g, m.su.wait = .waita d z va g woken → (s.tile t).mayGo = true → (s.suCheck t va 8 .read).2 = .ok tgt →
      ((s.suCheck t va 8 .read).1.readWord t tgt va).2 = .val x →
      (i = .waitaWake t ∧ woken = true ∨ i = .waitaPeriodicReread t ∧ s.fleet.toNat % 1000 = 0 ∧ s.watched g = false) →
      (z.toInt ≤ x.toInt → completes i s (fun u => wrote on u d x 0 4))
      ∧ (x.toInt < z.toInt → completes i s (fun u => (n u).su.wait = .waita d z va tgt false ∧ (n u).f = m.f)))

/-- R327 and R328: a barrier wait reads the generation 8 bytes above the object's address, and completes once it differs from
vis(sb); until then the steering unit waits on that word. `bar.wait.sink` also leaves the fast rail while it waits; the step of
its release tests the generation again. R324: `bar.init` with an arrival count makes a barrier object at a DRAM address that no
stash owns: its first 8 bytes become 0 and every other byte stays; with count 0 it removes the object. Another place, memory type
or count, or a slice that holds 256 objects, is BARRIER_INVALID, and an address in a live object is BARRIER_CLOBBER. COMPLETES
(exec answers next, on conditions on state and operands alone): `barInit`, `barWait`, `barWaitSink`, `barWaitSinkRelease`,
`waitaWake`. -/
def Obligations.Barriers : Prop :=
  (∀ (s : State) (t : TileId) (a b : SReg) (g va x : W64) (tgt : Target) (sink : Bool),
     let m := (s.tile t).m
     let n := fun (u : State) => (u.tile t).m
     let i : Instr := if sink then .barWaitSink a b else .barWait a b
     (s.cur = t → s.issues 1 = true → (s.tile t).sunk = false → va = m.sreg a → g = m.sreg b →
       (s.suCheck t va 16 .read).2 = .ok tgt → ((s.suCheck t va 16 .read).1.readWord t (tgt.shift 8) (va + 8)).2 = .val x →
       (x ≠ g → completes i s (fun u => wentOn m (n u) 4 ∧ (n u).f = m.f))
       ∧ (x = g → completes i s (fun u => (n u).su.wait = .barWait g va (tgt.shift 8) sink false ∧ (n u).su.pc = m.su.pc
           ∧ (n u).f = m.f ∧ (sink = true → (u.tile t).sunk = true ∧ (u.tile t).fast = false))))
     ∧ (∀ k, m.su.wait = .barWait g va k sink true → (s.tile t).mayGo = true → (s.suCheck t va 16 .read).2 = .ok tgt →
       ((s.suCheck t va 16 .read).1.readWord t (tgt.shift 8) (va + 8)).2 = .val x →
       let e : Instr := if sink then .barWaitSinkRelease t else .waitaWake t
       (x ≠ g → completes e s (fun u => wentOn m (n u) 4 ∧ (sink = true → (u.tile t).sunk = false)))
       ∧ (x = g → completes e s (fun u => (n u).su.wait = .barWait g va (tgt.shift 8) sink false ∧ (n u).f = m.f))))
  ∧ (∀ (s : State) (a b : SReg) (p : Nat) (mt : BitVec 2),
       let m := (s.tile s.cur).m
       let n := fun (t : State) => (t.tile s.cur).m
       let va := m.sreg a
       let e := (m.sreg b).toNat
       let s1 := (s.suCheck s.cur va 16 .rmw).1
       s.memOk = true → s.issues 1 = true → (s.suCheck s.cur va 16 .rmw).2 = .ok (.pa p mt) →
       let legal : Prop := mt = 0 ∧ regionOf p = .dram ∧ s.ownerOf p = none ∧ e < 2 ^ 24
       let full : Prop := 256 ≤ (s.ms.bars.filter (fun x => sliceOf x.1 == sliceOf p && dieOfPa x.1 == dieOfPa p)).length
       (legal → e ≠ 0 → s.inBarrier p = false → ¬ full → s.ceilHolds p = false → completes (.barInit a b) s (fun t =>
           wentOn m (n t) 4 ∧ (n t).f = m.f ∧ t.ms.bars = s.ms.bars ++ [(p, e)]
             ∧ ∀ x, byteAt t.mem x = if p ≤ x ∧ x < p + 8 then 0 else byteAt s.mem x))
       ∧ (legal → e = 0 → completes (.barInit a b) s (fun t => wentOn m (n t) 4 ∧ (n t).f = m.f
           ∧ t.ms.bars = s.ms.bars.filter (fun x => x.1 != p) ∧ sameMemory s t))
       ∧ (¬ legal → exec (.barInit a b) s = .next (s1.raise ⟨0x10, 0, 0, 0, 0, 0, va⟩))
       ∧ (legal → e ≠ 0 → s.inBarrier p = true → exec (.barInit a b) s = .next (s1.raise ⟨0x0D, 0, 0, 0, 0, 0, va⟩))
       ∧ (legal → e ≠ 0 → s.inBarrier p = false → full → exec (.barInit a b) s = .next (s1.raise ⟨0x10, 0, 0, 0, 0, 0, va⟩)))

/-- R73, R315 to R319: `sem.post` adds to a semaphore's value, saturating an external one, and to P of a local one; past the
largest value a local post is SEM_OVERFLOW. `sem.set` sets the value and adjusts P, and is FORWARD_WAIT where a remaining wait
would no longer be covered. `sem.rd` takes the value at the end of the cycle. `sem.post.tile` sends the post to another tile.
R317: a post between tiles lands, after an older one of the same pair: on the resident member of its job it raises the semaphore;
with no such member it is kept with the saved image of that job's member last saved from the tile, or else dropped and logged.
COMPLETES (exec answers next, on conditions on state and operands alone): `semPost`, `semSet`, `semRd`, `semPostTile`,
`semPostTileLands`. -/
def Obligations.Semaphores : Prop :=
  (∀ (s : State) (d a : SReg) (k : BitVec 8) (v : BitVec 24), s.issues 1 = true →
     let m := (s.tile s.cur).m
     let n := fun (t : State) => (t.tile s.cur).m
     let p := m.semP k + v.toNat - m.sem k
     let covered : Prop := ∀ w ∈ m.waits, w.sem = k → waitCovered p (m.semQ k) w = true
     let kept : State → Prop := fun t => wentOn m (n t) 8 ∧ (n t).f = m.f ∧ sameMemory s t ∧ (n t).q = m.q
     (isLocal k = true → m.semP k + v.toNat < 2 ^ 24 → completes (.semPost k v) s (fun t => kept t
         ∧ (n t).sem k = (m.sem k + v.toNat) % 2 ^ 24 ∧ (n t).semP k = m.semP k + v.toNat
         ∧ ∀ j, j ≠ k → (n t).sem j = m.sem j ∧ (n t).semP j = m.semP j))
     ∧ (isLocal k = false → completes (.semPost k v) s (fun t => kept t
         ∧ (n t).sem k = min (m.sem k + v.toNat) (2 ^ 24 - 1) ∧ ∀ j, j ≠ k → (n t).sem j = m.sem j))
     ∧ (isLocal k = true → 2 ^ 24 ≤ m.semP k + v.toNat →
         exec (.semPost k v) s = .next (s.raise ⟨0x08, 0, 0, 0, 0, 0, k.setWidth 64⟩))
     ∧ (isLocal k = false ∨ (p < 2 ^ 24 ∧ covered) → completes (.semSet k v) s (fun t => kept t ∧ (n t).sem k = v.toNat
         ∧ (isLocal k = true → (n t).semP k = p) ∧ ∀ j, j ≠ k → (n t).sem j = m.sem j ∧ (n t).semP j = m.semP j))
     ∧ (isLocal k = true → 2 ^ 24 ≤ p → exec (.semSet k v) s = .next (s.raise ⟨0x08, 0, 0, 0, 0, 0, k.setWidth 64⟩))
     ∧ (isLocal k = true → p < 2 ^ 24 → ¬ covered →
         exec (.semSet k v) s = .next (s.raise ⟨0x07, 0, 0, 0, 0, 0, k.setWidth 64⟩))
     ∧ completes (.semRd d k) s (fun t => kept t ∧ (n t).sems = m.sems ∧ (n t).su.semRds = m.su.semRds ++ [(m.sref d, k)])
     ∧ ((m.sreg a).toNat % 128 ≠ s.cur.val → completes (.semPostTile a k v) s (fun t => kept t ∧ (n t).sems = m.sems
         ∧ ∃ dst : TileId, dst.val = (m.sreg a).toNat % 128 ∧ t.tposts = s.tposts ++ [⟨s.cur, dst, m.job, k, v.toNat⟩]))
     ∧ ((m.sreg a).toNat % 128 = s.cur.val → isLocal k = false → completes (.semPostTile a k v) s (fun t => kept t
         ∧ (n t).sem k = min (m.sem k + v.toNat) (2 ^ 24 - 1) ∧ ∀ j, j ≠ k → (n t).sem j = m.sem j)))
  ∧ (∀ (s : State) (k : Nat) (p : TilePost), s.tposts[k]? = some p →
       (∀ q ∈ s.tposts.take k, ¬ (q.src = p.src ∧ q.dst = p.dst)) →
       (s.residentOf p.dst p.job = true → completes (.semPostTileLands k) s (fun t => t.tposts = s.tposts.eraseIdx k
           ∧ (t.tile p.dst).m.sem p.sem = (if isLocal p.sem then ((s.tile p.dst).m.sem p.sem + p.inc) % 2 ^ 24
               else min ((s.tile p.dst).m.sem p.sem + p.inc) (2 ^ 24 - 1))
           ∧ (t.tile p.dst).m.f = (s.tile p.dst).m.f ∧ sameMemory s t ∧ ∀ u, u ≠ p.dst → t.tile u = s.tile u))
       ∧ (s.residentOf p.dst p.job = false → completes (.semPostTileLands k) s (fun t => t.tposts = s.tposts.eraseIdx k
           ∧ (∀ u, t.tile u = s.tile u) ∧ sameMemory s t
           ∧ (∀ i, s.savedFrom p.dst p.job = some i → t.eventSeq = s.eventSeq ∧ ∃ w : Poster, t.slots = s.slots.map (fun e =>
               if e.1 = i then (i, { e.2 with posts := e.2.posts ++ [(p.sem, p.inc, w)] }) else e))
           ∧ (s.savedFrom p.dst p.job = none →
             t.eventSeq = s.eventSeq + 1 ∧ (SMap.get ⟨0, 0, 0, 0, 0⟩ t.events (s.eventSeq.toNat % 4096)).code = 0x14))))

/-- R76 and R320: `qdrop` removes from the queues of its mask every command whose sequence number exceeds vis(sa), signed, takes
their promises back from P and Q, and writes their number; no semaphore's value and no running command changes. Where a remaining
wait would lose its cover it is FORWARD_WAIT and drops nothing. COMPLETES (exec answers next, on conditions on state and operands
alone): `qdrop`. -/
def Obligations.QdropRemovesCommands : Prop :=
  ∀ (s : State) (d a : SReg) (mask : BitVec 4), s.issues 1 = true →
    let m := (s.tile s.cur).m
    let n := fun (t : State) => (t.tile s.cur).m
    let sv := m.sreg a
    let sel := m.q.selected mask sv
    let m1 := sel.foldl (fun x c => x.unpromise c) { m with q := m.q.without mask sv }
    let bare := m1.waits.find? (fun w => isLocal w.sem && !waitCovered (m1.semP w.sem) (m1.semQ w.sem) w)
    (∀ c, c ∈ sel ↔ (mask.getLsbD 0 = true ∧ c ∈ m.q.mu ∨ mask.getLsbD 1 = true ∧ c ∈ m.q.cu ∨ mask.getLsbD 2 = true ∧ c ∈ m.q.vu
        ∨ mask.getLsbD 3 = true ∧ c ∈ m.q.ce) ∧ sv.toInt < (c.seq.toNat : Int))
    ∧ (bare = none → completes (.qdrop d a mask) s (fun t => onlyMember s t ∧ wrote s t d (BitVec.ofNat 64 sel.length) 0 4
        ∧ (n t).sems.val = m.sems.val ∧ (∀ k, (n t).semP k = m1.semP k ∧ (n t).semQ k = m1.semQ k) ∧ (n t).mu = m.mu ∧ (n t).ch = m.ch
        ∧ (∀ c, c ∈ (n t).q.mu ↔ c ∈ m.q.mu ∧ ¬ (mask.getLsbD 0 = true ∧ sv.toInt < (c.seq.toNat : Int)))
        ∧ (∀ c, c ∈ (n t).q.cu ↔ c ∈ m.q.cu ∧ ¬ (mask.getLsbD 1 = true ∧ sv.toInt < (c.seq.toNat : Int)))
        ∧ (∀ c, c ∈ (n t).q.vu ↔ c ∈ m.q.vu ∧ ¬ (mask.getLsbD 2 = true ∧ sv.toInt < (c.seq.toNat : Int)))
        ∧ (∀ c, c ∈ (n t).q.ce ↔ c ∈ m.q.ce ∧ ¬ (mask.getLsbD 3 = true ∧ sv.toInt < (c.seq.toNat : Int)))))
    ∧ (∀ w, bare = some w → exec (.qdrop d a mask) s = .next (s.raise ⟨0x07, 0, 0, 0, 0, 0, w.sem.setWidth 64⟩))

/-! ### Tasks, pools and the tide table (R85 to R89, R331 to R356) -/

/-- R343: a task instruction that begins with `fence.p` waits until every earlier load has landed and every earlier store is at
its memory point for the package. A result of an earlier task instruction is no load. -/
def Obligations.TaskInstructionsWaitForTheirFence : Prop :=
  ∀ (s : State) (i : Instr) (d a : SReg) (pool n1 : BitVec 8) (l : Level) (post : Option (BitVec 8)),
    i ∈ [.spawn d a pool, .publish d a, .yield d, .cancel l a, .cancelTask a, .poolPut a pool, .tideLoad a n1, .tideGo a post] →
    s.issues 1 = true →
    let m := (s.tile s.cur).m
    ¬ ((∀ x ∈ m.su.loads, x.isResult = true) ∧ ∀ x ∈ m.su.stores, 3 < scopeRank (s.scopeOf s.cur x.tgt)) →
    exec i s = .next ((s.hold i).modM s.cur (fun y => y.addWeight 1))

/-- R89 and R346: `pool.get` answers 0 where the pool is not in service or has no free block; otherwise it answers the address of
the block on top of the free stack, FREE falls by one, and the block's bit in the bitmap is set. The result is a slow one. R88,
R89 and R346: `pool.put` of an allocated block of a pool in service clears its bit, writes its index on the free stack and raises
FREE; any other address counts in the pool's error count and logs one event. A pool that enters service has its bitmap clear and
its stack so filled that the blocks come out in the order 0, 1, 2 and on. The clauses on bytes are for words that no stash owns. A
write that the granule ceiling holds (R390) waits. The place of the stack's top is the model's reading (log 25), and a pool
outside DRAM, served at its addresses in the byte map, is the model's choice (log 87). COMPLETES (exec answers next, on conditions
on state and operands alone): `poolGet`, `poolPut`, `poolEnable`. -/
def Obligations.Pools : Prop :=
  (∀ (s : State) (d : SReg) (pool : BitVec 8), s.memOk = true → s.issues 1 = true → s.ms.setup.contains pool.toNat = false →
     s.getHeld pool = false →
     let m := (s.tile s.cur).m
     let n := fun (t : State) => (t.tile s.cur).m
     let c := s.pcbOf pool
     let free := fld c 128 24
     let i := numAt s.mem (poolStack c + 4 * (free - 1)) 4
     let answers : State → W64 → Prop := fun t v => wentOn m (n t) 8 ∧ (n t).f = m.f ∧ ∃ x : SuLoad,
       (n t).su.loads = m.su.loads ++ [x] ∧ x.dst = m.sref d ∧ x.live = true ∧ x.got = some (v.setWidth 512, false, noBound)
     (poolOn c = false ∨ free = 0 → completes (.poolGet d pool) s (fun t => answers t 0 ∧ t.pcbOf pool = c ∧ sameMemory s t))
     ∧ (poolOn c = true → free ≠ 0 → regionOf (poolStack c + 4 * (free - 1)) = .dram → regionOf (poolBitmap c + i / 8) = .dram →
         s.ownerOf (poolStack c + 4 * (free - 1)) = none → s.ownerOf (poolBitmap c + i / 8) = none →
         completes (.poolGet d pool) s (fun t =>
           answers t (BitVec.ofNat 64 (poolBase c + i * poolBlock c)) ∧ fld (t.pcbOf pool) 128 24 = free - 1
             ∧ (∀ j, j < 8 → (byteAt t.mem (poolBitmap c + i / 8)).getLsbD j
               = ((byteAt s.mem (poolBitmap c + i / 8)).getLsbD j || decide (j = i % 8)))
             ∧ ∀ b, b ≠ poolBitmap c + i / 8 → byteAt t.mem b = byteAt s.mem b)))
  ∧ (∀ (s : State) (a : SReg) (pool : BitVec 8), s.memOk = true →
       let m := (s.tile s.cur).m
       let n := fun (t : State) => (t.tile s.cur).m
       let c := s.pcbOf pool
       let x := m.sreg a
       let rel : Int := (x.toNat : Int) - poolBase c
       let i := (rel / poolBlock c).toNat
       let free := fld c 128 24
       let allocated : Prop := poolOn c = true ∧ 0 ≤ rel ∧ rel % poolBlock c = 0 ∧ i < fld c 24 24 ∧ s.poolBit c i = true
       (s.issues 1 = true → s.fenceOk s.cur .package = true → s.ms.setup.contains pool.toNat = false → s.putHeld pool x = false →
         (allocated → free < 2 ^ 24 - 1 → regionOf (poolBitmap c + i / 8) = .dram → s.ownerOf (poolBitmap c + i / 8) = none →
           s.ownerOf (poolStack c + 4 * free) = none → completes (.poolPut a pool) s (fun t => wentOn m (n t) 8 ∧ (n t).f = m.f
             ∧ fld (t.pcbOf pool) 128 24 = free + 1 ∧ bytesAt t.mem (poolStack c + 4 * free) 4 = bytesOfNat 4 i
             ∧ (free < fld c 24 24 → ∀ j, j < 8 → (byteAt t.mem (poolBitmap c + i / 8)).getLsbD j
               = ((byteAt s.mem (poolBitmap c + i / 8)).getLsbD j && decide (j ≠ i % 8)))
             ∧ ∀ b, b ≠ poolBitmap c + i / 8 → (b < poolStack c + 4 * free ∨ poolStack c + 4 * free + 4 ≤ b) →
               byteAt t.mem b = byteAt s.mem b))
         ∧ (¬ allocated → completes (.poolPut a pool) s (fun t => wentOn m (n t) 8 ∧ (n t).f = m.f ∧ sameMemory s t
           ∧ fld (t.pcbOf pool) 160 32 = (fld c 160 32 + 1) % 2 ^ 32 ∧ fld (t.pcbOf pool) 128 24 = free
           ∧ t.eventSeq = s.eventSeq + 1)))
       ∧ (s.ms.setup.contains pool.toNat = true → s.frozen = false → s.setupHeld pool = false →
           let nblk := fld c 24 24
           let last := poolBitmap c + (nblk + 7) / 8
           (∀ b, poolStack c ≤ b → b < last → s.ownerOf b = none) → completes (.poolEnable pool) s (fun t =>
             t.ms.setup.contains pool.toNat = false ∧ (∀ u, t.tile u = s.tile u)
               ∧ (poolOn c = true → fld (t.pcbOf pool) 128 24 = nblk
                 ∧ (∀ k, k < nblk → bytesAt t.mem (poolStack c + 4 * (nblk - 1 - k)) 4 = bytesOfNat 4 k)
                 ∧ (∀ k, k < (nblk + 7) / 8 → byteAt t.mem (poolBitmap c + k) = 0)
                 ∧ ∀ b, b < poolStack c ∨ last ≤ b → byteAt t.mem b = byteAt s.mem b)
               ∧ (poolOn c = false → sameMemory s t))))

/-- R344: `spawn` of a checked template from a pool of 64-byte blocks answers 0 where the pool has no block; otherwise it writes
the record there with POOL, AF and CTD, counts it in its four level entries (R332), and, where it names no join, pushes a copy to
its queue; it answers the block, or 1 where the queue refuses the push: then the count is withdrawn. R349: a ready record that a
cancel reaches is finished in place of the push, and the answer is the block. The clauses on bytes are for a block, level entries,
ring slot and pool words that lie apart in DRAM that no stash owns. A template that fails its check is CMD_ERROR at the next
boundary, and a pool of larger blocks TASK_INVALID. COMPLETES (exec answers next, on conditions on state and operands alone):
`spawn`. -/
def Obligations.SpawnAnswers : Prop :=
  ∀ (s s1 s2 : State) (d a : SReg) (pool : BitVec 8) (tpl : W512) (tgt : Target),
    let m := (s.tile s.cur).m
    let n := fun (t : State) => (t.tile s.cur).m
    let b := (s1.poolGet pool).2
    let r := setFld (setFld (setFld tpl 457 1 1) 456 1 1) 448 8 pool.toNat
    let counted := (s2.poolGet pool).1.countRec r
    let c := s1.pcbOf pool
    let q := s1.qcbOf (recQueue r)
    let slot := qSlot q (fld q 64 32)
    let top := poolStack c + 4 * (fld c 128 24 - 1)
    let spans : List (Nat × Nat) := [(b.toNat, 64), (poolBitmap c + numAt s1.mem top 4 / 8, 1), (top, 4), (slot, 64)]
      ++ (s1.levelAddrs r).map (fun x => (x, 32))
    let plain : Prop := s1.memOk = true ∧ spans.Pairwise (fun x y => x.1 + x.2 ≤ y.1 ∨ y.1 + y.2 ≤ x.1)
      ∧ ∀ x ∈ spans, ∀ k, k < x.2 → regionOf (x.1 + k) = .dram ∧ s1.ownerOf (x.1 + k) = none ∧ s1.inBarrier (x.1 + k) = false
    let out : State → Nat → Nat := fun t k => fld (t.levelEntry k (recLevel r k)) 0 32
    let made : State → Prop := fun t => plain → bytesAt t.mem b.toNat 64 = bytesOfNat 64 r.toNat
      ∧ ∀ k, k < 4 → out t k = (out s1 k + 1) % 2 ^ 32
    let answers : State → W64 → Prop := fun t v => wentOn m (n t) 8 ∧ (n t).f = m.f ∧ ∃ x : SuLoad,
      (n t).su.loads = m.su.loads ++ [x] ∧ x.dst = m.sref d ∧ x.live = true ∧ x.got = some (v.setWidth 512, false, noBound)
    s.issues 1 = true → s.fenceOk s.cur .package = true → s.readRec s.cur (m.sreg a) .read = (s1, .ok tpl tgt) →
    (∀ reason, recSpawnCheck tpl true = some reason → completes (.spawn d a pool) s (fun t => wentOn m (n t) 8 ∧ (n t).f = m.f
        ∧ sameMemory s t ∧ ∃ k, (n t).rep.deferred
          = m.rep.deferred ++ [(k, ⟨0x06, 0, 0, 0, 0, reason, (wordOf (.spawn d a pool) <<< 32) ||| reason.setWidth 64⟩)]))
    ∧ (recSpawnCheck tpl true = none → fld (s1.pcbOf pool) 4 4 ≠ 0 → completes (.spawn d a pool) s (fun t =>
        wentOn m (n t) 8 ∧ (n t).f = m.f ∧ sameMemory s t ∧ ∃ k, (n t).rep.deferred
          = m.rep.deferred ++ [(k, ⟨0x11, 0, 0, 0, 0, 0, m.sreg a⟩)]))
    ∧ (recSpawnCheck tpl true = none → fld (s1.pcbOf pool) 4 4 = 0 → s1.ms.setup.contains pool.toNat = false →
      (b = 0 → completes (.spawn d a pool) s (fun t => answers t 0))
      ∧ (b ≠ 0 → s1.shelfHolds (s1.spawnWrites pool r b.toNat) = false →
        s1.recWrite s.cur (.pa b.toNat 0) b (bytesOfNat 64 r.toNat) = (s2, true) →
        let room := qRoom (counted.qcbOf (recQueue r))
        (recJoin r ≠ 0 → completes (.spawn d a pool) s (fun t => answers t b ∧ made t ∧ (plain → t.ms.qcb = s1.ms.qcb)))
        ∧ (recJoin r = 0 → counted.recCancelled r b.toNat = true → completes (.spawn d a pool) s (fun t => answers t b
            ∧ (plain → t.ms.qcb = s1.ms.qcb)))
        ∧ (recJoin r = 0 → counted.recCancelled r b.toNat = false → room = true →
          completes (.spawn d a pool) s (fun t => answers t b ∧ made t ∧ (plain → bytesAt t.mem slot 64 = bytesOfNat 64 r.toNat
            ∧ fld (t.qcbOf (recQueue r)) 64 32 = (fld q 64 32 + 1) % 2 ^ 32)))
        ∧ (recJoin r = 0 → counted.recCancelled r b.toNat = false → room = false →
          completes (.spawn d a pool) s (fun t => answers t 1 ∧ (plain → ∀ k, k < 4 → out t k = out s1 k)))))

/-- R341, R342 and R345: `publish` adds vis(sc) + 2^62 to the join word of its record, which holds the sum afterwards; where the
sum is 2^62 the record is ready at once, and sets out for its queue or, where a cancel reaches it, is finished (R349); otherwise
it is registered on the word. The instruction goes on and changes no register. COMPLETES (exec answers next, on conditions on
state and operands alone): `publish`. -/
def Obligations.PublishJoins : Prop :=
  ∀ (s s0 s1 y : State) (c a : SReg) (r r1 : W512) (tgt : Target) (p : Nat) (mt : BitVec 2),
    let m := (s.tile s.cur).m
    let n := m.sreg c
    let j := recJoin r
    let s2 := (s1.routeT s.cur .su (s1.tile s.cur).m.asid j .rmw (s1.tile s.cur).m.su.inHandler).1
    let word : State → W64 := fun t => BitVec.ofNat 64 (t.peek p 8)
    s.issues 1 = true → s.fenceOk s.cur .package = true → s.readRec s.cur (m.sreg a) .read = (s0, .ok r tgt) →
    s0.mayCount s.cur r (m.sreg a) = (s1, none) → recSpawnCheck r false = none → j ≠ 0 → j.toNat % 8 = 0 →
    (s1.routeT s.cur .su (s1.tile s.cur).m.asid j .rmw (s1.tile s.cur).m.su.inHandler).2 = .to (.pa p mt) →
    regionOf p = .dram → s2.ownerOf p = none → s2.poisoned p 8 = false → s2.inBarrier p = false → n.toNat < 2 ^ 61 →
    joinPub (word s2) = false → s2.ms.joins.any (fun e => e.1 == p / 8) = false →
    let rpa := s2.paOfTarget s.cur tgt
    s2.readyHeldWith r rpa (p :: (if recCtd r then [] else s2.levelAddrs r ++ [rpa + 57])) = false →
    s2.countOnce s.cur r tgt (m.sreg a) = (y, r1, true) → y.ceilHolds p = false → y.memOk = true →
    let v := word y + n + 0x4000000000000000
    let s3 := (y.putAt p (bytesOfNat 8 v.toNat)).1
    completes (.publish c a) s (fun t => wentOn m (t.tile s.cur).m 8 ∧ (t.tile s.cur).m.f = m.f
      ∧ (v ≠ 0x4000000000000000 → word t = v ∧ t.ms.joins = y.ms.joins ++ [(p / 8, BitVec.ofNat 64 rpa, (y.tile s.cur).m.asid)]
        ∧ t.pushes = y.pushes)
      ∧ (v = 0x4000000000000000 → t.ms.joins = y.ms.joins ∧ (s3.recCancelled r1 rpa = false →
        word t = v ∧ t.pushes = y.pushes ++ [⟨r1, recQueue r1, rpa⟩]) ∧ (s3.recCancelled r1 rpa = true → t.pushes = y.pushes)))

/-- R348 and R349: `yield` of a gang of one member whose queue has room answers 0 and pre-empts it, and otherwise answers 1;
`cancel.L` sets CAN in its level entry and every tile that holds a member of a record of that level owes TASK_CANCEL;
`cancel.task` removes the record's registration, sets CX in it, in memory or in the own stash, and its tiles owe TASK_CANCEL. A
write that the granule ceiling holds (R390) waits. The place of a level entry, the job that owns it, TVAL 0 of the refused cancel
and that a gang's record is known by the address of its original are the model's readings (logs 24, 31, 60, 29). COMPLETES (exec
answers next, on conditions on state and operands alone): `yield`, `cancel`, `cancelTask`. -/
def Obligations.YieldAndCancel : Prop :=
  ∀ (s : State) (d a : SReg) (l : Level), s.issues 1 = true → s.fenceOk s.cur .package = true →
    let m := (s.tile s.cur).m
    let n := fun (t : State) => (t.tile s.cur).m
    let alone : Prop := ∀ g, s.gangs.find? (fun g => g.id == m.id.gang) = some g → g.size ≤ 1
    let room := qRoom (s.qcbOf (recQueue m.id.record))
    let v := m.sreg a
    let id := if l = .job then v.toNat % 4096 else v.toNat % 65536
    let owned : Prop := m.su.inHandler = true ∨ (l = .job ∧ id = m.job.toNat)
      ∨ (l ≠ .job ∧ ∀ r ∈ s.records, recLevel r (levelIx l) = id → recJob r = m.job)
    (alone → room = true → completes (.yield d) s (fun t => wrote s t d 0 0 8 ∧ (n t).rep.preempt = true))
    ∧ (¬ (alone ∧ room = true) → completes (.yield d) s (fun t => wrote s t d 1 0 8 ∧ (n t).rep = m.rep))
    ∧ (s.memOk = true → owned → regionOf (s.levelAddr (levelIx l) id) = .dram → s.ownerOf (s.levelAddr (levelIx l) id) = none →
        s.ceilHolds (s.levelAddr (levelIx l) id) = false → completes (.cancel l a) s (fun t => wentOn m (n t) 8 ∧ (n t).f = m.f
        ∧ t.levelCan (levelIx l) id = true ∧ ∀ u, (s.tile u).st ≠ .idle →
          (∃ g ∈ s.gangs, g.id = (s.tile u).m.id.gang ∧ recLevel g.record (levelIx l) = id) →
          (t.tile u).m.rep.cancel = some (s.tile u).m.id.recAddr))
    ∧ (¬ owned → completes (.cancel l a) s (fun t => wentOn m (n t) 8 ∧ sameMemory s t ∧ ∃ k,
        (n t).rep.deferred = m.rep.deferred ++ [(k, ⟨0x11, 0, 0, 0, 0, 0, 0⟩)]))
    ∧ (∀ (s1 s2 : State) (r : W512) (tgt : Target), s.readRec s.cur v .rmw = (s1, .ok r tgt) →
        let p := s1.paOfTarget s.cur tgt
        let r1 := setFld r 458 1 1
        s1.recWrite s.cur (tgt.shift 57) (v + 57) [r1.extractLsb' 456 8] = (s2, true) →
        let registered : Prop := ∃ j ∈ s1.ms.joins, j.2.1.toNat = p
        (registered → s1.finishHeldWith r1 p [p + 57] = false) →
        completes (.cancelTask a) s (fun t => wentOn m (n t) 8 ∧ (∀ j ∈ t.ms.joins, j.2.1.toNat ≠ p)
          ∧ (∀ b mt, tgt = .pa b mt → s1.memOk = true → regionOf (b + 57) = .dram → s1.ownerOf (b + 57) = none →
            s1.inBarrier (b + 57) = false → (registered → ∀ x ∈ s1.finishAddrs r1 p, s1.ownerOf x = none ∧ (x + 32 ≤ b + 57 ∨ b + 57 < x)) →
              byteAt t.mem (b + 57) = r1.extractLsb' 456 8 ∧ (byteAt t.mem (b + 57)).getLsbD 2 = true)
          ∧ (∀ off, tgt = .own off → s1.homeOf s.cur (.own (off + 57)) = .own (off + 57) → ¬ registered →
            ((s1.tile s.cur).m.stash.line ((off + 57) / 256)).fill = .ready →
              byteAt (n t).stash.bytes (off + 57) = r1.extractLsb' 456 8 ∧ (byteAt (n t).stash.bytes (off + 57)).getLsbD 2 = true)
          ∧ ∀ u, (s.tile u).st ≠ .idle → (∃ g ∈ s.gangs, g.id = (s.tile u).m.id.gang ∧ g.orig = p) →
            (t.tile u).m.rep.cancel = some (s.tile u).m.id.recAddr))

/-- R351 to R353 and R356: `tide.load` reads and checks its entries and leaves the table LOADED for its job; `tide.go` starts a
table that its job loaded; `tide.rd` answers the table's state, head, length, free slots and credits. Where the table is running,
or another job's, `tide.load` and `tide.go` leave it and the tile owes TASK_INVALID. R352, R354 and R355: a running table whose
head entry has its inputs, slots and credits, and whose record's queue has room, takes them and goes to its next entry, and the
record enters the queue; otherwise the head stays and one slack count rises. Credits that reach a table that is neither LOADED nor
RUNNING are lost with an event, and those that reach a seized package are held (R419). The TASK_INVALID of `tide.load` names its
address (R378); TVAL 0 of that of `tide.go` is the model's reading (log 60). COMPLETES (exec answers next, on conditions on state
and operands alone): `tideLoad`, `tideGo`, `tideRd`, `tideCreditArrival`, `tideDispatch`. -/
def Obligations.TideTables : Prop :=
  (∀ (s : State) (d a : SReg) (n1 : BitVec 8) (post : Option (BitVec 8)) (sel : Bool), s.issues 1 = true →
     let m := (s.tile s.cur).m
     let n := fun (t : State) => (t.tile s.cur).m
     let die := dieOfTile s.cur
     let x := (s.dies[die.val]).tide
     let y := fun (t : State) => (t.dies[die.val]).tide
     let v := m.sreg a
     let refused : Prop := x.st = .running ∨ (x.st = .loaded ∧ x.job ≠ m.job)
     (s.fenceOk s.cur .package = true → ¬ refused → ∀ s1 es, s.tideRead s.cur v (n1.toNat + 1) = (s1, .ok es) →
       (∀ e ∈ es, tideCheck e = none) → completes (.tideLoad a n1) s (fun t => wentOn m (n t) 8 ∧ (n t).f = m.f
         ∧ (y t).st = .loaded ∧ (y t).job = m.job ∧ (y t).entries = es ∧ (y t).head = 0 ∧ (y t).credits = 0 ∧ (y t).finished = []
         ∧ sameMemory s t))
     ∧ (s.fenceOk s.cur .package = true → refused → completes (.tideLoad a n1) s (fun t => wentOn m (n t) 8 ∧ y t = x
         ∧ ∃ k, (n t).rep.deferred = m.rep.deferred ++ [(k, ⟨0x11, 0, 0, 0, 0, 0, v⟩)]))
     ∧ (s.fenceOk s.cur .package = true → x.st = .loaded → x.job = m.job → x.entries ≠ [] → x.head = 0 → tideCfgOk v = true →
       completes (.tideGo a post) s (fun t => wentOn m (n t) 8 ∧ (n t).f = m.f ∧ (y t).st = .running ∧ (y t).cfg = v
         ∧ (y t).entries = x.entries ∧ (y t).head = x.head ∧ (y t).credits = min (x.credits + fld v 32 16) 65535
         ∧ (y t).free = fld v 24 8 ∧ (y t).asid = m.asid ∧ (y t).post = post.map (fun q => (s.cur, q)) ∧ sameMemory s t))
     ∧ (s.fenceOk s.cur .package = true → x.st ≠ .loaded ∨ x.job ≠ m.job ∨ tideCfgOk v = false →
       completes (.tideGo a post) s (fun t => wentOn m (n t) 8 ∧ y t = x
         ∧ ∃ k, (n t).rep.deferred = m.rep.deferred ++ [(k, ⟨0x11, 0, 0, 0, 0, 0, 0⟩)]))
     ∧ completes (.tideRd d sel) s (fun t => wentOn m (n t) 8 ∧ (n t).f = m.f ∧ y t = x ∧ sameMemory s t ∧ ∃ (z : SuLoad) (w : W64),
         (n t).su.loads = m.su.loads ++ [z] ∧ z.dst = m.sref d ∧ z.live = true ∧ z.got = some (w.setWidth 512, false, noBound)
           ∧ (sel = false → fld w 62 2 = x.st.code ∧ fld w 41 9 = x.head % 512 ∧ fld w 32 9 = x.entries.length % 512
             ∧ fld w 24 8 = x.free % 256 ∧ fld w 0 16 = x.credits % 65536)
           ∧ (sel = true → fld w 0 9 = x.finished.length % 512 ∧ ∀ h, x.st ≠ .idle → x.entries[x.head]? = some h →
             fld w 32 2 = tideKind h ∧ fld w 24 8 = fld h 72 8 ∧ fld w 16 8 = fld h 80 8)))
  ∧ (∀ (s : State) (d : DieId) (l : LinkId) (n : BitVec 16), s.seize.st = .none → dieOfLink l = d →
       let x := (s.dies[d.val]).tide
       let y := fun (t : State) => (t.dies[d.val]).tide
       ((s.links[l.val]).up = true → x.st = .loaded ∨ x.st = .running → completes (.tideCreditArrival l n) s (fun t =>
           (y t).credits = min (x.credits + n.toNat) 65535 ∧ (y t).st = x.st ∧ (y t).head = x.head ∧ (∀ u, t.tile u = s.tile u)
             ∧ sameMemory s t))
       ∧ ((s.links[l.val]).up = true → x.st ≠ .loaded → x.st ≠ .running → completes (.tideCreditArrival l n) s (fun t => y t = x ∧ t.eventSeq = s.eventSeq + 1))
       ∧ (∀ h, s.tideDue d = true → x.entries[x.head]? = some h →
           let ts := s.tideTests d h
           (ts ≠ (true, true, true) → completes (.tideDispatch d) s (fun t => (y t).head = x.head ∧ (y t).free = x.free
             ∧ (y t).credits = x.credits ∧ (y t).st = .running
             ∧ (y t).slackIn = x.slackIn + (if ts.1 = false then 1 else 0)
             ∧ (y t).slackSlot = x.slackSlot + (if ts.1 = true ∧ ts.2.1 = false then 1 else 0)
             ∧ (y t).slackCredit = x.slackCredit + (if ts.1 = true ∧ ts.2.1 = true ∧ ts.2.2 = false then 1 else 0)))
           ∧ (ts = (true, true, true) → ∀ s1 bs,
               (s.modDie d (fun z => { z with tide := { z.tide with cyc := z.tide.cyc + 1 } })).dispRead (engineTile d) .ce x.asid .read false
                 ((h.extractLsb' 0 55).setWidth 64) 64 = (s1, .ok bs) →
               let r := tideCopy (BitVec.ofNat 512 (natOfBytes bs)) x.head d
               let orig := match (s1.translate (engineTile d) .ce x.asid ((h.extractLsb' 0 55).setWidth 64) .read false).2 with
                 | .pa a _ => a
                 | .bad _ | .range => 0
               let c := s.qcbOf (recQueue r)
               s1.recCancelled r orig = false →
               let slot := qSlot c (fld c 64 32)
               (qRoom c = true → s1.submitHeld (recQueue r) r [] = false → (∀ a ∈ slot :: s1.levelAddrs r, s1.ownerOf a = none) →
                 completes (.tideDispatch d) s (fun t => (y t).head = x.head + 1
                   ∧ (y t).credits = x.credits - tideCredit h ∧ (y t).free = (if tideKind h = 0 then x.free - tideSlots h else x.free)
                   ∧ fld (t.qcbOf (recQueue r)) 64 32 = (fld c 64 32 + 1) % 2 ^ 32
                   ∧ (s1.memOk = true → (∀ a ∈ s1.levelAddrs r, a + 32 ≤ slot ∨ slot + 64 ≤ a) →
                     bytesAt t.mem slot 64 = bytesOfNat 64 r.toNat)))
               ∧ (qRoom c = false → completes (.tideDispatch d) s (fun t => (y t).head = x.head ∧ (y t).credits = x.credits)))))
  ∧ (∀ (s : State) (d : DieId) (l : LinkId) (n : BitVec 16), s.seize.st ≠ .none → dieOfLink l = d → (s.links[l.val]).up = true →
       completes (.tideCreditArrival l n) s (fun t => (t.dies[d.val]).tide = (s.dies[d.val]).tide ∧ t.eventSeq = s.eventSeq
         ∧ (t.dies[d.val]).heldCredits = (s.dies[d.val]).heldCredits + n.toNat ∧ (∀ u, t.tile u = s.tile u) ∧ sameMemory s t))

/-! ### Vector words (R211 to R247) -/

/-- R35, R215 and R228: an element of a vector built from codes is its code in the element's width, and the mask of a predicate
covers exactly the bits of the active elements. -/
def Obligations.VectorElements : Prop :=
  ∀ (ty : VTy) (f : Nat → Nat) (p : BitVec 256) (e : Nat), e < ty.count →
    elemOf ty (vecOf ty f) e = f e % 2 ^ vtyBits ty
      ∧ ∀ j, j < vtyBits ty → (maskOf ty p).getLsbD (vtyBits ty * e + j) = active ty p e

/-- R230, R231, R233, R236 and R237: the vector words that round nothing write each active element and go on. COMPLETES (exec
answers next, on conditions on state and operands alone): `vand`, `vor`, `vxor`, `vshl`, `vshr`, `vsra`, `vsel`, `vperm`,
`vbcast`, `vslideUp`, `vslideDn`, `vmin`, `vmax`. -/
def Obligations.ExactVectorWords : Prop :=
  ∀ (s : State) (ty : VTy) (d a b : VReg) (pm pc : PReg) (imm k : W32),
    let w := vtyBits ty
    let x := fun (m : Member) e => elemOf ty (m.vreg a) e
    let y := fun (m : Member) e => elemOf ty (m.vreg b) e
    let W : Instr → Nat → (Member → Nat → Nat) → Prop := fun i lat f => s.issuesV i = true → writesElems i s ty d pm lat f
    W (.vand ty d a b pm) 0 (fun m e => x m e &&& y m e)
    ∧ W (.vor ty d a b pm) 0 (fun m e => x m e ||| y m e)
    ∧ W (.vxor ty d a b pm) 0 (fun m e => x m e ^^^ y m e)
    ∧ W (.vshl ty d a b pm) 0 (fun m e => x m e * 2 ^ (y m e % w) % 2 ^ w)
    ∧ W (.vshr ty d a b pm) 0 (fun m e => x m e / 2 ^ (y m e % w))
    ∧ W (.vsra ty d a b pm) 0 (fun m e => ((BitVec.ofNat w (x m e)).sshiftRight (y m e % w)).toNat)
    ∧ W (.vsel ty d a b pc pm) 0 (fun m e => if active ty (m.preg pc) e then x m e else y m e)
    ∧ W (.vperm ty d a b pm) 2 (fun m e => x m (y m e % ty.count))
    ∧ W (.vbcast ty d pm imm) 0 (fun _ _ => imm.toNat % 2 ^ w)
    ∧ W (.vslideUp ty d a pm k) 2 (fun m e => if k.toNat ≤ e then x m (e - k.toNat) else 0)
    ∧ W (.vslideDn ty d a pm k) 2 (fun m e => if e + k.toNat < ty.count then x m (e + k.toNat) else 0)
    ∧ (ty.isInt = true →
        W (.vmin ty d a b pm) 0 (fun m e => if elemInt ty (x m e) < elemInt ty (y m e) then x m e else y m e)
        ∧ W (.vmax ty d a b pm) 0 (fun m e => if elemInt ty (x m e) < elemInt ty (y m e) then y m e else x m e))
    ∧ (ty.isInt = false →
        W (.vmin ty d a b pm) 3 (fun m e =>
          cvt ((elemVal ty (x m e)).minv (elemVal ty (y m e))) (vtyFmt ty) .rne false % 2 ^ w)
        ∧ W (.vmax ty d a b pm) 3 (fun m e =>
          cvt ((elemVal ty (x m e)).maxv (elemVal ty (y m e))) (vtyFmt ty) .rne false % 2 ^ w))

/-- R230, R234 and R235: the vector words that round compute exactly, round once to their type under their mode and saturation,
write each active element and go on; integer sums and products clamp under SAT and wrap without it. COMPLETES (exec answers next,
on conditions on state and operands alone): `vadd`, `vsub`, `vmul`, `vfma`, `vcvt`, `vpack`. -/
def Obligations.RoundingVectorWords : Prop :=
  ∀ (s : State) (ty src : VTy) (rm : RMode) (sat : Bool) (d a b c : VReg) (pm : PReg),
    let w := vtyBits ty
    let x := fun (m : Member) e => elemOf ty (m.vreg a) e
    let y := fun (m : Member) e => elemOf ty (m.vreg b) e
    let z := fun (m : Member) e => elemOf ty (m.vreg c) e
    let u := elemGen ty
    let W : Instr → Nat → (Member → Nat → Nat → Nat) → Prop := fun i lat f =>
      s.issuesV i = true → roundsElems i s ty rm d pm lat u f
    (ty.isInt = true →
      W (.vadd ty rm sat d a b pm) 0 (fun m _ e => intResult ty sat (elemInt ty (x m e) + elemInt ty (y m e)))
      ∧ W (.vsub ty rm sat d a b pm) 0 (fun m _ e => intResult ty sat (elemInt ty (x m e) - elemInt ty (y m e)))
      ∧ W (.vmul ty rm sat d a b pm) 3 (fun m _ e => intResult ty sat (elemInt ty (x m e) * elemInt ty (y m e))))
    ∧ (ty.isInt = false →
      let code := fun (v : FVal) (r : Nat) => cvt v (vtyFmt ty) rm sat r % 2 ^ w
      W (.vadd ty rm sat d a b pm) 3 (fun m r e => code ((elemVal ty (x m e)).add (elemVal ty (y m e)) (rm == .rd)) r)
      ∧ W (.vsub ty rm sat d a b pm) 3 (fun m r e => code ((elemVal ty (x m e)).add (elemVal ty (y m e)).neg (rm == .rd)) r)
      ∧ W (.vmul ty rm sat d a b pm) 3 (fun m r e => code ((elemVal ty (x m e)).mul (elemVal ty (y m e))) r)
      ∧ W (.vfma ty rm sat d a b c pm) 3 (fun m r e =>
        code (((elemVal ty (x m e)).mul (elemVal ty (y m e))).add (elemVal ty (z m e)) (rm == .rd)) r))
    ∧ (s.issuesV (.vcvt ty src rm sat d a pm) = true →
      roundsElems (.vcvt ty src rm sat d a pm) s .f32 rm d pm 3 (elemGen .f32) (fun m r e =>
        cvt (valOf (vtyFmt src) ((lane32 (m.vreg a) e).toNat % 2 ^ vtyBits src)) (vtyFmt ty) rm sat r % 2 ^ 32))
    ∧ (s.issuesV (.vpack ty rm sat d a b pm) = true →
      roundsElems (.vpack ty rm sat d a b pm) s .u16 rm d pm 3 packGen (fun m r e =>
        cvt (valOf (packSrc ty) (lane32 (if e < 128 then m.vreg a else m.vreg b) (e % 128)).toNat) (vtyFmt ty) rm sat r % 2 ^ 16))

/-- R232: a vector compare writes the relation of its elements into its predicate where the governing predicate is active: one bit
an element of 16 bits, both bits of an element of 32. Integers compare as integers. R238: a reduction writes one result in every
element. An integer sum is the sum of the active elements in the element's width; an integer maximum or minimum is an active
element that no active one exceeds, or the identity where none is active. COMPLETES (exec answers next, on conditions on state and
operands alone): `vcmpEq`, `vcmpLt`, `vcmpLe`, `vredSum`, `vredMax`, `vredMin`. -/
def Obligations.ComparesAndReductions : Prop :=
  (∀ (s : State) (ty : VTy) (d : PReg) (a b : VReg) (pm : PReg) (r : VRel),
     let i : Instr := match r with
       | .eq => .vcmpEq ty d a b pm
       | .lt => .vcmpLt ty d a b pm
       | .le => .vcmpLe ty d a b pm
     let holds : Member → Nat → Bool := fun m e =>
       let x := elemOf ty (m.vreg a) e
       let y := elemOf ty (m.vreg b) e
       if ty.isInt then
         match r with
         | .eq => x = y
         | .lt => elemInt ty x < elemInt ty y
         | .le => elemInt ty x ≤ elemInt ty y
       else vrel ty r x y
     s.issuesV i = true → wordRuns i s (fun m n => ∃ mask val, wroteV m n (.p d) mask val 0
       ∧ ∀ e, e < ty.count →
         let k := if ty.is16 then e else 2 * e
         mask.getLsbD k = active ty (m.preg pm) e ∧ (active ty (m.preg pm) e = true → val.getLsbD k = holds m e)
           ∧ (ty.is16 = false → mask.getLsbD (2 * e + 1) = active ty (m.preg pm) e
             ∧ (active ty (m.preg pm) e = true → val.getLsbD (2 * e + 1) = holds m e))))
  ∧ (∀ (s : State) (ty : VTy) (rm : RMode) (d a : VReg) (pm : PReg),
       let w := vtyBits ty
       let W : Instr → (Member → Nat → Prop) → Prop := fun i f => s.issuesV i = true → wordRuns i s (fun m n => ∃ x r,
         wroteV m n (.v d) (BitVec.allOnes 4096) x 6 ∧ f m r ∧ ∀ e, e < ty.count → elemOf ty x e = r)
       let on := fun (m : Member) e => e < ty.count ∧ active ty (m.preg pm) e = true
       let el := fun (m : Member) e => elemOf ty (m.vreg a) e
       (ty.isInt = true →
         W (.vredSum ty rm d a pm) (fun m r => r = ((List.range ty.count).map (fun e =>
           if active ty (m.preg pm) e then el m e else 0)).sum % 2 ^ w)
         ∧ W (.vredMax ty d a pm) (fun m r => (∀ e, on m e → elemInt ty (el m e) ≤ elemInt ty r)
           ∧ ((∃ e, on m e ∧ r = el m e) ∨ ((∀ e, ¬ on m e) ∧ r = extremeId ty true)))
         ∧ W (.vredMin ty d a pm) (fun m r => (∀ e, on m e → elemInt ty r ≤ elemInt ty (el m e))
           ∧ ((∃ e, on m e ∧ r = el m e) ∨ ((∀ e, ¬ on m e) ∧ r = extremeId ty false))))
       ∧ (ty.isInt = false →
         W (.vredSum ty rm d a pm) (fun m r =>
           r = reduce ty (m.preg pm) (m.vreg a) (2 ^ (w - 1)) (arith .add ty rm false 0) % 2 ^ w)
         ∧ W (.vredMax ty d a pm) (fun m r => r = reduce ty (m.preg pm) (m.vreg a) (extremeId ty true) (minMax ty true) % 2 ^ w)
         ∧ W (.vredMin ty d a pm) (fun m r => r = reduce ty (m.preg pm) (m.vreg a) (extremeId ty false) (minMax ty false) % 2 ^ w)))

/-- R227 and R243: a table word gives each active lane the value that R227's pseudocode makes of it in the table that it names: a
NaN gives the default NaN, a lane outside the domain is taken at the nearer boundary, the segment's row is evaluated with every
step rounded to FP32, and `vtip.x` goes on from the boundary along the slope there. A table index that holds no table is
ILLEGAL_ENCODING at the word. COMPLETES (exec answers next, on conditions on state and operands alone): `vtip`, `vtipX`. -/
def Obligations.TableWords : Prop :=
  ∀ (s : State) (d a : VReg) (tbl pm : PReg) (ext : Bool),
    let i : Instr := if ext then .vtipX d a tbl pm else .vtip d a tbl pm
    let t := (s.tile s.cur).m.tbl[(r3 tbl).val]
    s.issuesV i = true →
    (t.v = true → writesElems i s .f32 d pm 8 (fun m e =>
      let x := v32 (lane32 (m.vreg a) e)
      let lo := v32 t.lo
      let hi := v32 t.hi
      let outside := decide (x.cmpKey lo < 0) || decide (0 < x.cmpKey hi)
      let xe := if x.cmpKey lo < 0 then lo else if 0 < x.cmpKey hi then hi else x
      let u := rv32 ((rv32 (xe.add lo.neg)).mul (v32 t.inv))
      let j := if u = .inf false then t.nseg - 1 else (min (max u.floor 0) ((t.nseg : Int) - 1)).toNat
      let c := fun k => v32 (SMap.get 0 m.rows (3 * (t.org + j) + k))
      let h := rv32 ((rv32 ((c 1).add (rv32 ((c 2).mul xe)))).mul xe)
      let y := rnd32 ((c 0).add h) % 2 ^ 32
      let g := rv32 ((c 1).add (rv32 ((FVal.ofInt 2).mul (rv32 ((c 2).mul xe)))))
      if x.isNan then 0x7FC00000
      else if (outside && ext) = false ∨ g = .zero false ∨ g = .zero true then y
      else rnd32 ((valOf fp32 y).add (rv32 (g.mul (rv32 (x.add xe.neg))))) % 2 ^ 32))
    ∧ (t.v = false → exec i s = .next (s.vecTrap s.cur 0x01 0 (wordOf i)))

/-- R246 and R247: the block-scalar and predicate words write their whole register and go on; `vnop` writes none. R213 and R218 to
R223: `vloop` opens a loop of its count over the words behind it, or skips them where the count is 0; a loop that is too short,
too deep or not within the open ones is ILLEGAL_ENCODING at the word. A word at a loop's end goes back while rounds remain. `vend`
waits as a `vflip` does, and `vqmark` marks the entries before it. That a `vloop` of count 0 leaves the loops around it as they
are is the model's reading (log 59). COMPLETES (exec answers next, on conditions on state and operands alone): `kli`, `kadd`,
`kmov`, `plen`, `plenS`, `pand`, `por`, `pnot`, `vnop`, `vloop`, `vend`, `vqmark`. -/
def Obligations.BlocksAndLoops : Prop :=
  (∀ (s : State) (d a b : PReg) (src : VSrc) (imm : W32) (n : BitVec 6) (imm24 : BitVec 24),
     let k := fun (m : Member) (v : W64) => match src with
       | .k r => m.kreg r
       | .m i => m.mbox i
       | .imm => v
     let K : Instr → (Member → W64) → Prop := fun i f => s.issuesV i = true → wordRuns i s (fun m n =>
       wroteV m n (.k d) (fullMask (.k d)) ((f m).setWidth 4096) 0)
     let P : Instr → (Member → Nat → Bool) → Prop := fun i f => s.issuesV i = true → wordRuns i s (fun m n => ∃ v : BitVec 256,
       wroteV m n (.p d) (fullMask (.p d)) (v.setWidth 4096) 0 ∧ ∀ j, j < 256 → v.getLsbD j = f m j)
     K (.kli d imm) (fun _ => imm.signExtend 64)
     ∧ K (.kadd d a src n imm24) (fun m => (m.kreg a + k m (imm24.signExtend 64)) >>> n.toNat)
     ∧ K (.kmov d src) (fun m => k m 0)
     ∧ P (.plen d src imm) (fun m j => decide (j / 2 < ((k m (imm.setWidth 64)).setWidth 32 : W32).toNat))
     ∧ P (.plenS d src imm) (fun m j => decide (j < ((k m (imm.setWidth 64)).setWidth 32 : W32).toNat))
     ∧ P (.pand d a b) (fun m j => (m.preg a).getLsbD j && (m.preg b).getLsbD j)
     ∧ P (.por d a b) (fun m j => (m.preg a).getLsbD j || (m.preg b).getLsbD j)
     ∧ P (.pnot d a) (fun m j => !(m.preg a).getLsbD j)
     ∧ (s.issuesV .vnop = true → wordRuns .vnop s (fun m n => ∀ q, n.face q = m.face q)))
  ∧ (∀ (s : State) (src : VSrc) (dist count : BitVec 16),
       let m := (s.tile s.cur).m
       let n := fun (t : State) => (t.tile s.cur).m
       let stop := m.vu.vpc + BitVec.ofNat 64 (8 * dist.toNat)
       let c := m.loopCount src count
       let legal : Prop := 2 ≤ dist.toNat ∧ m.vu.loops.length < 3 ∧ ∀ l ∈ m.vu.loops, stop.toNat ≤ l.last.toNat + 8
       let i : Instr := .vloop src dist count
       (s.issuesV i = true →
         (legal → c ≠ 0 → completes i s (fun t => onlyMember s t ∧ (n t).vu.vpc = m.vu.vpc + 8 ∧ (n t).vf = m.vf
           ∧ (n t).vu.loops = ⟨c, m.vu.vpc + 8, stop - 8⟩ :: m.vu.loops ∧ steeringSame m (n t)))
         ∧ (legal → c = 0 → completes i s (fun t => onlyMember s t ∧ (n t).vu.vpc = stop ∧ (n t).vu.loops = m.vu.loops
           ∧ (n t).vf = m.vf ∧ steeringSame m (n t)))
         ∧ (¬ legal → exec i s = .next (s.vecTrap s.cur 0x01 0 (wordOf i))))
       ∧ (s.issuesV .vend = true → completes .vend s (fun t => onlyMember s t ∧ (n t).vu.flip = true ∧ (n t).vu.vending = true
           ∧ (n t).vu.loops = [] ∧ (n t).vu.vpc = m.vu.vpc ∧ (n t).vf = m.vf ∧ steeringSame m (n t)))
       ∧ (s.issuesV .vqmark = true → wordRuns .vqmark s (fun m n => m.su.nextId ∈ n.vu.marks ∧ n.vf = m.vf ∧ n.vu.lq = m.vu.lq
           ∧ n.vu.sq = m.vu.sq))
       ∧ (∀ (a : W64) (l : Loop) (ls : List Loop), (a ≠ l.last → advLoops a (l :: ls) = (l :: ls, a + 8))
           ∧ (a = l.last → 1 < l.remaining → advLoops a (l :: ls) = ({ l with remaining := l.remaining - 1 } :: ls, l.first))
           ∧ (a = l.last → l.remaining ≤ 1 → advLoops a (l :: ls) = advLoops a ls) ∧ advLoops a [] = ([], a + 8)))

/-- R215, R239, R241 and R244: the lanes of a vector access are the active ones, each at its base, offset and place, or at the
index that its lane holds; an update reads three words of each active lane. R216, R221, R239 to R246: a vector load, store or
update that passes the checks of its lanes joins its queue and goes on; no register and no byte has changed yet. Sixteen entries
hold the word back; a misaligned lane is ALIGNMENT at the word, and a lane that does not translate halts the vector unit with its
fault. Which entries count as held is the model's reading (log 35); that TVAL names the first misaligned active lane in increasing
order is its choice (log 89). COMPLETES (exec answers next, on conditions on state and operands alone): `vld`, `vldx`, `kld`,
`vst`, `vstx`, `vupd`. -/
def Obligations.VectorMemory : Prop :=
  (∀ (m : Member) (kb pm : PReg) (a : VReg) (off : W32) (z j : Nat) (va : W64),
     let on : Nat → Prop := fun i => i < 128 ∧ (m.preg pm).getLsbD (2 * i) = true
     ((j, va) ∈ lineAddrs m kb pm off z ↔ on j ∧ va = m.kreg kb + off.signExtend 64 + BitVec.ofNat 64 (z * j))
     ∧ ((j, va) ∈ indexAddrs m kb pm a ↔ on j ∧ va = m.kreg kb + (lane32 (m.vreg a) j).setWidth 64)
     ∧ ((j, va) ∈ updAddrs m kb pm ↔ j < 384 ∧ on (j % 128) ∧ va = m.kreg kb + BitVec.ofNat 64 (4 * j)))
  ∧ (∀ (s s1 s2 : State) (i : Instr) (l l2 : List LaneAcc), s.issuesV i = true →
       let m := (s.tile s.cur).m
       let n := fun (t : State) => (t.tile s.cur).m
       let kept : State → Prop := fun t => wordDone m (n t) ∧ (n t).f = m.f ∧ (n t).vf = m.vf ∧ sameMemory s t
         ∧ (n t).stash.bytes = m.stash.bytes ∧ (n t).su.pc = m.su.pc ∧ (n t).q = m.q
       let waits : Prop := completes i s (fun t => onlyMember s t ∧ (n t).vu.vpc = m.vu.vpc ∧ (n t).vu.ready = m.ctr.cycle + 1
         ∧ (n t).f = m.f ∧ (n t).vf = m.vf ∧ (n t).vu.lq = m.vu.lq ∧ (n t).vu.sq = m.vu.sq ∧ (n t).su.vwin = m.su.vwin)
       (∀ kind dst align addrs mask busy, vloadForm m i = some (kind, dst, align, addrs, mask, busy) → 16 ≤ m.vu.loadsHeld → waits)
       ∧ (∀ conv v addrs busy, vstoreForm m i = some (conv, v, addrs, busy) → 16 ≤ m.vu.storesHeld → waits)
       ∧ (∀ kind dst align addrs mask busy, vloadForm m i = some (kind, dst, align, addrs, mask, busy) → m.vu.loadsHeld < 16 →
         (s.vecCheck s.cur .read align addrs = (s1, .ok l) → s1.pendLane s.cur l = none → completes i s (fun t => kept t
           ∧ l.map (fun a => (a.lane, a.va)) = addrs ∧ (n t).vu.sq = m.vu.sq ∧ ∃ x : VEntry, (n t).vu.lq = m.vu.lq ++ [x]
           ∧ x.kind = kind ∧ x.dst = dst ∧ x.mask = mask ∧ x.lanes = l ∧ x.writes = [] ∧ x.sent = none ∧ x.read = false
           ∧ x.busy = busy l))
         ∧ (∀ a, addrs.find? (fun a => decide (a.2.toNat % align ≠ 0)) = some a →
           exec i s = .next (s.vecTrap s.cur 0x02 0 a.2))
         ∧ (∀ e, s.vecCheck s.cur .read align addrs = (s1, .error (.fault e)) → exec i s = .next (s1.vecFault s.cur e)))
       ∧ (∀ conv v addrs busy, vstoreForm m i = some (conv, v, addrs, busy) → m.vu.storesHeld < 16 →
         s.vecCheck s.cur .write (convSize conv) addrs = (s1, .ok l) → completes i s (fun t => kept t
           ∧ l.map (fun a => (a.lane, a.va)) = addrs ∧ (n t).vu.lq = m.vu.lq ∧ ∃ x : VEntry, (n t).vu.sq = m.vu.sq ++ [x]
           ∧ x.kind = .store conv ∧ x.lanes = [] ∧ x.sent = none ∧ x.busy = busy l ∧ x.writes = l.map (fun a =>
               (a.tgt, a.va, bytesOfNat (convSize conv) (narrow conv (lane32 (m.vreg v) a.lane))))))
       ∧ (∀ d a b kc pm, i = .vupd d a b kc pm → m.vu.loadsHeld < 16 → m.vu.storesHeld < 16 → (m.kreg kc).toNat % 64 = 0 →
         s.vecCheck s.cur .read 4 (updAddrs m kc pm) = (s1, .ok l) →
         s1.vecCheck s.cur .write 4 ((updAddrs m kc pm).filter (fun x => (valOf fp32 (lane32 (m.vreg a) (x.1 % 128)).toNat).isFinite))
           = (s2, .ok l2) →
         s2.pendLane s.cur l = none → completes i s (fun t => kept t ∧ (n t).vu.lq = m.vu.lq ∧ ∃ x : VEntry,
           (n t).vu.sq = m.vu.sq ++ [x] ∧ x.kind = .update (m.vreg a) (m.vreg b) ∧ x.dst = .v d ∧ x.mask = maskOf .f32 (m.preg pm)
             ∧ x.lanes = l ∧ x.writes = [] ∧ x.sent = none)))

/-! ### Pushes and engines (R68 to R76, R84, R132, R151, R325, R363, R426) -/

/-- R70 to R73 and R137: a push that passes its checks and finds room appends its command to its queue, with its own sequence
number, its operands and descriptors as they are visible, its wait, its post and its scope; the post enters P and a consuming wait
enters Q of a local semaphore; the steering unit goes on by 16 bytes. Nothing else of the tile and no byte of memory changes. R68,
R70, R126 and R363: a push whose checks fail raises their report; with a full queue it waits and has not issued; a local wait that
P does not cover is FORWARD_WAIT, and a post past the largest value is SEM_OVERFLOW. A matrix multiply whose rate class the held
class does not allow is POWER_OVER with reason 5, once its descriptors and banks have passed. When a started command leaves its
queue is the model's reading (log 34). COMPLETES (exec answers next, on conditions on state and operands alone): `mma`, `mmaSp`,
`wload`, `wloadT`, `aclr`, `ainit`, `adrain`, `adrainMx`, `fenceOc`, `cp`, `cpAccF32`, `cpAccBf16`, `cpAccI32`, `cpMc`, `gather`,
`scatter`, `scatterAccF32`, `scatterAccBf16`, `scatterAccI32`, `fill`, `atomAdd`, `atomAddthr`, `atomSwap`, `atomCas`, `atomMin`,
`atomMax`, `atomArrive`, `note`, `chain`, `stashMap`, `stashUnmap`, `stashWb`, `offload`, `csend`, `crecv`, `cstep`, `carm`,
`crcSet`, `crcRd`, `cslot`, `cef`, `vrun`. -/
def Obligations.PushesQueue : Prop :=
  (∀ (s : State) (i : Instr) (h : Head) (q : QId), cmdHead i = some (h, q) → s.issues 2 = true →
     let m := (s.tile s.cur).m
     let c0 := m.capture i h
     s.pushChecks s.cur c0 = none → s.qUsed s.cur q < qCap q →
     (∀ w, h.wait = some w → isLocal w.sem = true → m.semQ w.sem + w.thr.toNat ≤ m.semP w.sem) →
     (∀ p, h.post = some p → isLocal p.sem = true → m.semP p.sem + p.inc.toNat < 2 ^ 24) →
     completes i s (fun t =>
       let n := (t.tile s.cur).m
       onlyMember s t ∧ wentOn m n 16 ∧ n.f = m.f ∧ n.vf = m.vf ∧ n.ctr.pseq = m.ctr.pseq + 1 ∧ n.sems.val = m.sems.val
         ∧ n.mu = m.mu ∧ n.ch = m.ch ∧ n.vu = m.vu ∧ n.stash = m.stash ∧ n.acc = m.acc ∧ n.su.stores = m.su.stores
         ∧ (∀ k, n.semP k = m.semP k + match h.post with
             | some p => if p.sem = k ∧ isLocal k = true then p.inc.toNat else 0
             | none => 0)
         ∧ (∀ k, n.semQ k = m.semQ k + match h.wait with
             | some w => if w.sem = k ∧ isLocal k = true ∧ w.consume = true then w.thr.toNat else 0
             | none => 0)
         ∧ ∃ c : Cmd, n.q = m.q.enqueue q c ∧ c.op = i ∧ c.wait = h.wait ∧ c.post = h.post ∧ c.scope = h.scope
           ∧ c.seq = m.ctr.pseq ∧ c.x = m.sreg (cmdRegs i).1 ∧ c.y = m.sreg (cmdRegs i).2.1 ∧ c.z = m.sreg (cmdRegs i).2.2
           ∧ c.asid = m.asid ∧ c.marks = m.su.nextId ∧ ∀ (k : Nat) (ix : TdIx), (cmdTds i)[k]? = some ix → [c.d0, c.d1, c.d2][k]? = some (m.tdesc ix)))
  ∧ (∀ (s : State) (i : Instr) (h : Head) (q : QId), cmdHead i = some (h, q) → s.issues 2 = true →
       let m := (s.tile s.cur).m
       let c := m.capture i h
       (∀ r, s.pushChecks s.cur c = some r → exec i s = .next (s.raise r))
       ∧ (s.pushChecks s.cur c = none → qCap q ≤ s.qUsed s.cur q → exec i s = .next (s.hold i))
       ∧ (s.pushChecks s.cur c = none → s.qUsed s.cur q < qCap q → ∀ w, h.wait = some w → isLocal w.sem = true →
           m.semP w.sem < m.semQ w.sem + w.thr.toNat → exec i s = .next (s.raise ⟨0x07, 0, 0, 0, 0, 0, w.sem.setWidth 64⟩))
       ∧ (s.pushChecks s.cur c = none → s.qUsed s.cur q < qCap q → h.wait = none → ∀ p, h.post = some p → isLocal p.sem = true →
           2 ^ 24 ≤ m.semP p.sem + p.inc.toNat → exec i s = .next (s.raise ⟨0x08, 0, 0, 0, 0, 0, p.sem.setWidth 64⟩))
       ∧ (∀ r, pushLimits (m.code.vend - m.code.vcb.toNat) c = some r →
           s.pushChecks s.cur c = some ⟨0x06, 0, 0, 0, 0, r, (wordOf i <<< 32) ||| r.setWidth 64⟩)
       ∧ (∀ r, pushLimits (m.code.vend - m.code.vcb.toNat) c = none → cmdConflict m.pushView c = none → cmdRate c = some r →
           rateOk (classOf (s.tile s.cur).grant) r = false → s.pushChecks s.cur c
             = some ⟨0x0C, 0, 0, 0, 0, 5, BitVec.ofNat 64 ((windowSum m.su.win m.ctr.cycle + 2) * 2 ^ 32 + 5)⟩))

/-- R70: a push that waited for room takes place once its queue has a free entry, as it would have at its issue. R73, R74 and
R426: at the end of a cycle, with nothing else left in it, the head of a queue starts once its wait passes, and a consuming wait
takes its threshold from the value and from P and Q; until then it stays. R51 and R211: a block starts at its offset in the vector
code. R73, R132 and R213: a block whose `vend` has flipped and whose stores have landed completes, and a copy-unit command
completes once its accesses have landed. R273: its post reaches its semaphore then, or once the older stores that it covers have
landed. That a started command has left its queue is the model's reading (log 34), and so is that a waiting command of another
engine that cannot start yet reserves nothing (log 83). COMPLETES (exec answers next, on conditions on state and operands alone):
`queuedPush`, `commandStart`, `commandCompletion`. -/
def Obligations.CommandsRun : Prop :=
  (∀ (s : State) (t : TileId), (s.tile t).suLive = true →
     let m := (s.tile t).m
     let n := fun (u : State) => (u.tile t).m
     (∀ i h q, m.su.wait = .again i → cmdHead i = some (h, q) → (s.tile t).mayGo = true → s.suOver t 2 = false →
       s.qUsed t q < qCap q → (∀ w, h.wait = some w → isLocal w.sem = true → m.semQ w.sem + w.thr.toNat ≤ m.semP w.sem) →
       (∀ p, h.post = some p → isLocal p.sem = true → m.semP p.sem + p.inc.toNat < 2 ^ 24) →
       completes (.queuedPush t) s (fun u => wentOn m (n u) 16 ∧ (n u).f = m.f ∧ (n u).q = m.q.enqueue q (m.capture i h)
         ∧ (n u).ctr.pseq = m.ctr.pseq + 1 ∧ sameMemory s u))
     ∧ (∀ u c, (s.tile t).engLive = true → s.atStarts t = true → m.headOf u = some c → m.waitPasses c = false → completes (.commandStart t u) s (fun v => (n v).f = m.f
         ∧ (n v).sems = m.sems ∧ (n v).mu = m.mu ∧ (n v).vu = m.vu ∧ (n v).q.mu.length = m.q.mu.length
         ∧ (n v).q.cu.length = m.q.cu.length ∧ (n v).q.vu.length = m.q.vu.length ∧ (n v).q.ce.length = m.q.ce.length
         ∧ sameMemory s v))
     ∧ (∀ c h imm, (s.tile t).engLive = true → s.atStarts t = true → m.headOf .vu = some c → m.waitPasses c = true →
         c.op = .vrun h imm → completes (.commandStart t .vu) s (fun v =>
         (n v).vu.cmd = some c ∧ (n v).vu.vpc = m.code.vcb + BitVec.ofNat 64 (8 * imm.toNat) ∧ (n v).vu.ready = m.ctr.cycle + 1
           ∧ (n v).vu.loops = [] ∧ (n v).q.vu = m.q.vu.tail ∧ (n v).f = m.f ∧ (n v).vf = m.vf ∧ sameMemory s v
           ∧ v.closing = some t
           ∧ (∀ w, c.wait = some w → w.consume = true → (n v).sem w.sem = m.sem w.sem - w.thr.toNat
             ∧ (isLocal w.sem = true → (n v).semP w.sem = m.semP w.sem - w.thr.toNat
               ∧ (n v).semQ w.sem = m.semQ w.sem - w.thr.toNat))
           ∧ (∀ w, c.wait = some w → w.consume = false → (n v).sems = m.sems)))
     ∧ (∀ u c, (s.tile t).engLive = true → s.atStarts t = true → m.headOf u = some c → m.waitPasses c = true →
         exec (.commandStart t u) s = .next { s.startHead t u c with closing := some t }))
  ∧ (∀ (s : State) (t : TileId) (c : Cmd) (ch : Fin 5) (k : Nat) (r : CuRun),
       let m := (s.tile t).m
       let n := fun (u : State) => (u.tile t).m
       let posted : Cmd → BitVec 4 → State → Prop := fun c pcl u => (c.post = none → (n u).sems = m.sems)
         ∧ (∀ p, c.post = some p → s.releaseOk t c.marks c.scope = true → (n u).sem p.sem
           = if isLocal p.sem then (m.sem p.sem + p.inc.toNat) % 2 ^ 24 else min (m.sem p.sem + p.inc.toNat) (2 ^ 24 - 1))
         ∧ (c.post ≠ none → s.releaseOk t c.marks c.scope = false → (n u).sems = m.sems ∧ (n u).rel = m.rel ++ [(c, pcl)])
       (m.vu.cmd = some c → m.vu.vending = true → m.vu.flip = false → m.vu.sq = [] →
         completes (.commandCompletion t .vu 0) s (fun u => (n u).vu.cmd = none ∧ (n u).vf = m.vf ∧ (n u).f = m.f ∧ posted c 2 u
           ∧ sameMemory s u))
       ∧ ((m.ch[ch.val]).runs[k]? = some r → r.halted = none → r.issued = true → r.landed m.mbq = true → r.errs = 0 →
           r.recAddr = none →
           completes (.commandCompletion t (.ch ch) k) s (fun u => ((n u).ch[ch.val]).runs.length + 1 = (m.ch[ch.val]).runs.length
             ∧ (n u).f = m.f ∧ posted r.cmd 1 u ∧ sameMemory s u)))

/-- R128, R132, R133 and R139: a write of the copy unit that no older access of its channel blocks writes its value, low byte
first, at the physical address of its destination in DRAM that no stash owns, and nothing else; all its units, which fill one
aligned word, have then landed in one step. R259, R260 and R262: one group of an `mma` adds the rounded sum of its products to
every output of its slot, and no other accumulator changes. R263: `aclr` leaves every element of its slot at 0 and every other
slot as it was. COMPLETES (exec answers next, on conditions on state and operands alone): `engineAccessLands`. -/
def Obligations.EngineAccessesLand : Prop :=
  (∀ (s : State) (t : TileId) (c : Fin 5) (k i j a len v : Nat) (mt : BitVec 2) (r : CuRun) (f : Flight) (va : W64)
     (q : Option (Fin 16)),
     let m := (s.tile t).m
     (s.tile t).gated = false → locate m.ch[c.val].runs k = some (i, j, r, f) → f.parked = none → f.stage = .write v q →
     (∀ p ∈ f.places r.cmd q, s.writeBlocked t c i j r.cmd.asid p = false) → s.noteHeld t r.cmd = false →
     cuDst r.cmd f q 0 = .mem va len → s.anyPoison = false →
     let landed : State → Prop := fun u =>
       let n := (u.tile t).m
       n.f = m.f ∧ n.vf = m.vf ∧ n.q = m.q ∧ n.sems = m.sems ∧ n.ch = (m.setFlight c i j []).ch
     (f.cnt = 1 → 1 ≤ len → va.toNat % 8 + len ≤ 8 → (s.routeT t .cu r.cmd.asid va .write false).2 = .to (.pa a mt) →
       regionOf a = .dram → s.ownerOf a = none → s.inBarrier a = false → s.ceilHolds a = false →
       completes (.engineAccessLands t (.ch c) (k + 1)) s (fun u => landed u ∧ u.mem = putBytes s.mem a (bytesOfNat len v)
         ∧ ∀ b, b < a ∨ a + len ≤ b → byteAt u.mem b = byteAt s.mem b))
     ∧ (∀ u0 : State, s.engWrites t .cu r.cmd.asid (((f.places r.cmd q).zip (List.range f.cnt)).flatMap (fun e => match e.1 with
         | .mem p _ => splitWrite p (unitBytes v len e.2)
         | .acc _ => [])) = (u0, .ok ()) → u0.anyPoison = false →
       completes (.engineAccessLands t (.ch c) (k + 1)) s (fun u => landed u ∧ u.mem = u0.mem)))
  ∧ (∀ (s s1 : State) (t : TileId) (k i n : Nat) (r : MuRun) (p : Panel) (ws : SMap Nat) (h : Head) (acc : BitVec 3) (a b : TdIx)
      (sat ta z : Bool),
      let m := (s.tile t).m
      let o := (s1.tile t).m
      let d := tdOf r.cmd.d0
      let ks := groupKs (mmaK d ta) r.next
      let runs : Prop := (s.tile t).engLive = true ∧ m.mu = some r ∧ r.halted = false ∧ r.noEffect = false ∧ r.begun = true
        ∧ r.next < r.total
      (runs → r.cmd.op = .mma h acc a b sat ta z → s.muWords t r.cmd a (aWords d ta ks) = (s1, .ok ws) →
        m.mmaPanel r.cmd b ta false = some p → SMap.wf 0 o.acc = true → completes (.engineAccessLands t .mu k) s (fun u =>
          let q := (u.tile t).m
          (i < mmaM d ta → n ≤ p.tag.nm1.toNat → q.accAt acc i n
              = accum (if z = true ∧ r.next = 0 then .zero false else v32 (o.accAt acc i n))
                  (gsum (ks.map (fun k => mProd (aValue d ta ws i k) (p.value k n))) sat) sat)
            ∧ (∀ e, (∀ x y, x < mmaM d ta → y ≤ p.tag.nm1.toNat → e ≠ accKey acc x y) → SMap.get 0 q.acc e = SMap.get 0 o.acc e)
            ∧ q.f = o.f ∧ u.mem = s1.mem))
      ∧ (runs → r.cmd.op = .aclr h acc → completes (.engineAccessLands t .mu k) s (fun u =>
          let q := (u.tile t).m
          (i < 128 → n < 256 → q.accAt acc i n = 0) ∧ (∀ e, e / 32768 ≠ acc.toNat → SMap.get 0 q.acc e = SMap.get 0 m.acc e)
            ∧ q.f = m.f ∧ sameMemory s u)))

/-- R84, R151, R153 and R325: an `atom` at its memory point replaces the word by the sum, the operand, the compared operand, the
signed minimum or the signed maximum, and its old value sets out for its mailbox; `atom.arrive` counts an arrival at a barrier
object, and the last one clears the count and raises the generation. R119: a store whose word lies in another tile's stash is
performed there: that stash takes its bytes and memory takes none. R160 and R161: a walker that loads a record with V = 0 stops; a
valid one waits to start, and its post enters P and its consuming wait Q of a local semaphore. COMPLETES (exec answers next, on
conditions on state and operands alone): `rmwAtMemoryPoint`, `remoteStashAccess`, `walkerRecordLoad`. -/
def Obligations.MemoryPointSteps : Prop :=
  (∀ (s : State) (t : TileId) (c : Fin 5) (k i j a : Nat) (mt : BitVec 2) (r : CuRun) (f : Flight) (v : W64),
     let m := (s.tile t).m
     let n := fun (u : State) => (u.tile t).m
     let old := BitVec.ofNat 64 (numAt s.mem a 8)
     let y := r.cmd.y
     let z := r.cmd.z
     locate m.ch[c.val].runs k = some (i, j, r, f) → f.parked = none → f.stage = .rmw v →
     s.writeBlocked t c i j r.cmd.asid (.mem r.cmd.x 8) = false →
     (s.routeT t .cu r.cmd.asid r.cmd.x .rmw false).2 = .to (.pa a mt) → regionOf a = .dram → s.ownerOf a = none →
     s.ceilHolds a = false →
     let returns : Option MIx → W64 → State → Prop := fun ret x u => (n u).f = m.f ∧ (n u).mbq = match ret with
       | some mb => m.mbq ++ [⟨mb, x, false, 2, m.su.nextId⟩]
       | none => m.mbq
     let A : Instr → Option MIx → W64 → Prop := fun op ret new => r.cmd.op = op → s.inBarrier a = false →
       s.poisoned a 8 = false → s.ms.joins.any (fun e => e.1 == a / 8) = false →
       completes (.rmwAtMemoryPoint t c k) s (fun u => u.mem = putBytes s.mem a (bytesOfNat 8 new.toNat) ∧ returns ret old u)
     (∀ h ret sx sy sz, A (.atomAdd h ret sx sy) ret (old + y) ∧ A (.atomAddthr h ret sx sy sz) ret (old + y)
       ∧ A (.atomSwap h ret sx sy) ret y ∧ A (.atomCas h ret sx sy sz) ret (if old = z then y else old)
       ∧ A (.atomMin h ret sx sy) ret (if old.toInt < y.toInt then old else y)
       ∧ A (.atomMax h ret sx sy) ret (if old.toInt < y.toInt then y else old))
     ∧ (∀ h ret sx e, r.cmd.op = .atomArrive h ret sx → s.ms.bars.find? (fun b => b.1 == a) = some (a, e) →
         s.poisoned a 16 = false →
         let count := numAt s.mem a 8
         let gen := BitVec.ofNat 64 (numAt s.mem (a + 8) 8)
         completes (.rmwAtMemoryPoint t c k) s (fun u => returns ret gen u
           ∧ u.mem = if (count + 1) % 2 ^ 64 = e then
               putBytes (putBytes s.mem a (bytesOfNat 8 0)) (a + 8) (bytesOfNat 8 (gen + 1).toNat)
             else putBytes s.mem a (bytesOfNat 8 (count + 1)))))
  ∧ (∀ (s : State) (t o : TileId) (k a l : Nat) (mt : BitVec 2) (x : SuStore) (w : Fin 4) (s1 : State) (bs : List Byte) (va : W64),
       let m := (s.tile t).m
       let y := (s.tile o).m.stash
       let c : Fin 5 := ⟨w.val + 1, by have := w.isLt; omega⟩
       let ch := m.ch[c.val]
       let rec_ : W512 := BitVec.ofNat 512 (natOfBytes bs)
       (m.su.stores[k]? = some x → x.due = none → s.storeBlocked t x = false →
         x.tgt = .pa a mt → regionOf a = .dram → s.ownerOf a = some (.tile o l) → s.inBarrier a = false →
         (y.line ((l * 256 + a % 256) / 256)).fill = .ready → completes (.remoteStashAccess (.suStore t k)) s (fun u =>
           (u.tile o).m.stash.bytes = putBytes y.bytes (l * 256 + a % 256) (bytesOfNat x.n x.data.toNat) ∧ sameMemory s u
             ∧ (u.tile t).m.su.stores = m.su.stores.filter (fun y => y.id != x.id) ∧ (u.tile t).m.f = m.f))
       ∧ ((s.tile t).engLive = true → ch.stuck = false → ch.pending = none → ch.runs.all (fun r => r.issued) = true →
           ch.loadAt = some va → s.engRead t .cu ch.asid va 64 = (s1, .ok bs) →
           (rec_.getLsbD 384 = false → completes (.walkerRecordLoad t w) s (fun u => ((u.tile t).m.ch[c.val]).loadAt = none
             ∧ ((u.tile t).m.ch[c.val]).pending = none ∧ (u.tile t).m.f = m.f ∧ sameMemory s u))
           ∧ (∀ i, rec_.getLsbD 384 = true → recordInstr rec_ = .ok i →
             let cmd := (s1.tile t).m.recordCmd c i rec_
             s1.recordCheck t c cmd = none → completes (.walkerRecordLoad t w) s (fun u =>
               let n := (u.tile t).m
               (n.ch[c.val]).loadAt = none ∧ sameMemory s u ∧ (n.ch[c.val]).pending = some (cmd, va, rec_.extractLsb' 320 64)
                 ∧ n.sems.val = m.sems.val
                 ∧ (∀ k, n.semP k = m.semP k + match cmd.post with
                     | some p => if p.sem = k ∧ isLocal k = true then p.inc.toNat else 0
                     | none => 0)
                 ∧ (∀ k, n.semQ k = m.semQ k + match cmd.wait with
                     | some w => if w.sem = k ∧ isLocal k = true ∧ w.consume = true then w.thr.toNat else 0
                     | none => 0)))))

/-! ### Steps of a tile (R67, R116, R122, R164 to R168, R216 to R222, R380, R381) -/

/-- R164 and R168: where nothing more falls in a cycle of a tile and it ends at a flip or a landing, the step ends that cycle: the
slow writes that are due land in their hidden faces, none of them stays pending, and the flip then exchanges the faces of its
bank, counts its phase and lets its unit issue in the next cycle. The clauses on faces are for a cycle in which slow writes alone
land. R221 and R242: the vector queues send in a cycle, one entry each, which holds its port for its cycles. Which entry a queue
sends is the model's reading (log 35). COMPLETES (exec answers next, on conditions on state and operands alone):
`vectorQueueSend`, `flipExchange`, `slowWriteLands`. -/
def Obligations.CycleSteps : Prop :=
  ∀ (s : State) (t : TileId) (x : VEntry) (store : Bool), (s.tile t).clocked = true →
    let m := (s.tile t).m
    let e := s.endCycle t
    let n := (e.tile t).m
    let l := m.landSlow m.ctr.cycle
    let quiet : Prop := m.vu.lq = [] ∧ m.vu.sq = []
      ∧ ∀ y ∈ m.su.loads, y.port ≠ some m.ctr.cycle ∧ ∀ v p d, y.got = some (v, p, d) → m.ctr.cycle < d
    (s.cycleOver t = true → m.vu.flip = true → n.vu.flip = false → exec (.flipExchange t .vector) s = .next (s.closeCycle t)
      ∧ n.ctr.cycle = m.ctr.cycle + 1 ∧ n.ctr.phaseV = m.ctr.phaseV + 1 ∧ n.vu.ready = m.ctr.cycle + 1
      ∧ (quiet → n.vf = l.vf.exchange ∧ (m.su.flip = false → n.f = l.f)
        ∧ ∀ q, bankOf q = .vector → isConst q = false → n.face q = exchanged (l.face q)))
    ∧ (s.cycleOver t = true → m.su.flip = true → n.su.flip = false → m.su.inHandler = false →
      exec (.flipExchange t .steering) s = .next (s.closeCycle t) ∧ n.ctr.cycle = m.ctr.cycle + 1 ∧ n.ctr.phaseS = m.ctr.phaseS + 1
      ∧ n.su.pc = m.su.pc + 4 ∧ n.su.ready = m.ctr.cycle + 1
      ∧ (quiet → n.f = l.f.exchange false ∧ (m.vu.flip = false → n.vf = l.vf)
        ∧ ∀ q, bankOf q = .steering → isConst q = false → n.face q = exchanged (l.face q)))
    ∧ (s.cycleOver t = true → (∃ w ∈ m.su.slow, w.due ≤ m.ctr.cycle) → exec (.slowWriteLands t) s = .next (s.closeCycle t)
      ∧ n.ctr.cycle = m.ctr.cycle + 1 ∧ (∀ w ∈ n.su.slow, m.ctr.cycle < w.due)
      ∧ (quiet → m.su.flip = false → m.vu.flip = false → (∀ q, n.face q = l.face q)
        ∧ ∀ w, m.su.slow = [w] → isConst w.ref = false → w.mask ≠ 0 → w.mask &&& fullMask w.ref = w.mask →
          n.face w.ref = ((m.face w.ref).1,
              ((if (m.face w.ref).2.2 then (m.face w.ref).2.1 else (m.face w.ref).1) &&& ~~~w.mask) ||| (w.val &&& w.mask), true)
            ∧ ∀ q, q ≠ w.ref → n.face q = m.face q))
    ∧ (m.vu.nextSend store m.ctr.cycle = some x → completes (.vectorQueueSend t store) s (fun u =>
      let k := (u.tile t).m
      k.f = m.f ∧ k.vf = m.vf ∧ sameMemory s u ∧ (store = true → k.vu.sendS = m.ctr.cycle + x.busy ∧ k.vu.sendL = m.vu.sendL
          ∧ ∀ y ∈ k.vu.sq, y.id = x.id → y.sent = some m.ctr.cycle)
        ∧ (store = false → k.vu.sendL = m.ctr.cycle + x.busy ∧ k.vu.sendS = m.vu.sendS)))

/-- R380 and R381: the boundary takes one report, the most urgent, and enters the handler with it; a drained trap enters with its
own. R382: a trap that waits in a handler becomes a double fault once the handler's writes have landed. R67 and R68: a steering
word that encodes nothing is ILLEGAL_ENCODING, a command that the table refuses is CMD_ERROR with its reason, and a vector word
that encodes nothing halts the vector unit. That the handler's first instruction issues one cycle on is the model's reading (log
46). COMPLETES (exec answers next, on conditions on state and operands alone): `trapEntry`, `wordEncodingNothing`. -/
def Obligations.ReportsAreTaken : Prop :=
  ∀ (s : State) (t : TileId) (r : Report) (tpc : W64) (rep : Reports) (w : W32) (v : W64) (reason : BitVec 4),
    let x := s.tile t
    let m := x.m
    let on : State := { s with cur := t }
    (x.suLive = true → m.su.wait = .trap r tpc → m.su.inHandler = false → m.drained = true → completes (.trapEntry t) s (fun u =>
      entered m (u.tile t).m r tpc ∧ sameMemory s u))
    ∧ (x.suLive = true → m.su.wait = .trap r tpc → m.su.inHandler = true →
      exec (.trapEntry t) s = .next (if s.eretReady t then s.doubleFault t r else s))
    ∧ (x.suLive = true → m.su.wait.boundary = true → m.su.inHandler = false → m.rep.preempt = false → x.dbg.hreq = false →
      x.dbgFirst = false → m.drained = true → m.nextReport = some (r, rep) → completes (.trapEntry t) s (fun u => entered m (u.tile t).m r m.su.pc
        ∧ (u.tile t).m.rep = rep ∧ sameMemory s u ∧ ∀ y ∈ u.ms.waiters, y.tile ≠ t))
    ∧ (x.beforeWord = true → m.fetchSu = .bad (.su w) →
      exec (.wordEncodingNothing (.su w)) on = .next (on.raise ⟨0x01, 0, 0, 0, 0, 0, w.setWidth 64⟩))
    ∧ (x.beforeWord = true → m.fetchSu = .bad (.cmd w reason) → exec (.wordEncodingNothing (.cmd w reason)) on
      = .next (on.raise ⟨0x06, 0, 0, 0, 0, reason.setWidth 8, (w.setWidth 64 <<< 32) ||| reason.setWidth 64⟩))
    ∧ (x.suLive = true → m.vu.cmd.isSome = true → m.vu.halted = none → m.vu.flip = false → m.vu.vending = false →
      m.vu.ready ≤ m.ctr.cycle → m.fetchVu = .bad (.vu v) → completes (.wordEncodingNothing (.vu v)) on (fun u =>
        let n := (u.tile t).m
        n.vu.halted.isSome = true ∧ n.vu.vpc = m.vu.vpc ∧ n.vf = m.vf ∧ n.f = m.f ∧ sameMemory s u
          ∧ ∃ e : Report, n.rep.vector = m.rep.vector ++ [e] ∧ e.code = 0x01 ∧ e.tval = v))

/-- R217, R221 and R222: a vector load that has read its data, and whose cycle has come, lands in the bits of its register that no
younger write covers, and a vector store writes its bytes at their address; both leave their queue. R244 and R245: an update gives
each active lane with a finite gradient its new weight and moments, every step rounded to FP32, in the record and in vd; a lane
whose gradient is not finite gives its weight to vd, writes nothing and counts in NF_COUNT. R166: an outside write lands in its
mailbox; one whose source comes before that of a write landed in the same cycle stays for the next. R116, R117, R120 and R122: the
fill of a line brings the 256 bytes of its block and leaves it READY and clean; shadowing writes a dirty line to its block and
leaves it clean; neither changes another byte. R83: a line of normal memory moves between its shelf and its slice, which holds
4,096 lines, and no byte changes. COMPLETES (exec answers next, on conditions on state and operands alone): `vuLoadLands`,
`vuStoreLands`, `mailboxOutsideWrite`, `stashFillComplete`, `stashShadowing`, `lineMove`. -/
def Obligations.VectorAndLineSteps : Prop :=
  (∀ (s : State) (t : TileId) (k a : Nat) (mt : BitVec 2) (x : VEntry) (va : W64) (bs : List Byte) (conv : Conv) (w : MbWrite),
     let m := (s.tile t).m
     let n := fun (u : State) => (u.tile t).m
     (m.vu.lq[k]? = some x → x.kind = .load conv → x.sent ≠ none → x.due = none → x.read = true → x.writes = [] →
       (m.vu.lq ++ m.vu.sq).find? (fun y => y.id == x.id) = some x → completes (.vuLoadLands t k) s (fun u =>
         (∀ q, (n u).face q = (m.land x.id x.dst x.mask x.data).face q) ∧ sameMemory s u
           ∧ ∀ y ∈ (n u).vu.lq ++ (n u).vu.sq, y.id ≠ x.id))
     ∧ (m.vu.sq[k]? = some x → x.kind = .store conv → x.sent ≠ none → x.due = none → x.read = true →
       (m.vu.lq ++ m.vu.sq).find? (fun y => y.id == x.id) = some x → x.writes = [(.pa a mt, va, bs)] →
       s.pieceBlocked t x [] (.pa a mt, va, bs) = false → regionOf a = .dram → s.ownerOf a = none →
       s.inBarrier a = false → s.ceilHolds a = false → completes (.vuStoreLands t k) s (fun u =>
         u.mem = putBytes s.mem a bs ∧ (∀ b, b < a ∨ a + bs.length ≤ b → byteAt u.mem b = byteAt s.mem b)
           ∧ (∀ q, (n u).face q = m.face q) ∧ ∀ y ∈ (n u).vu.lq ++ (n u).vu.sq, y.id ≠ x.id))
     ∧ (∀ g h, m.vu.sq[k]? = some x → x.kind = .update g h → x.sent ≠ none → x.due = none → x.read = true → x.writes = [] →
       (m.vu.lq ++ m.vu.sq).find? (fun y => y.id == x.id) = some x → completes (.vuStoreLands t k) s (fun u =>
         (∀ q, (n u).face q = (m.land x.id x.dst x.mask x.data).face q) ∧ sameMemory s u
           ∧ (n u).ctr.nfCount = m.ctr.nfCount + BitVec.ofNat 64 (x.lanes.filter (fun a => decide (a.lane < 128)
             && !(valOf fp32 (lane32 g a.lane).toNat).isFinite)).length
           ∧ ∀ y ∈ (n u).vu.lq ++ (n u).vu.sq, y.id ≠ x.id))
     ∧ (m.mbq[k]? = some w → w.rank < m.su.mbRank → completes (.mailboxOutsideWrite t [k]) s (fun u =>
         (∀ q, (n u).face q = m.face q) ∧ (n u).mbq = m.mbq ∧ sameMemory s u))
     ∧ (m.mbq[k]? = some w → m.su.mbRank ≤ w.rank → completes (.mailboxOutsideWrite t [k]) s (fun u =>
         let v := if w.fleet then s.fleet else w.val
         (∀ q, (n u).face q = (m.outside w.mb v).face q) ∧ (n u).rep.waw = (m.outside w.mb v).rep.waw
           ∧ (n u).mbq = m.mbq.eraseIdx k ∧ sameMemory s u)))
  ∧ (∀ (g h : W4096) (lanes : List LaneAcc) (l : List (Nat × Nat)) (i : Nat) (aw am av : LaneAcc), i < 128 →
       lanes.find? (fun a => a.lane == i) = some aw → lanes.find? (fun a => a.lane == i + 128) = some am →
       lanes.find? (fun a => a.lane == i + 256) = some av →
       let val := fun k => ((l.find? (fun e => e.1 == k)).map (fun e => e.2)).getD 0
       let out := updAll g h lanes l
       let hv := fun k => v32 (lane32 h k)
       let gv := v32 (lane32 g i)
       let w := valOf fp32 (val i)
       let m1 := rv32 ((rv32 ((hv 1).mul (valOf fp32 (val (i + 128))))).add
         (rv32 ((rv32 ((FVal.ofInt 1).add (hv 1).neg)).mul gv)))
       let v1 := rv32 ((rv32 ((hv 2).mul (valOf fp32 (val (i + 256))))).add
         (rv32 ((rv32 ((FVal.ofInt 1).add (hv 2).neg)).mul (rv32 (gv.mul gv)))))
       let st := rv32 ((rv32 (m1.mul (hv 5))).div (rv32 ((rv32 ((rv32 (v1.mul (hv 6))).sqrt)).add (hv 3))))
       let w1 := rnd32 (w.add (rv32 ((hv 0).mul (rv32 (st.add (rv32 ((hv 4).mul w)))))).neg)
       (gv.isFinite = true → (i, w1) ∈ out.1 ∧ (aw.tgt, aw.va, bytesOfNat 4 w1) ∈ out.2
           ∧ (am.tgt, am.va, bytesOfNat 4 (rnd32 m1)) ∈ out.2 ∧ (av.tgt, av.va, bytesOfNat 4 (rnd32 v1)) ∈ out.2)
         ∧ (gv.isFinite = false → (i, val i) ∈ out.1)
         ∧ (∀ p ∈ out.2, ∃ a ∈ lanes, p.1 = a.tgt ∧ p.2.1 = a.va ∧ p.2.2.length = 4
           ∧ (v32 (lane32 g (a.lane % 128))).isFinite = true))
  ∧ (∀ (s : State) (t : TileId) (line : BitVec 14) (a blk : Nat),
       let m := (s.tile t).m
       let st := m.stash.line line.toNat
       let n := fun (u : State) => (u.tile t).m
       let l := fun (u : State) => (n u).stash.line line.toNat
       let held : Prop := (∃ y ∈ m.su.loads, y.tgt.inLine line.toNat = true) ∨ (∃ y ∈ m.su.stores, y.tgt.inLine line.toNat = true)
         ∨ ∃ y ∈ m.vu.lq ++ m.vu.sq, y.rest.any (fun e => e.tgt.inLine line.toNat) = true
             ∨ y.writes.any (fun w => w.1.inLine line.toNat) = true
       (st.fill = .filling → m.stash.paOf (line.toNat * 256) = some a → exec (.stashFillComplete t line) s
         = .next ((s.logFill t line.toNat a).fillDone t line.toNat))
       ∧ (st.fill = .filling → m.stash.paOf (line.toNat * 256) = some a → ¬ held → completes (.stashFillComplete t line) s (fun u =>
         (l u).fill = .ready ∧ (l u).d = false ∧ (l u).i = false ∧ sameMemory s u ∧ (n u).f = m.f
           ∧ (n u).stash.bytes = putBytes m.stash.bytes (line.toNat * 256) (bytesAt s.mem a 256)
           ∧ ∀ b, b < line.toNat * 256 ∨ line.toNat * 256 + 256 ≤ b → byteAt (n u).stash.bytes b = byteAt m.stash.bytes b))
       ∧ (st.fill = .ready → m.stash.paOf (line.toNat * 256) = some a → (st.d = true ∨ st.i = true) → s.ceilHolds a = false →
         completes (.stashShadowing t line) s (fun u => (l u).fill = .ready ∧ (l u).d = false ∧ (l u).i = false
           ∧ (n u).stash.bytes = m.stash.bytes ∧ u.mem = putBytes s.mem a (bytesAt m.stash.bytes (line.toNat * 256) 256)
           ∧ ∀ b, b < a ∨ a + 256 ≤ b → byteAt u.mem b = byteAt s.mem b))
       ∧ (st.d = false → st.i = false → exec (.stashShadowing t line) s = .next s)
       ∧ (regionOf (blk * 64) = .dram → completes (.lineMove blk) s (fun u => sameMemory s u ∧ (∀ v, u.tile v = s.tile v)
           ∧ u.ms.l2 = if s.ms.l2.contains blk then s.ms.l2.erase blk
             else if (s.ownerOf (blk * 64)).isSome = true ∨ 4096 ≤ (s.ms.l2.filter (fun k => lineSlice k == lineSlice blk)).length
               then s.ms.l2
             else s.ms.l2 ++ [blk])))

/-! ### Links and dispatch (R48, R86, R281 to R296, R335 to R342, R350, R384 to R388) -/

/-- R48, R281, R283, R286, R288, R290, R293, R294, R296, R300 and R301: a link trains to its width and narrows at a failure; it
accepts and acknowledges the packet in sequence whose CRC agrees and asks for any other again from its own number; a peer's write
reaches memory; an acknowledgement frees what it covers; a replay repeats the stored packets from its number on, and the ninth in
succession retrains the link instead; control packets go out in turn; a window's grant matches the message that it fits, and a
landed packet's credit reaches its message; the packet that a `crecv` awaits lands its element, and with the last one the receive
counter rises by 1; a `cstep` sums its own element and the received one in the order of the ranks, and equal ranks are CE_MATCH;
an exchange of timestamps sets what fleet time still has to slew and changes no fleet time itself; a committed slot table becomes
active. What becomes of a packet that no window awaits is the model's reading (log 47), and so is that acknowledgements and replay
requests carry no number (log 100), and which request is the ninth in succession (log 54). COMPLETES (exec answers next, on
conditions on state and operands alone): `linkTrain`, `laneFailure`, `packetReceive`, `linkReplay`, `linkPacketStart`,
`windowGrant`, `cePacketLand`, `fleetTimeExchange`, `slotTableCommit`. -/
def Obligations.LinkSteps : Prop :=
  ∀ (s : State) (l : LinkId) (w : BitVec 2) (eight ahead crcOk : Bool) (p : Packet) (ar : Arrival) (seq credits upTo : Nat)
    (tag : BitVec 8) (e : Expect) (err pa msg : W64) (bs : List Byte) (c : CtlPacket) (cs : List CtlPacket) (crc : W32),
    let x := s.links[l.val]
    let y := fun (t : State) => t.links[l.val]
    let d := dieOfLink l
    let k := if eight then 2 else 1
    completes (.linkTrain l w) s (fun t => (y t).lanes = w ∧ (y t).training = false ∧ sameMemory s t)
    ∧ completes (.laneFailure l eight) s (fun t => (y t).lanes.toNat = (if x.lanes = 0 then k else min x.lanes.toNat k)
        ∧ t.eventSeq = s.eventSeq + (if x.lanes = 0 then 2 else 1) ∧ sameMemory s t)
    ∧ (x.up = true → crc = Packet.crc p → seq = x.recvSeq → completes (.packetReceive l ⟨seq, .data p, crc⟩ crcOk) s (fun t =>
        (y t).recv = x.recv ++ [p] ∧ (y t).recvSeq = x.recvSeq + 1 ∧ (y t).ctl = x.ctl ++ [.ack (x.recvSeq + 1)] ∧ sameMemory s t))
    ∧ (x.up = true → crcOk = true → seq = x.recvSeq → regionOf pa.toNat = .dram → s.ownerOf pa.toNat = none →
        s.inBarrier pa.toNat = false → s.ceilHolds pa.toNat = false → 1 ≤ bs.length → pa.toNat % 8 + bs.length ≤ 8 →
        completes (.packetReceive l ⟨seq, .write pa bs, crc⟩ crcOk) s (fun t => t.mem = putBytes s.mem pa.toNat bs
          ∧ (∀ b, b < pa.toNat ∨ pa.toNat + bs.length ≤ b → byteAt t.mem b = byteAt s.mem b)
          ∧ (y t).recvSeq = x.recvSeq + 1 ∧ (y t).ctl = x.ctl ++ [.ack (x.recvSeq + 1)]))
    ∧ (x.up = true → crcOk = true → completes (.packetReceive l ⟨seq, .ack upTo, crc⟩ crcOk) s (fun t =>
        (y t).replay = x.replay.filter (fun f => f.fromSeq upTo) ∧ (y t).recvSeq = x.recvSeq ∧ (y t).ctl = x.ctl ∧ sameMemory s t))
    ∧ (let bad : Prop := match ar with
         | .data q => crc ≠ Packet.crc q
         | .write _ _ | .ack _ => crcOk = false
       x.up = true → (bad ∨ (seq ≠ x.recvSeq ∧ ∀ n, ar ≠ .ack n)) → completes (.packetReceive l ⟨seq, ar, crc⟩ crcOk) s (fun t =>
        (y t).recv = x.recv ∧ (y t).recvSeq = x.recvSeq ∧ (y t).ctl = x.ctl ++ [.replay seq] ∧ sameMemory s t))
    ∧ (x.up = true → ¬ (x.fails.1 = seq ∧ 8 ≤ x.fails.2) → completes (.linkReplay l seq) s (fun t => (y t).replay = x.replay
        ∧ (y t).training = false ∧ (y t).out = x.out ++ x.replay.filter (fun f => f.fromSeq seq) ∧ sameMemory s t))
    ∧ (x.up = true → x.fails.1 = seq → 8 ≤ x.fails.2 → completes (.linkReplay l seq) s (fun t => (y t).replay = x.replay
        ∧ (y t).training = true ∧ (y t).out = x.out ∧ sameMemory s t))
    ∧ (x.up = true → s.frozen = false → s.chosen l = none → x.ctl = c :: cs →
        ((∃ n, c = .ack n ∨ c = .replay n) → completes (.linkPacketStart l) s (fun t => (y t).ctl = cs
          ∧ (y t).out = x.out ++ [.bare c] ∧ (y t).sendSeq = x.sendSeq ∧ (y t).replay = x.replay ∧ sameMemory s t))
        ∧ ((∀ n, c ≠ .ack n ∧ c ≠ .replay n) → x.room 1 = true → completes (.linkPacketStart l) s (fun t => (y t).ctl = cs
          ∧ (y t).out = x.out ++ [.ctl x.sendSeq c] ∧ (y t).sendSeq = x.sendSeq + 1
          ∧ (y t).replay = x.replay ++ [.ctl x.sendSeq c] ∧ sameMemory s t)))
    ∧ (∀ k key r m q, x.up = true → s.frozen = false → s.chosen l = some (k, key) → (x.control = none ∨ key.1 = 1) →
        (s.dies[d.val]).ce[k]? = some r → r.cmd.message = some m → r.send = some q →
        exec (.linkPacketStart l) s = .next (s.startPacket l d k r m q))
    ∧ (x.up = true → s.frozen = false → (s.dies[d.val]).ce = [] → completes (.windowGrant l tag (.window e) credits) s (fun t =>
        (∀ g ∈ (y t).grants, g ∈ x.grants ∨ g = ⟨tag, e, credits⟩) ∧ ⟨tag, e, credits⟩ ∈ (y t).grants
          ∧ (y t).recvSeq = x.recvSeq + 1 ∧ sameMemory s t))
    ∧ (∀ (r : CeRun) (m : Msg) (q : Send), x.up = true → s.frozen = false → (s.dies[d.val]).ce = [r] → x.grants = [] →
        ceLink r.cmd.op = some l → ceTag r.cmd.op = tag → r.halted = none → r.cmd.message = some m → r.send = some q →
        q.fired = true → q.matched = false → m.fits e = true → completes (.windowGrant l tag (.window e) credits) s (fun t =>
          (t.dies[d.val]).ce = [{ r with send := some { q with
              matched := true, credits := credits, msg := some x.msg, nth := SMap.get 0 x.matchedN tag.toNat } }]
            ∧ (y t).grants = [] ∧ (y t).msg = x.msg + 1 ∧ sameMemory s t))
    ∧ (x.up = true → s.frozen = false → completes (.windowGrant l tag (.landed msg) credits) s (fun t =>
        (t.dies[d.val]).ce = (s.dies[d.val]).ce.map (fun r => r.credit l tag msg credits) ∧ (y t).recvSeq = x.recvSeq + 1 ∧ sameMemory s t))
    ∧ (s.frozen = false → x.recv = [p] → (s.dies[d.val]).ce = [] → completes (.cePacketLand l) s (fun t =>
        (y t).recv = [] ∧ sameMemory s t))
    ∧ (∀ (r : CeRun) (h : Head) (td : TdIx) (rc : BitVec 6) (i a : Nat) (mt : BitVec 2),
        let D := tdOf r.cmd.d0
        let va := D.ea (D.tuple i)
        let n := D.w / 8
        s.frozen = false → x.recv = [p] → (s.dies[d.val]).ce = [r] → r.cmd.op = .crecv h l p.tag td rc → r.halted = none →
        r.send = none → r.recv = some ⟨p.nth, i, false⟩ → i = p.pkt.toNat * D.perPacket → 1 ≤ n → p.data.length = n →
        (s.routeT (engineTile d) .ce r.cmd.asid va .write false).2 = .to (.pa a mt) → regionOf a = .dram → s.ownerOf a = none →
        s.inBarrier a = false → s.ceilHolds a = false → completes (.cePacketLand l) s (fun t =>
          t.mem = putBytes s.mem a p.data ∧ (y t).recv = [] ∧ (y t).ctl = x.ctl ++ [.credit p.tag p.msg]
            ∧ (t.dies[d.val]).ce = [{ r with recv := some ⟨p.nth, i + 1, decide (D.count ≤ i + 1)⟩ }]
            ∧ ∀ k : Fin 64, (t.dies[d.val]).rc[k] = (s.dies[d.val]).rc[k] + if k = r6 rc ∧ D.count ≤ i + 1 then 1 else 0))
    ∧ (∀ (r : CeRun) (h : Head) (cl : CeClass) (t0 t1 t2 : TdIx) (rc : BitVec 6) (u v : Nat) (srank : W32),
        let D := tdOf r.cmd.d0
        let K := tdOf r.cmd.d1
        r.cmd.op = .cstep h cl l p.tag t0 t1 t2 rc →
        (D.fmtc = 7 → combine r.cmd srank u v = codeOfInt 32 (let z := intOfCode 32 true u + intOfCode 32 true v
            if D.sat then min (max z (-(2 ^ 31))) (2 ^ 31 - 1) else z))
          ∧ (D.fmtc ≠ 7 → combine r.cmd srank u v = cvt (if r.cmd.rank.toNat < srank.toNat
              then rv32 ((valOf K.fmt u).add (valOf K.fmt v)) else rv32 ((valOf K.fmt v).add (valOf K.fmt u))) D.fmt D.round D.sat)
          ∧ (s.frozen = false → x.recv = [p] → (s.dies[d.val]).ce = [r] → r.halted = none → r.recv = some ⟨p.nth, u, false⟩ →
            r.cmd.rank = p.srank → exec (.cePacketLand l) s
              = .next (s.ceFault d 0 r 0x14 0 0 (BitVec.ofNat 64 (l.val + p.tag.toNat * 256)))))
    ∧ (s.fleet.toNat % 16000 = 0 → s.fleetSync.exchanged ≤ s.fleet.toNat / 16000 → completes (.fleetTimeExchange ahead err) s (fun t =>
        t.fleetErr = decide (10 < err.toNat) ∧ t.fleet = s.fleet
          ∧ t.fleetSync.due = (if s.cfg.master then 0 else if ahead then (err.toNat : Int) else -(err.toNat : Int))
          ∧ (x.up = true → (y t).ctl = x.ctl ++ [.time s.fleet, .ack (x.recvSeq + 1)]) ∧ sameMemory s t))
    ∧ (∀ since, x.commit = some since → s.fleet.toNat % 262144 = 0 → s.fleet ≠ since → s.frozen = false →
        completes (.slotTableCommit l) s (fun t => (y t).active = x.shadow ∧ (y t).commit = none ∧ sameMemory s t))

/-- R86, R342: a record on its way enters the ring of its queue, or is held where the queue is full and retried once it has room.
R338, R339: a dispatch round of a die is taken once for each multiple of 64 fabric cycles, and one with nothing to place changes
nothing but its own number; a head that finds a block is popped, HEAD goes up by 1, and every tile of the block is claimed for its
gang at once; one that finds none stays in its queue. R336: a head that is poisoned is popped and fails with no tile claimed. A
push whose ring slot a ceiling holds waits (R390). That die 0's round comes first is the model's reading (log 76). COMPLETES (exec
answers next, on conditions on state and operands alone): `taskQueuePush`, `joinPushRetry`, `dispatchRound`. -/
def Obligations.DispatchSteps : Prop :=
  ∀ (s : State) (d : DieId) (k i : Nat) (p : PushReq) (q : BitVec 12),
    let c := s.qcbOf p.queue
    let slot := qSlot c (fld c 64 32)
    let takes : State → Prop := fun t => fld (t.qcbOf p.queue) 64 32 = (fld c 64 32 + 1) % 2 ^ 32
      ∧ t.mem = putBytes s.mem slot (bytesOfNat 64 p.record.toNat) ∧ ∀ u, t.tile u = s.tile u
    (s.pushes[k]? = some p → s.frozen = false → qRoom c = true → s.pushHeld p.queue = false → s.ownerOf slot = none → completes (.taskQueuePush k) s (fun t => takes t
        ∧ t.pushes = s.pushes.eraseIdx k ∧ t.ms.held = s.ms.held))
    ∧ (s.pushes[k]? = some p → s.frozen = false → qRoom c = false → completes (.taskQueuePush k) s (fun t =>
        t.pushes = s.pushes.eraseIdx k ∧ t.ms.held = s.ms.held ++ [p] ∧ t.qcbOf p.queue = c ∧ sameMemory s t))
    ∧ (s.ms.held.findIdx? (fun y => y.queue == q) = some i → s.ms.held[i]? = some p → p.queue = q → qRoom c = true →
        s.frozen = false → s.pushHeld q = false → s.ownerOf slot = none →
        completes (.joinPushRetry q) s (fun t => takes t ∧ t.ms.held = s.ms.held.eraseIdx i))
    ∧ (s.roundDue d = true → (d = 0 ∨ s.roundDue 0 = false) → exec (.dispatchRound d) s
            = .next ((s.dispatch d).modDie d (fun x => { x with round := s.fabric / 64 + 1 }))
          ∧ (s.contQ = [] → s.queueOrder = [] → s.dispatch d = s))
    ∧ (let qc := s.qcbOf q
        let a := qSlot qc (fld qc 96 32)
        let r : W512 := BitVec.ofNat 512 (natOfBytes (bytesAt s.mem a 64))
        let idle := s.idleTiles d
        let blocks := (blocksOf d (recGang r)).filter (fun b => b.all (fun t => idle.contains t && s.inHome t q))
        let b := s.choice (decide (16 ≤ idle.length)) blocks
        let popped : State → Prop := fun t => fld (t.qcbOf q) 96 32 = (fld qc 96 32 + 1) % 2 ^ 32 ∧ fld (t.qcbOf q) 64 32 = fld qc 64 32
        s.roundDue d = true → (d = 0 ∨ s.roundDue 0 = false) → s.contQ = [] → s.queueOrder = [q] → qOn qc = true → qLen qc = 1 →
          regionOf a = .dram → s.ownerOf a = none →
          (s.poisoned a 64 = true → completes (.dispatchRound d) s (fun t => popped t ∧ t.eventSeq = s.eventSeq + 1
            ∧ (∀ u, t.tile u = s.tile u) ∧ sameMemory s t))
          ∧ (s.poisoned a 64 = false → recBad2 r = false →
            (blocks = [] → completes (.dispatchRound d) s (fun t => t.qcbOf q = qc ∧ t.gangs = s.gangs ∧ (∀ u, t.tile u = s.tile u)
              ∧ sameMemory s t))
            ∧ (blocks ≠ [] → recCv r = false → (s.popQueue q).recCancelled r (SMap.get a s.ms.orig a) = false →
              completes (.dispatchRound d) s (fun t => popped t ∧ sameMemory s t
                ∧ (∀ j u, b[j]? = some u → (t.tile u).st = .claimed ∧ (t.tile u).m.id = ⟨r, BitVec.ofNat 64 a, j, s.nextGang, none⟩)
                ∧ ∀ u, u ∉ b → t.tile u = s.tile u))))

/-- R170, R335, R337 and R367: the launch of a gang of one member puts the launch's member on its tile; in low gear it runs at
once, and in high gear it asks for the launch class first. R388: a restore puts the saved member back; the posts that its slot
held apply, and an outside mailbox write held there lands (R166, R317). R350, R384 and R386: a member whose queues have reached
their markers and whose accesses have landed releases its live ranges line by line, and then completes: its tile is idle with no
grant; a pre-empted member stops at its boundary, and once its accesses have landed it stands in a slot and its tile is idle.
R340: at a rotation, the oldest resident gang of the launch that a waiting record names owes PREEMPT. That a gang loads at its
first launch, that a retired member is pre-empted where it stands, and that a seized member stays stopped on its tile are the
model's readings (logs 64, 62, 70). COMPLETES (exec answers next, on conditions on state and operands alone): `memberLaunch`,
`restore`, `memberComplete`, `preempt`, `rotationQuantum`. -/
def Obligations.MembersComeAndGo : Prop :=
  (∀ (s s1 : State) (t : TileId) (l : LaunchRec) (code : Code) (tbl : List (Fin 8 × Table)) (rows : List W32),
     let x := s.tile t
     let id := x.m.id
     (s.fresh t = true → recCv id.record = false → s.seize.st = .none → s.loadGang t id.record = (s1, .ok l code tbl rows) →
       s1.gangTiles id.gang = [t] → (s1.tile t).m.id = id → completes (.memberLaunch t) s (fun u =>
         let m := launchMember s1.cfg id l code tbl rows
         (recGear id.record = false → (u.tile t).st = .running ∧ (u.tile t).m.f = m.f ∧ (u.tile t).m.su = m.su
             ∧ (u.tile t).m.code = code ∧ (u.tile t).m.id = id)
           ∧ (recGear id.record = true → (u.tile t).m.f = m.f ∧ (u.tile t).m.id.cls = some s1.cfg.launchClass
             ∧ (u.dies[(dieOfTile t).val]).fifo = (s1.dies[(dieOfTile t).val]).fifo ++ [t])))
     ∧ (∀ k sl, s.fresh t = true → recCv id.record = true → s.seize.st = .none →
         s.slots.find? (fun e => e.1 == recCkey id.record + id.index && !e.2.restored) = some (k, sl) →
         (sl.posts = [] → sl.mbs = [] → completes (.restore t) s (fun u => (u.tile t).m.f = sl.img.f ∧ (u.tile t).m.vf = sl.img.vf
           ∧ (u.tile t).m.su.pc = sl.img.su.pc ∧ (u.tile t).m.su.ready = sl.img.ctr.cycle ∧ (u.tile t).m.q = sl.img.q
           ∧ (sl.img.id.cls = none → (u.tile t).st = .running) ∧ sameMemory s u))
         ∧ (∀ w, (∀ p ∈ sl.posts, isLocal p.1 = false) → sl.mbs = [w] → w.fleet = false → sl.img.rel = [] →
           (sl.img.ctl .opreq).getLsbD 15 = false → completes (.restore t) s (fun u =>
             (u.tile t).m.f = (sl.img.outside w.mb w.val).f ∧ sameMemory s u
             ∧ (u.tile t).m.sems.val = (sl.posts.foldl (fun (m : Member) p => m.post p.1 p.2.1 p.2.2) sl.img).sems.val))))
  ∧ (∀ (s : State) (t : TileId) (r : W512),
       let x := s.tile t
       let m := x.m
       let qc := s.qcbOf (recQueue m.id.record)
       let stops : Prop := x.st = .running ∧ x.gated = false ∧ x.dbg.hst = .running ∧ m.rep.preempt = true
         ∧ (m.su.wait.boundary = true ∨ m.su.wait = .retired)
       (∀ s1, x.suLive = true → s.allDone t = true →
         (s.releaseRanges t = .step s1 → exec (.memberComplete t) s = .next s1)
         ∧ (s.releaseRanges t = .done s1 → s1.endHeld t = false → completes (.memberComplete t) s (fun u =>
           (u.tile t).st = .idle ∧ (u.tile t).grant = none)))
       ∧ (stops → s.seize.st ≠ .none → completes (.preempt t) s (fun u => (u.tile t).st = .stopped ∧ (u.tile t).m.f = m.f
           ∧ (u.tile t).m.su.pc = m.su.pc ∧ sameMemory s u))
       ∧ (stops → s.seize.st = .none → s.landed t = true →
         (∀ k, s.saveHeld m k [] = false ∧ s.saveHeld m k [qSlot qc (fld qc 64 32)] = false) →
         completes (.preempt t) s (fun u => (u.tile t).st = .idle
           ∧ (u.tile t).grant = none ∧ ∃ e ∈ u.slots, e.2.from_ = t ∧ e.2.restored = false ∧ e.2.img.f = m.f
             ∧ e.2.img.su.pc = m.su.pc))
       ∧ (let sr : State := { s with fleetSync := { s.fleetSync with rotated := s.fleet.toNat / 2000000 + 1 } }
          s.fleet.toNat % 2000000 = 0 → s.fleetSync.rotated ≤ s.fleet.toNat / 2000000 → s.seize.st = .none →
           sr.waitingHeads.filter (fun y => sr.rotates y) = [r] → ∀ g, s.gangs = [g] →
           recLevel g.record 0 = recLevel r 0 → recJob g.record = recJob r → g.since.toNat + 2000000 ≤ s.fleet.toNat →
           s.gangTiles g.id = [t] → x.st = .running → completes (.rotationQuantum) s (fun u =>
             (u.tile t).m.rep.preempt = true ∧ (u.tile t).m.f = m.f ∧ sameMemory s u)))

/-! ### Power, host and service steps (R79, R82, R90, R360 to R378, R389 to R410) -/

/-- R378, R375, R360, R371, R372: an expired period makes a timer report; a sample latches the counts of its interval; a gate ends
unless a re-plan holds it; a step of the regulator is 10 mV, and at the end of a settle the clock stands at its new point. When a
point shows during a settle and when a gate ends are the model's choices (logs 30, 77). COMPLETES (exec answers next, on
conditions on state and operands alone): `timer`, `sample`, `clockResume`, `rampVoltageStep`, `rampSettleEnd`. -/
def Obligations.TileTimeSteps : Prop :=
  ∀ (s : State) (t : TileId) (p : Nat),
    let x := s.tile t
    let n := fun (u : State) => u.tile t
    let bare := fun (z : Sems) => { z with sat := [] }
    (s.cfg.timerPeriod ≠ 0 → x.st = .running → x.timed < s.fleet.toNat / s.cfg.timerPeriod → completes (.timer t) s (fun u =>
        (n u).m.rep.timer = true ∧ (n u).timed = s.fleet.toNat / s.cfg.timerPeriod ∧ (n u).m.f = x.m.f ∧ sameMemory s u))
    ∧ (s.owesSample t = true → completes (.sample t) s (fun u =>
        let c := (n u).m.ctr
        c.smpSeq = x.m.ctr.smpSeq + 1 ∧ c.smpIssue = smpWord x.smp.1 x.smp.2.1 ∧ c.smpMem = smpWord x.smp.1 x.smp.2.2.1
          ∧ c.smpBusy = smpWord x.smp.1 x.smp.2.2.2 ∧ (n u).smp = (0, 0, 0, 0) ∧ (n u).sampled = s.fleet.toNat / 10000
          ∧ (n u).m.f = x.m.f ∧ sameMemory s u ∧ bare (n u).m.sems = if (x.m.ctl .gear).getLsbD 15 = true then
            bare (x.m.post (BitVec.ofNat 8 (192 + fld (x.m.ctl .gear) 8 6)) 1 ⟨7, BitVec.ofNat 7 t.val, 0⟩).sems else bare x.m.sems))
    ∧ (x.gated = true → (x.isl.held = false ∨ x.fast = false) → completes (.clockResume t) s (fun u =>
        (n u).gated = false ∧ (n u).m = x.m ∧ (n u).fast = x.fast ∧ sameMemory s u))
    ∧ (x.isl.reg = .stepUp → x.isl.until_.toNat ≤ s.fleet.toNat → completes (.rampVoltageStep t) s (fun u =>
        (n u).isl = { x.isl with mv := x.isl.mv + 10 }.pass s.fleet ∧ (n u).m = x.m ∧ sameMemory s u))
    ∧ (x.isl.reg = .stepDown → x.isl.until_.toNat ≤ s.fleet.toNat → completes (.rampVoltageStep t) s (fun u =>
        (n u).isl = { x.isl with mv := x.isl.mv - 10 }.pass s.fleet ∧ (n u).m = x.m ∧ sameMemory s u))
    ∧ (x.isl.reg = .settle p → x.isl.until_.toNat ≤ s.fleet.toNat → completes (.rampSettleEnd t) s (fun u =>
        (n u).isl = { x.isl with point := p, reg := .idle, armed := if p = x.isl.target then none else x.isl.armed }.pass s.fleet
          ∧ (n u).m.f = x.m.f ∧ sameMemory s u ∧ (x.fast = true → (n u).gated = true)
          ∧ ∀ k, x.isl.armed = some k → p = x.isl.target → x.replays = false →
            bare (n u).m.sems = bare (x.m.post (BitVec.ofNat 8 (192 + k.toNat)) 1 ⟨9, BitVec.ofNat 7 t.val, 0⟩).sems))

/-- R364, R365, R367: the head of the arbiter's queue is granted its class where the free units cover it, or would with the grants
of sunk tiles; else it waits. R377: a re-plan gives an island its next curve, or a die its next low rail, and logs one event. R79:
a shelf's limits are logged at each step in or out. R409 and R90: a scrub changes no byte, an uncorrected error poisons, and power
lost keeps the recorder alone of what the package held. R407: a reset leaves every tile idle, and the package is valid where both
signatures are and no image's version lies below the one stored. R410: each step of a shelf's limits, on entry and on exit, logs
one THERMAL. What an uncorrected SRAM error hits, what a new image changes and whether DRAM survives a reset are the model's
choices (logs 15, 67, 71, 117); so are the steps of the low rail at RAMP_VOLTAGE_STEP of a tile of the die (log 75) and DRAM that
reads as blank after a loss of power (log 5). COMPLETES (exec answers next, on conditions on state and operands alone):
`arbiterGrant`, `replan`, `thermal`, `sramScrubPass`, `uncorrectedError`, `packageReset`, `lossOfPower`, `rampVoltageStep`. -/
def Obligations.ArbiterAndPackage : Prop :=
  ∀ (s : State) (d : DieId) (t : TileId) (ts : List TileId) (c : BitVec 3) (curve : BitVec 128) (mv : Nat) (stack : Fin 8)
    (level : BitVec 2) (fixed : Option ErrSite) (b : Nat) (w : Nat) (tfail : BitVec 128) (ok : Bool),
    let free := s.cfg.budget - s.unitsHeld d
    let sunk := ((List.finRange 128).filter (fun u => dieOfTile u == d && (s.tile u).sunk)).foldl (fun a u => a + (s.tile u).units) 0
    let waits : Prop := (s.dies[d.val]).fifo = t :: ts ∧ (s.tile t).asks = some c ∧ ((s.tile t).st = .claimed → s.seize.st = .none)
    let granted : State → Prop := fun u => (u.tile t).grant = some c ∧ (u.dies[d.val]).fifo = ts ∧ sameMemory s u
        ∧ ((s.tile t).st = .claimed → (u.tile t).st = .running)
        ∧ ((s.tile t).st ≠ .claimed → (u.tile t).m.su.pc = (s.tile t).m.su.pc + 4 ∧ (u.tile t).m.su.wait = .no)
    let low := s.dies[d.val]
    (waits → classCost c ≤ free → completes (.arbiterGrant d) s (fun u => granted u
        ∧ ∀ v, v ≠ t → (u.tile v).grant = (s.tile v).grant))
    ∧ (waits → free < classCost c → classCost c ≤ free + sunk → completes (.arbiterGrant d) s (fun u => granted u
        ∧ ∀ v, v ≠ t → (s.tile v).sunk = false → (u.tile v).grant = (s.tile v).grant))
    ∧ (waits → free + sunk < classCost c → exec (.arbiterGrant d) s = .next s)
    ∧ (curveOk curve = true → completes (.replan (.island t curve)) s (fun u => u.eventSeq = s.eventSeq + 1
        ∧ (((u.tile t).isl.nextCurve.isSome = true) ∨ (u.tile t).isl.curve.setWidth 70 = curve.setWidth 70) ∧ sameMemory s u))
    ∧ (420 ≤ mv → mv ≤ 520 → completes (.replan (.low d mv)) s (fun u => (u.dies[d.val]).lowTarget = mv
        ∧ u.eventSeq = s.eventSeq + 1 ∧ (∀ v, u.tile v = s.tile v) ∧ sameMemory s u))
    ∧ completes (.thermal stack level) s (fun u => (u.shelves[stack.val]).hot = decide (1 ≤ level.toNat)
        ∧ (u.shelves[stack.val]).capped = decide (2 ≤ level.toNat) ∧ (∀ v, u.tile v = s.tile v) ∧ sameMemory s u
        ∧ (let hot := decide ((s.shelves[stack.val]).hot ≠ decide (1 ≤ level.toNat))
          let capped := decide ((s.shelves[stack.val]).capped ≠ decide (2 ≤ level.toNat))
          let e := fun (j : Nat) => SMap.get (⟨0, 0, 0, 0, 0⟩ : Event) u.events ((s.eventSeq.toNat + j) % 2 ^ 32 % 4096)
          u.eventSeq = s.eventSeq + BitVec.ofNat 32 (hot.toNat + capped.toNat)
            ∧ (hot = true → e 0 = ⟨evData 0 (stack.val + (decide (1 ≤ level.toNat)).toNat * 256), 0x03, srcShelf stack.val,
              s.eventSeq, s.fleet⟩)
            ∧ (capped = true → e hot.toNat = ⟨evData 0 (stack.val + (decide (2 ≤ level.toNat)).toNat * 256 + 512), 0x03,
              srcShelf stack.val, s.eventSeq + BitVec.ofNat 32 hot.toNat, s.fleet⟩)))
    ∧ completes (.sramScrubPass fixed) s (fun u => (∀ v, u.tile v = s.tile v) ∧ sameMemory s u
        ∧ u.eventSeq = if fixed.isSome = true then s.eventSeq + 1 else s.eventSeq)
    ∧ (regionOf (b * 64) = .dram → completes (.uncorrectedError (.dram b)) s (fun u => u.ms.poison.contains b = true
        ∧ (∀ v, u.tile v = s.tile v) ∧ sameMemory s u))
    ∧ (w < 524288 → completes (.uncorrectedError (.stash t w)) s (fun u => (u.tile t).m.stash.bad.contains w = true
        ∧ (u.tile t).m.f = (s.tile t).m.f ∧ sameMemory s u))
    ∧ (s.ms.l2.contains (w / 8) = true → completes (.uncorrectedError (.l2 w)) s (fun u => u.ms.bad.contains w = true
        ∧ (∀ v, u.tile v = s.tile v) ∧ sameMemory s u))
    ∧ completes (.uncorrectedError (.opcache t)) s (fun u => (u.tile t).oc = [] ∧ (u.tile t).m = (s.tile t).m ∧ sameMemory s u)
    ∧ completes (.uncorrectedError (.sram t w)) s (fun u => (u.tile t).m.f = (s.tile t).m.f ∧ sameMemory s u)
    ∧ completes (.packageReset tfail ok) s (fun u => (∀ v, (u.tile v).st = .idle) ∧ u.powered = true ∧ u.fw.fwMin = s.fw.fwMin
        ∧ u.fw.cfgMin = s.fw.cfgMin ∧ u.fw.valid = (ok && decide (s.fw.fwMin.toNat ≤ u.fw.fwver.toNat)
          && decide (s.fw.cfgMin.toNat ≤ u.fw.cfgver.toNat)) ∧ u.seize.st = .none ∧ (∀ k : Fin 128, tfail.getLsbD k.val = true → u.tfail.getLsbD k.val = true)
        ∧ ∀ a, regionOf a ≠ .dram → byteAt u.mem a = byteAt s.mem a)
    ∧ completes (.lossOfPower) s (fun u => u.powered = false ∧ u.events = s.events ∧ u.eventsMirror = s.eventsMirror
        ∧ u.mirror = s.mirror ∧ (∀ a, regionOf a = .dram → byteAt u.mem a = blankByte)
        ∧ ∀ a, regionOf a ≠ .dram → byteAt u.mem a = byteAt s.mem a)
    ∧ (low.lowMv < low.lowTarget → low.lowUntil.toNat ≤ s.fleet.toNat → (s.tile t).isl.reg = .idle → dieOfTile t = d →
        completes (.rampVoltageStep t) s (fun u => (u.dies[d.val]).lowMv = min (low.lowMv + 10) low.lowTarget
          ∧ (∀ v, u.tile v = s.tile v) ∧ sameMemory s u))

/-- R402 and R404: a port trains to x16 or x8 or goes down, and a port that goes down frees its locks; a lock is taken by reading
it and freed by writing 0. R403: the aperture reads and writes the memory points, and an access to a reserved address aborts; the
register window gives back the message registers, the status of a message (R405) and a tile's debug control word (R394). R10, R82
and R403: a register write stores its fields under its lock, and without it changes nothing but the recorder. The place of a level
entry is the model's reading (log 24). COMPLETES (exec answers next, on conditions on state and operands alone): `hostPortTrain`,
`hlockRead`, `hlockWrite`, `hostApertureAccess`, `registerWrite`. -/
def Obligations.HostPortSteps : Prop :=
  ∀ (s : State) (p : PortId) (lanes : BitVec 5) (n : BitVec 5) (v : W64) (off : Nat) (bs : List Byte) (q : BitVec 12) (o : BitVec 8)
    (d : BitVec 3) (l : LinkId) (e : BitVec 10) (lev : Level) (id : BitVec 16) (t : TileId),
    let x := s.ports[p.val]
    let y := fun (u : State) => u.ports[p.val]
    let up : Prop := s.portUp p = true ∧ s.fw.valid = true
    let reads := fun (o : Nat) (v : Nat) => completes (.hostApertureAccess p (.bar0 o)) s (fun u =>
      (y u).out = x.out ++ [bytesOfNat 8 v] ∧ (y u).abort = false ∧ (∀ w, u.tile w = s.tile w) ∧ sameMemory s u)
    let g := (s.tile t).dbg
    let i := lockNo n
    let pa := x.apbase.toNat + off
    let qc := setFld (s.qcbOf q) (64 * d.toNat) 64 v.toNat &&& qcbFields
    let pc := setFld (s.pcbOf o) (64 * d.toNat) 64 v.toNat &&& pcbFields
    let se : BitVec 16 := v.setWidth 16 &&& 0x80FF
    let word : Prop := pa % 8 = 0 ∧ off + 8 ≤ 2 ^ 36 ∧ regionOf pa = .dram ∧ s.ownerOf pa = none
    (lanes.toNat = 16 ∨ lanes.toNat = 8 ∨ lanes.toNat = 0 → completes (.hostPortTrain p lanes) s (fun u =>
        (y u).lanes = lanes.toNat ∧ (lanes = 0 → (y u).busy = false) ∧ sameMemory s u
          ∧ ∀ j : Fin 32, u.hlock[j.val] = if lanes = 0 ∧ x.lanes ≠ 0 ∧ s.hlock[j.val] = some p then none else s.hlock[j.val]))
    ∧ (s.portUp p = true → s.lockOpen i = true → completes (.hlockRead p n) s (fun u => sameMemory s u ∧ (y u).abort = false
        ∧ if s.hlock[i.val] = none ∨ s.hlock[i.val] = some p then u.hlock[i.val] = some p ∧ (y u).out = x.out ++ [bytesOfNat 8 1]
          else u.hlock = s.hlock ∧ (y u).out = x.out ++ [bytesOfNat 8 0]))
    ∧ (s.portUp p = true → s.lockOpen i = true → completes (.hlockWrite p n v) s (fun u => sameMemory s u ∧ if s.hlock[i.val] = some p ∧ v = 0
        then u.hlock[i.val] = none else u = s))
    ∧ (up → reads 0x2000 x.msga.toNat ∧ reads 0x2008 x.msgb.toNat ∧ reads 0x2018 (x.status.toNat + if x.busy then 2 ^ 63 else 0)
        ∧ reads (0x800000 + t.val * 0x10000) (g.dm.toNat + 2 * g.recording.toNat + 4 * g.hreq.toNat + 64 * (match g.hst with
          | .running => 0 | .liveHead => 1 | .replayHalt => 2 | .replaying => 3)))
    ∧ (up → x.wr = [] → off + 8 ≤ 2 ^ 36 → touches Region.isReserved pa 8 = true → completes (.hostApertureAccess p (.read off 8)) s (fun u =>
        (y u).abort = true ∧ u.eventSeq = s.eventSeq + 1 ∧ sameMemory s u))
    ∧ (up → word → x.wr = [] → touches Region.isReserved pa 8 = false → s.poisoned pa 8 = false →
        completes (.hostApertureAccess p (.read off 8)) s (fun u =>
          (y u).out = x.out ++ [bytesAt s.mem pa 8] ∧ (y u).abort = false ∧ sameMemory s u))
    ∧ (up → word → x.wr = [] → touches Region.isReserved pa 8 = false → touches Region.isShelf pa 8 = false → bs.length = 8 →
        s.inBarrier pa = false → s.ceilHolds pa = false → completes (.hostApertureAccess p (.write off bs)) s (fun u =>
          u.mem = putBytes s.mem pa bs ∧ ∀ a, a < pa ∨ pa + 8 ≤ a → byteAt u.mem a = byteAt s.mem a))
    ∧ (up → completes (.registerWrite p .msga v) s (fun u => (y u).msga = v ∧ (y u).msgb = x.msgb ∧ sameMemory s u)
        ∧ completes (.registerWrite p .msgb v) s (fun u => (y u).msgb = v ∧ (y u).msga = x.msga ∧ sameMemory s u)
        ∧ completes (.registerWrite p .apbase v) s (fun u => (y u).apbase = v &&& ~~~0xFFFFFFFFF#64 ∧ sameMemory s u))
    ∧ (s.portUp p = true → off + 8 ≤ 0x100000 → s.holds p 0 = true → completes (.registerWrite p (.upload off) v) s (fun u =>
        u.upload = putBytes s.upload off (bytesOfNat 8 v.toNat) ∧ sameMemory s u))
    ∧ (s.portUp p = true → off + 8 ≤ 0x100000 → s.holds p 0 = false → completes (.registerWrite p (.upload off) v) s (fun u =>
        u.upload = s.upload ∧ u.eventSeq = s.eventSeq + 1 ∧ sameMemory s u))
    ∧ (up → s.holds p 1 = false → completes (.registerWrite p (.queueCb q d) v) s (fun u => u.ms = s.ms
        ∧ u.eventSeq = s.eventSeq + 1 ∧ sameMemory s u))
    ∧ (up → s.holds p 1 = true → (SMap.wf 0 s.ms.qcb = true ∨ qc ≠ 0) → completes (.registerWrite p (.queueCb q d) v) s
        (fun u => u.qcbOf q = qc ∧ u.ms.pcb = s.ms.pcb ∧ sameMemory s u))
    ∧ (up → s.holds p 1 = true → (SMap.wf 0 s.ms.pcb = true ∨ pc ≠ 0) → completes (.registerWrite p (.poolCb o d) v) s
        (fun u => u.pcbOf o = pc ∧ u.ms.qcb = s.ms.qcb ∧ sameMemory s u))
    ∧ (up → s.holds p 2 = true → (SMap.wf 0 (s.links[l.val]).shadow = true ∨ se ≠ 0) → completes (.registerWrite p (.slot l e) v) s (fun u =>
        SMap.get 0 (u.links[l.val]).shadow e.toNat = se ∧ (u.links[l.val]).active = (s.links[l.val]).active
          ∧ sameMemory s u))
    ∧ (up → s.ceilHolds (s.levelAddr (levelIx lev) id.toNat) = false → s.ownerOf (s.levelAddr (levelIx lev) id.toNat) = none →
        completes (.registerWrite p (.levelCfg lev id) v) s (fun u => u.mem = putBytes s.mem (s.levelAddr (levelIx lev) id.toNat)
        (bytesOfNat 32 (setFld (s.levelEntry (levelIx lev) id.toNat) 112 16 v.toNat).toNat) ∧ ∀ w, u.tile w = s.tile w))

/-- R405, R406, R317, R166, R378, R408: a message with legal fields has its effect and ends with status 0 and vector 1; POST and
MAIL and INTR reach the member of their job and answer 2 where there is none; bad fields answer 3; LINKOWN needs its lock; SUBMIT
answers whether its queue took the record, and a record that a cancel reached is finished (R349); ATTEST writes its report. R392
and R393: SEIZE makes every running member owe PREEMPT, and RESUME is refused unless the package is frozen. The order of the
checks of a message is the model's reading (log 69). COMPLETES (exec answers next, on conditions on state and operands alone):
`post`, `mail`, `intr`, `linkown`, `seize`, `resume`, `submit`, `attest`. -/
def Obligations.HostMessages : Prop :=
  ∀ (s s1 : State) (p : PortId) (bs : List Byte),
    let x := s.ports[p.val]
    let y := fun (u : State) => u.ports[p.val]
    let a := x.msga
    let b := x.msgb
    let t := tileNo (fld a 0 7)
    let m := (s.tile t).m
    let n := fun (u : State) => (u.tile t).m
    let ready : Prop := s.portUp p = true ∧ x.busy = false ∧ s.fw.valid = true ∧ x.wr = []
    let bare := fun (z : Sems) => { z with sat := [] }
    let answers := fun (u : State) (k : BitVec 4) => (y u).status = k ∧ (y u).busy = false ∧ (y u).vec1 = x.vec1 + 1
    let sem : BitVec 8 := a.extractLsb' 8 8
    let resident : Prop := s.holdsJob t (a.extractLsb' 16 12) = true
    let gone : Prop := s.holdsJob t (a.extractLsb' 16 12) = false
    let live : Prop := (s.tile t).replays = false
    let with_ := fun (ty : W64) =>
      (s.modPort p (fun z => { z with msgdb := ty, busy := true, work := some (ty, a, b) })).messageTurn p
    let r : W512 := setFld (BitVec.ofNat 512 (natOfBytes bs)) 457 1 1
    (ready → onlyBits a 0x00FFFFFF0FFFFF7F = true → b = 0 → isLocal sem = false → resident → live → completes (.post p) s (fun u =>
        answers u 0 ∧ bare (n u).sems = bare (m.post sem (fld a 32 24) ⟨6, BitVec.ofNat 7 p.val, 0⟩).sems ∧ (n u).f = m.f ∧ sameMemory s u))
    ∧ (ready → onlyBits a 0x00FFFFFF0FFFFF7F = true → b = 0 → isLocal sem = false → gone → completes (.post p) s (fun u =>
        answers u 2 ∧ (∀ w, u.tile w = s.tile w) ∧ sameMemory s u))
    ∧ (ready → (onlyBits a 0x00FFFFFF0FFFFF7F = false ∨ b ≠ 0 ∨ isLocal sem = true) → completes (.post p) s (fun u =>
        answers u 3 ∧ (∀ w, u.tile w = s.tile w) ∧ sameMemory s u))
    ∧ (ready → onlyBits a 0x0FFF0F7F = true → resident → live → completes (.mail p) s (fun u => answers u 0
        ∧ (n u).mbq = m.mbq ++ [⟨a.extractLsb' 8 4, b, false, p.val, m.su.nextId⟩] ∧ (n u).f = m.f ∧ sameMemory s u))
    ∧ (ready → onlyBits a 0x0FFF0F7F = true → gone → completes (.mail p) s (fun u => answers u 2 ∧ ∀ w, u.tile w = s.tile w))
    ∧ (ready → onlyBits a 0x0FFF007F = true → resident → live → completes (.intr p) s (fun u => answers u 0
        ∧ (n u).rep.hostMsg = m.rep.hostMsg ++ [b] ∧ (n u).f = m.f ∧ sameMemory s u))
    ∧ (ready → onlyBits a 0x0FFF007F = true → gone → completes (.intr p) s (fun u => answers u 2 ∧ ∀ w, u.tile w = s.tile w))
    ∧ (ready → onlyBits a 0xFFF = true → b.toNat % 64 = 0 → touches Region.isReserved b.toNat 64 = false →
        (with_ 6).hostReads (paPieces 65 b.toNat 64) = (s1, .ok bs) →
        (recSpawnCheck (BitVec.ofNat 512 (natOfBytes bs)) true ≠ none → exec (.submit p) s = .next (s1.msgDone p 3))
          ∧ (recSpawnCheck (BitVec.ofNat 512 (natOfBytes bs)) true = none → s1.recCancelled r b.toNat = false →
            s1.submitHeld (a.extractLsb' 0 12) r [] = false → ∀ u,
            ((s1.countRec r).pushQueue (a.extractLsb' 0 12) r b.toNat true = (u, true) → exec (.submit p) s = .next (u.msgDone p 0))
              ∧ ((s1.countRec r).pushQueue (a.extractLsb' 0 12) r b.toNat true = (u, false) →
                exec (.submit p) s = .next ((u.uncountRec r).msgDone p 4)))
          ∧ (recSpawnCheck (BitVec.ofNat 512 (natOfBytes bs)) true = none → s1.recCancelled r b.toNat = true →
            s1.finishHeld r b.toNat = false →
            exec (.submit p) s = .next (((s1.countRec r).finishWhole r b.toNat).msgDone p 0)))
    ∧ (ready → a = 0 → touches Region.isReserved b.toNat 512 = false →
        (with_ 7).hostReads (paPieces 33 b.toNat 32) = (s1, .ok bs) → ∀ s2 ls u, s1.residentLaunches = (s2, some ls) →
        s2.hostWrites p (bytePieces b.toNat (s2.report bs ls)) = (u, true) → exec (.attest p) s = .next (u.msgDone p 0))
    ∧ (ready → onlyBits a 0x0FFF001F = true → b = 0 → fld a 0 5 ≤ 17 → completes (.linkown p) s (fun u => sameMemory s u
        ∧ if s.holds p 2 = true then answers u 0 ∧ (u.links[(linkOf (a.extractLsb' 0 5)).val]).owner = a.extractLsb' 16 12
          else answers u 1 ∧ u.links = s.links))
    ∧ (ready → a = 0 → b = 0 → s.seize.st = .none → completes (.seize p) s (fun u => u.seize.st = .stopping
        ∧ u.seize.t0 = s.fleet ∧ (y u).busy = true ∧ sameMemory s u
        ∧ ∀ w, (s.tile w).st = .running → (u.tile w).m.rep.preempt = true ∧ (u.tile w).m.f = (s.tile w).m.f))
    ∧ (ready → a = 0 → b = 0 → s.seize.st = .done → completes (.resume p) s (fun u => u.seize.st = .none ∧ answers u 0
        ∧ u.ms.sbit = [] ∧ u.ms.tbit = [] ∧ ∀ d : DieId, (u.dies[d.val]).heldCredits = 0))
    ∧ (ready → a = 0 → b = 0 → s.seize.st ≠ .done → completes (.resume p) s (fun u => u.seize = s.seize ∧ answers u 4
        ∧ sameMemory s u))

/-- R389, R390, R392, R393, R367: a shadow copy makes the mirror's granule, at MIRROR and its address, that of memory and clears
its S bit; a freeze records the accesses that are outstanding after 15 us, takes the package image once every member has stopped,
with each grant returned and its class kept, writes the images of the stopped members to the mirror of their slots: each dirty
line of a stash stands at MIRROR and the address of its place in the slot (R385), while the bytes of the other dirty parts, whose
layout the spec leaves open, are free (log 66). Then the granules that remain are written, and the lines stand in the mirror
still. It is done when none remains. The stages one by one and the count of bytes are the model's own (log 70). COMPLETES (exec
answers next, on conditions on state and operands alone): `granuleShadowCopy`, `seizeAccessRecord`, `seizeWrite`, `seizeDone`. -/
def Obligations.FreezeSteps : Prop :=
  ∀ (s : State) (g : Nat) (gs : List Nat),
    let dst := s.cfg.mirror + g * 65536
    let copied : State → Prop := fun u => (∀ i, i < 65536 → byteAt u.mirror (dst + i) = byteAt s.mem (g * 65536 + i))
        ∧ (∀ a, a < dst ∨ dst + 65536 ≤ a → byteAt u.mirror a = byteAt s.mirror a) ∧ u.ms.sbit = gs ∧ sameMemory s u
    let line := fun (u : State) (e : TileId × Stash × Nat) (l : Nat) => u.cfg.mirror + u.slotByte (u.slotOf e.1) (256 * l)
    let part := fun (u : State) (e : TileId × Stash × Nat) (k : Nat) => u.cfg.mirror + u.slotGranule (u.slotOf e.1) k
    let imgs := fun (u : State) => u.seize.imgs.getD []
    let imaged : State → Nat → Prop := fun u a => ∃ e ∈ imgs u,
      (∃ l ∈ e.2.1.dirtyLines, line u e l ≤ a ∧ a < line u e l + 256)
        ∨ ∃ k ∈ (u.tile e.1).m.partGranules, part u e k ≤ a ∧ a < part u e k + 65536
    let apart : State → Prop := fun u => ((imgs u).map (fun e => u.slotOf e.1)).Nodup ∧ ∀ e ∈ imgs u, ∀ l ∈ e.2.1.dirtyLines, l < 16384
    let written : State → Prop := fun u => ∀ e ∈ imgs u, ∀ l ∈ e.2.1.dirtyLines, ∀ i, i < 256 →
      byteAt u.mirror (line u e l + i) = byteAt e.2.1.bytes (256 * l + i)
    (s.ms.sbit = g :: gs → s.anyPort = true → (s.seize.st = .none ∨ s.seize.st = .stopping) →
      completes (.granuleShadowCopy g) s copied)
    ∧ (s.seize.st = .stopping → s.seize.accs = none → s.seize.t0.toNat + 15000 ≤ s.fleet.toNat →
        completes (.seizeAccessRecord) s (fun u => u.seize.accs.isSome = true ∧ u.seize.st = .stopping
          ∧ (∀ t, (u.tile t).m.f = (s.tile t).m.f ∧ (u.tile t).m.su.stores = (s.tile t).m.su.stores
            ∧ ((s.tile t).st = .stopped → (u.tile t).m.su.record = (s.tile t).m.su.nextId)
            ∧ ((s.tile t).st ≠ .stopped → u.tile t = s.tile t)) ∧ sameMemory s u))
    ∧ (s.seize.st = .stopping → s.allStopped = true → completes (.seizeWrite) s (fun u => u.seize.pimg = some s.pkgImage
        ∧ u.seize.st = (if s.anyPort = true then .writing else .holding)
        ∧ (∀ t, (u.tile t).m.f = (s.tile t).m.f ∧ ((s.tile t).st ≠ .stopped → u.tile t = s.tile t)
          ∧ ((s.tile t).st = .stopped → (u.tile t).grant = none ∧ (u.tile t).m.id.cls = (s.tile t).grant)) ∧ sameMemory s u))
    ∧ (s.memOk = true → s.seize.st = .writing → s.seize.imgs = none → completes (.seizeWrite) s (fun u =>
        (∃ k, u.seize.imgs = some (s.stoppedTiles.map (fun t => (t, (s.tile t).m.stash, k + 128 * t.val))))
          ∧ (apart u → written u) ∧ (∀ a, ¬ imaged u a → byteAt u.mirror a = byteAt s.mirror a)
          ∧ u.ms = s.ms ∧ (∀ t, u.tile t = s.tile t) ∧ sameMemory s u))
    ∧ (∀ xs, s.memOk = true → s.seize.st = .writing → s.seize.imgs = some xs → s.ms.sbit = g :: gs → completes (.seizeWrite) s (fun u =>
        (∀ i, i < 65536 → ¬ imaged s (dst + i) → byteAt u.mirror (dst + i) = byteAt s.mem (g * 65536 + i))
          ∧ (apart s → written u)
          ∧ (∀ a, (a < dst ∨ dst + 65536 ≤ a) → ¬ imaged s a → byteAt u.mirror a = byteAt s.mirror a)
          ∧ (xs = [] → copied u) ∧ u.ms.sbit = gs ∧ u.seize.bytes = s.seize.bytes + 65536 ∧ sameMemory s u))
    ∧ (s.seize.st = .writing → s.seize.imgs.isSome = true → s.ms.sbit = [] → completes (.seizeDone) s (fun u => u.seize.st = .done
        ∧ u.eventSeq = s.eventSeq + 1 ∧ sameMemory s u
        ∧ ∀ q : PortId, (s.ports[q.val]).busy = true → (s.ports[q.val]).work = none → (u.ports[q.val]).busy = false))

/-- R394 to R400, R129, R175: under the tile's lock, a halt request sets HREQ and clearing it lets the member run; debug mode and
recording change at the next boundary, and in a replay every write is refused with REPLAY; at the live head the debugger writes
one face of one register, whose reserved bits stay 0 (R10); a stop below the head waits until the head's accesses have landed; a
stop ahead of the live member halts it first; a stop at a recorded count sets the live head aside and replays, and the replay
halts at the state recorded for that count; a step back or forward is a stop at the count before or after. R395: a proof is taken
at the boundary that owes one: proof 0, or that of a multiple of 2^20. Without the lock only the recorder changes. That every
debug step needs the lock and that a replay returns to a recorded state are the model's readings (logs 73, 74), and so is the step
back from RETIRED 0, refused with NOPROOF (log 116). COMPLETES (exec answers next, on conditions on state and operands alone):
`debugHaltRequest`, `debugModeSet`, `debugRecordSet`, `debugRegisterWrite`, `debugStop`, `debugForwardStep`, `proofTake`,
`debugReverseStep`. -/
def Obligations.DebugSteps : Prop :=
  ∀ (s : State) (p : PortId) (t : TileId) (on hidden : Bool) (r : DbgReg) (v : W4096) (n : W64) (e : W64 × Member),
    let x := s.tile t
    let y := fun (u : State) => u.tile t
    let open_ : Prop := s.portUp p = true ∧ s.fw.valid = true ∧ s.holds p (debugLock t) = true
    let shut : Prop := s.portUp p = true ∧ s.fw.valid = true ∧ s.holds p (debugLock t) = false
    let denied := fun (i : Instr) => completes i s (fun u => (∀ w, u.tile w = s.tile w) ∧ u.eventSeq = s.eventSeq + 1 ∧ sameMemory s u)
    let writes : Prop := x.dbg.hst = .running ∨ x.dbg.hst = .liveHead
    let w := match r with | .ctl c => v &&& (ctlMask c).setWidth 4096 | .td _ => v &&& tdMask.setWidth 4096 | _ => v
    let steps := fun (i : Instr) (k : W64) => s.landed t = true → k.toNat < x.m.ctr.retired.toNat → x.dbg.trace.noProof k = false →
        x.dbg.trace.hist.find? (fun h => h.1 == k) = some e →
        completes i s (fun u => (y u).dbg.hst = .replaying ∧ (y u).dbg.goal = some k ∧ (y u).dbg.trace = x.dbg.trace ∧ sameMemory s u
          ∧ ∃ z, u.slots.find? (fun h => h.1 == replaySlot t) = some (replaySlot t, z) ∧ z.img.f = x.m.f ∧ z.img.su = x.m.su)
    (open_ → completes (.debugHaltRequest p t true) s (fun u => (y u).dbg.hreq = true ∧ (y u).m = x.m ∧ sameMemory s u))
    ∧ (open_ → completes (.debugHaltRequest p t false) s (fun u => (y u).dbg.hreq = false ∧ (y u).dbg.hst = .running
        ∧ (x.replays = false → (y u).m = x.m) ∧ sameMemory s u))
    ∧ (open_ → writes → x.atBoundary = true → completes (.debugModeSet p t on) s (fun u => (y u).dbg.dm = on
        ∧ (on ≠ x.dbg.dm → (y u).m.stash.pend = []) ∧ (y u).m.f = x.m.f ∧ sameMemory s u))
    ∧ (open_ → writes → x.atBoundary = true → completes (.debugRecordSet p t on) s (fun u => (y u).dbg.recording = on
        ∧ (y u).m.f = x.m.f ∧ sameMemory s u ∧ (on = true → x.dbg.recording = false →
          (y u).dbg.trace = Trace.reset ∧ (y u).owesProof = true)))
    ∧ (open_ → writes → x.atBoundary = false → completes (.debugModeSet p t on) s (fun u => (y u).dbg.dm = x.dbg.dm
          ∧ (y u).dbg.dmReq = some on ∧ (y u).m = x.m ∧ sameMemory s u)
        ∧ completes (.debugRecordSet p t on) s (fun u => (y u).dbg.recording = x.dbg.recording
          ∧ (y u).dbg.recReq = some on ∧ (y u).m = x.m ∧ sameMemory s u))
    ∧ (open_ → x.replays = true → ∀ i ∈ [Instr.debugModeSet p t on, Instr.debugRecordSet p t on,
        Instr.debugRegisterWrite p t r hidden v], completes i s (fun u => (y u).dbg = { x.dbg with status := .replay }
          ∧ (y u).m = x.m ∧ sameMemory s u))
    ∧ (open_ → x.dbg.hst = .liveHead → isConst r = false → completes (.debugRegisterWrite p t r hidden v) s (fun u =>
        (∀ q, q ≠ r → (y u).m.face q = x.m.face q) ∧ (y u).dbg.status = .ok ∧ sameMemory s u
          ∧ (y u).m.face r = if hidden = true then ((x.m.face r).1, w &&& fullMask r, true)
            else (w &&& fullMask r, (x.m.face r).2.1, (x.m.face r).2.2)))
    ∧ (open_ → x.dbg.hst = .running → x.st = .running → x.m.ctr.retired.toNat ≤ n.toNat → completes (.debugStop p t n) s (fun u =>
        (y u).dbg.hreq = true ∧ (y u).dbg.goal = some n ∧ (y u).m = x.m ∧ sameMemory s u))
    ∧ (open_ → x.dbg.hst = .liveHead → s.liveRetired t = x.m.ctr.retired → steps (.debugStop p t n) n
        ∧ (x.m.ctr.retired ≠ 0 → steps (.debugReverseStep p t) (x.m.ctr.retired - 1)))
    ∧ (∀ ts, s.powered = true → s.frozen = false → s.closing = none → s.sched = .tick t :: ts → x.dbg.hst = .replaying →
        x.dbg.goal = some n → x.dbg.trace.hist.find? (fun h => h.1 == n) = some e → ∃ u, step s = .next u
          ∧ (y u).dbg.hst = .replayHalt ∧ (y u).dbg.status = .ok ∧ (y u).m = e.2.settled x.dbg.trace.log ∧ sameMemory s u)
    ∧ (open_ → x.dbg.hst = .liveHead → x.m.ctr.retired = 0 → completes (.debugReverseStep p t) s (fun u =>
        (y u).dbg = { x.dbg with status := .noproof } ∧ (y u).m = x.m ∧ sameMemory s u))
    ∧ (open_ → x.dbg.hst = .liveHead → s.liveRetired t = x.m.ctr.retired → s.landed t = false → n.toNat < x.m.ctr.retired.toNat →
        x.dbg.trace.noProof n = false → completes (.debugStop p t n) s (fun u => (y u).dbg.goal = some n
          ∧ (y u).dbg.hst = .liveHead ∧ (y u).m = x.m ∧ sameMemory s u))
    ∧ (open_ → x.dbg.hst = .replayHalt → (s.liveRetired t).toNat ≤ (x.m.ctr.retired + 1).toNat →
        (∀ k, s.slots.find? (fun h => h.1 == replaySlot t) = some k → k.2.posts = [] ∧ k.2.mbs = [] ∧ k.2.img.rel = [] →
        completes (.debugForwardStep p t) s (fun u => (y u).dbg.hst = .liveHead ∧ (y u).m = k.2.img ∧ (y u).dbg.status = .ok
          ∧ sameMemory s u)))
    ∧ (x.suLive = true ∨ (x.st = .running ∧ x.dbg.hst = .liveHead) → x.m.su.wait.boundary = true → s.landed t = true →
        x.owesProof = true → completes (.proofTake t) s (fun u => (∃ q ∈ (y u).dbg.trace.proofs, q.retired = x.m.ctr.retired ∧ q.cycle = x.m.ctr.cycle)
          ∧ (y u).m = x.m ∧ sameMemory s u))
    ∧ (shut → denied (.debugHaltRequest p t on) ∧ denied (.debugModeSet p t on) ∧ denied (.debugRecordSet p t on)
        ∧ denied (.debugRegisterWrite p t r hidden v) ∧ denied (.debugStop p t n) ∧ denied (.debugReverseStep p t)
        ∧ denied (.debugForwardStep p t))
end

