-- ==== Sys2Proof/Laws/Encoding.lean ====
section
/-! SUPPORT. The fields of encoded words: what the decoder reads back from each word format of R55 to R66, and the head
that every command carries. -/

namespace Sys2Proof.Laws
open Sys2Proof

/-! ### Codes -/

@[simp] theorem ctl_ofNum_num (c : Ctl) : Ctl.ofNum c.num = some c := by cases c <;> decide
@[simp] theorem prb_ofNum_num (p : Prb) : Prb.ofNum p.num = some p := by cases p <;> decide
@[simp] theorem vty_ofCode_code (t : VTy) : VTy.ofCode t.code = some t := by cases t <;> decide
@[simp] theorem rmode_ofCode_code (r : RMode) : RMode.ofCode r.code = some r := by cases r <;> decide
@[simp] theorem conv_ofCode_code (c : Conv) : Conv.ofCode c.code = some c := by cases c <;> decide
@[simp] theorem scope_ofCode_code (c : Scope) : Scope.ofCode c.code = some c := by cases c <;> decide
@[simp] theorem bit1_getLsbD (b : Bool) : (bit1 b).getLsbD 0 = b := by cases b <;> decide
@[simp] theorem need_true (i : Instr) : need true i = some i := rfl

/-! ### Words of the formats -/

@[simp] theorem mkSa_len (maj sd sa sb min : BitVec 6) :
    (mkSa maj sd sa sb min).extractLsb' 30 2 = 0#2 := by
  unfold mkSa
  rw [BitVec.extractLsb'_append_eq_of_le (by omega),
    BitVec.extractLsb'_append_eq_of_le (by omega),
    BitVec.extractLsb'_append_eq_of_le (by omega),
    BitVec.extractLsb'_append_eq_of_le (by omega),
    BitVec.extractLsb'_append_eq_of_le (by omega)]
  simp

@[simp] theorem mkSa_maj (maj sd sa sb min : BitVec 6) :
    (mkSa maj sd sa sb min).extractLsb' 24 6 = maj := by
  unfold mkSa
  rw [BitVec.extractLsb'_append_eq_of_le (by omega),
    BitVec.extractLsb'_append_eq_of_le (by omega),
    BitVec.extractLsb'_append_eq_of_le (by omega),
    BitVec.extractLsb'_append_eq_of_le (by omega),
    BitVec.extractLsb'_append_eq_of_add_le (by omega)]
  simp

@[simp] theorem mkSa_sd (maj sd sa sb min : BitVec 6) :
    (mkSa maj sd sa sb min).extractLsb' 18 6 = sd := by
  unfold mkSa
  rw [BitVec.extractLsb'_append_eq_of_le (by omega),
    BitVec.extractLsb'_append_eq_of_le (by omega),
    BitVec.extractLsb'_append_eq_of_le (by omega),
    BitVec.extractLsb'_append_eq_of_add_le (by omega)]
  simp

@[simp] theorem mkSa_sa (maj sd sa sb min : BitVec 6) :
    (mkSa maj sd sa sb min).extractLsb' 12 6 = sa := by
  unfold mkSa
  rw [BitVec.extractLsb'_append_eq_of_le (by omega),
    BitVec.extractLsb'_append_eq_of_le (by omega),
    BitVec.extractLsb'_append_eq_of_add_le (by omega)]
  simp

@[simp] theorem mkSa_sb (maj sd sa sb min : BitVec 6) :
    (mkSa maj sd sa sb min).extractLsb' 6 6 = sb := by
  unfold mkSa
  rw [BitVec.extractLsb'_append_eq_of_le (by omega),
    BitVec.extractLsb'_append_eq_of_add_le (by omega)]
  simp

@[simp] theorem mkSa_min (maj sd sa sb min : BitVec 6) :
    (mkSa maj sd sa sb min).extractLsb' 0 6 = min := by
  unfold mkSa
  rw [BitVec.extractLsb'_append_eq_of_add_le (by omega)]
  simp

@[simp] theorem mkSi_len (maj sd sa : BitVec 6) (imm : BitVec 12) :
    (mkSi maj sd sa imm).extractLsb' 30 2 = 0#2 := by
  unfold mkSi
  rw [BitVec.extractLsb'_append_eq_of_le (by omega),
    BitVec.extractLsb'_append_eq_of_le (by omega),
    BitVec.extractLsb'_append_eq_of_le (by omega),
    BitVec.extractLsb'_append_eq_of_le (by omega)]
  simp

@[simp] theorem mkSi_maj (maj sd sa : BitVec 6) (imm : BitVec 12) :
    (mkSi maj sd sa imm).extractLsb' 24 6 = maj := by
  unfold mkSi
  rw [BitVec.extractLsb'_append_eq_of_le (by omega),
    BitVec.extractLsb'_append_eq_of_le (by omega),
    BitVec.extractLsb'_append_eq_of_le (by omega),
    BitVec.extractLsb'_append_eq_of_add_le (by omega)]
  simp

@[simp] theorem mkSi_sd (maj sd sa : BitVec 6) (imm : BitVec 12) :
    (mkSi maj sd sa imm).extractLsb' 18 6 = sd := by
  unfold mkSi
  rw [BitVec.extractLsb'_append_eq_of_le (by omega),
    BitVec.extractLsb'_append_eq_of_le (by omega),
    BitVec.extractLsb'_append_eq_of_add_le (by omega)]
  simp

@[simp] theorem mkSi_sa (maj sd sa : BitVec 6) (imm : BitVec 12) :
    (mkSi maj sd sa imm).extractLsb' 12 6 = sa := by
  unfold mkSi
  rw [BitVec.extractLsb'_append_eq_of_le (by omega),
    BitVec.extractLsb'_append_eq_of_add_le (by omega)]
  simp

@[simp] theorem mkSi_imm (maj sd sa : BitVec 6) (imm : BitVec 12) :
    (mkSi maj sd sa imm).extractLsb' 0 12 = imm := by
  unfold mkSi
  rw [BitVec.extractLsb'_append_eq_of_add_le (by omega)]
  simp

/-- A field within the immediate of an SI word. -/
theorem mkSi_low (maj sd sa : BitVec 6) (imm : BitVec 12) (k n : Nat) (h : k + n ≤ 12) :
    (mkSi maj sd sa imm).extractLsb' k n = imm.extractLsb' k n := by
  unfold mkSi
  rw [BitVec.extractLsb'_append_eq_of_add_le h]

/-- A bit within the immediate of an SI word. -/
theorem mkSi_bit (maj sd sa : BitVec 6) (imm : BitVec 12) (k : Nat) (h : k < 12) :
    (mkSi maj sd sa imm).getLsbD k = imm.getLsbD k := by
  unfold mkSi
  rw [BitVec.getLsbD_append]
  simp [h]

@[simp] theorem mkSl_len (maj sd sa min : BitVec 6) :
    (mkSl maj sd sa min).extractLsb' 30 2 = 1#2 := by
  unfold mkSl
  rw [BitVec.extractLsb'_append_eq_of_le (by omega),
    BitVec.extractLsb'_append_eq_of_le (by omega),
    BitVec.extractLsb'_append_eq_of_le (by omega),
    BitVec.extractLsb'_append_eq_of_le (by omega),
    BitVec.extractLsb'_append_eq_of_le (by omega)]
  simp

@[simp] theorem mkSl_maj (maj sd sa min : BitVec 6) :
    (mkSl maj sd sa min).extractLsb' 24 6 = maj := by
  unfold mkSl
  rw [BitVec.extractLsb'_append_eq_of_le (by omega),
    BitVec.extractLsb'_append_eq_of_le (by omega),
    BitVec.extractLsb'_append_eq_of_le (by omega),
    BitVec.extractLsb'_append_eq_of_le (by omega),
    BitVec.extractLsb'_append_eq_of_add_le (by omega)]
  simp

@[simp] theorem mkSl_sd (maj sd sa min : BitVec 6) :
    (mkSl maj sd sa min).extractLsb' 18 6 = sd := by
  unfold mkSl
  rw [BitVec.extractLsb'_append_eq_of_le (by omega),
    BitVec.extractLsb'_append_eq_of_le (by omega),
    BitVec.extractLsb'_append_eq_of_le (by omega),
    BitVec.extractLsb'_append_eq_of_add_le (by omega)]
  simp

@[simp] theorem mkSl_sa (maj sd sa min : BitVec 6) :
    (mkSl maj sd sa min).extractLsb' 12 6 = sa := by
  unfold mkSl
  rw [BitVec.extractLsb'_append_eq_of_le (by omega),
    BitVec.extractLsb'_append_eq_of_le (by omega),
    BitVec.extractLsb'_append_eq_of_add_le (by omega)]
  simp

@[simp] theorem mkSl_min (maj sd sa min : BitVec 6) :
    (mkSl maj sd sa min).extractLsb' 6 6 = min := by
  unfold mkSl
  rw [BitVec.extractLsb'_append_eq_of_le (by omega),
    BitVec.extractLsb'_append_eq_of_add_le (by omega)]
  simp

@[simp] theorem mkSl_low (maj sd sa min : BitVec 6) :
    (mkSl maj sd sa min).extractLsb' 0 6 = 0#6 := by
  unfold mkSl
  rw [BitVec.extractLsb'_append_eq_of_add_le (by omega)]
  simp

/-- The bits of a VA word. -/
def bitsVa (opc : BitVec 8) (vd va vb vc : BitVec 5) (pm : PReg) (ty : VTy) (rm : RMode) (sat : Bool) : W64 :=
  (0#3 ++ opc ++ vd ++ va ++ vb ++ vc ++ pm ++ ty.code ++ rm.code ++ bit1 sat ++ 0#23 : BitVec 64)

theorem mkVa_eq (opc : BitVec 8) (vd va vb vc : BitVec 5) (pm : PReg) (ty : VTy) (rm : RMode) (sat : Bool) :
    mkVa opc vd va vb vc pm ty rm sat = .vu (bitsVa opc vd va vb vc pm ty rm sat) := rfl

@[simp] theorem bitsVa_sat (opc : BitVec 8) (vd va vb vc : BitVec 5) (pm : PReg) (ty : VTy) (rm : RMode) (sat : Bool) :
    (bitsVa opc vd va vb vc pm ty rm sat).getLsbD 23 = sat := by
  unfold bitsVa
  rw [BitVec.getLsbD_append, BitVec.getLsbD_append]
  simp [bit1]

@[simp] theorem bitsVa_sat' (opc : BitVec 8) (vd va vb vc : BitVec 5) (pm : PReg) (ty : VTy) (rm : RMode) (sat : Bool) :
    (bitsVa opc vd va vb vc pm ty rm sat)[23] = sat := by
  rw [← BitVec.getLsbD_eq_getElem]
  exact bitsVa_sat opc vd va vb vc pm ty rm sat

@[simp] theorem bit1_getElem (b : Bool) : (bit1 b)[0] = b := by cases b <;> decide

@[simp] theorem bitsVa_fmt (opc : BitVec 8) (vd va vb vc : BitVec 5) (pm : PReg) (ty : VTy) (rm : RMode) (sat : Bool) :
    (bitsVa opc vd va vb vc pm ty rm sat).extractLsb' 61 3 = 0#3 := by
  unfold bitsVa
  rw [BitVec.extractLsb'_append_eq_of_le (by omega),
    BitVec.extractLsb'_append_eq_of_le (by omega),
    BitVec.extractLsb'_append_eq_of_le (by omega),
    BitVec.extractLsb'_append_eq_of_le (by omega),
    BitVec.extractLsb'_append_eq_of_le (by omega),
    BitVec.extractLsb'_append_eq_of_le (by omega),
    BitVec.extractLsb'_append_eq_of_le (by omega),
    BitVec.extractLsb'_append_eq_of_le (by omega),
    BitVec.extractLsb'_append_eq_of_le (by omega),
    BitVec.extractLsb'_append_eq_of_le (by omega)]
  simp

@[simp] theorem bitsVa_opc (opc : BitVec 8) (vd va vb vc : BitVec 5) (pm : PReg) (ty : VTy) (rm : RMode) (sat : Bool) :
    (bitsVa opc vd va vb vc pm ty rm sat).extractLsb' 53 8 = opc := by
  unfold bitsVa
  rw [BitVec.extractLsb'_append_eq_of_le (by omega),
    BitVec.extractLsb'_append_eq_of_le (by omega),
    BitVec.extractLsb'_append_eq_of_le (by omega),
    BitVec.extractLsb'_append_eq_of_le (by omega),
    BitVec.extractLsb'_append_eq_of_le (by omega),
    BitVec.extractLsb'_append_eq_of_le (by omega),
    BitVec.extractLsb'_append_eq_of_le (by omega),
    BitVec.extractLsb'_append_eq_of_le (by omega),
    BitVec.extractLsb'_append_eq_of_le (by omega),
    BitVec.extractLsb'_append_eq_of_add_le (by omega)]
  simp

@[simp] theorem bitsVa_vd (opc : BitVec 8) (vd va vb vc : BitVec 5) (pm : PReg) (ty : VTy) (rm : RMode) (sat : Bool) :
    (bitsVa opc vd va vb vc pm ty rm sat).extractLsb' 48 5 = vd := by
  unfold bitsVa
  rw [BitVec.extractLsb'_append_eq_of_le (by omega),
    BitVec.extractLsb'_append_eq_of_le (by omega),
    BitVec.extractLsb'_append_eq_of_le (by omega),
    BitVec.extractLsb'_append_eq_of_le (by omega),
    BitVec.extractLsb'_append_eq_of_le (by omega),
    BitVec.extractLsb'_append_eq_of_le (by omega),
    BitVec.extractLsb'_append_eq_of_le (by omega),
    BitVec.extractLsb'_append_eq_of_le (by omega),
    BitVec.extractLsb'_append_eq_of_add_le (by omega)]
  simp

@[simp] theorem bitsVa_va (opc : BitVec 8) (vd va vb vc : BitVec 5) (pm : PReg) (ty : VTy) (rm : RMode) (sat : Bool) :
    (bitsVa opc vd va vb vc pm ty rm sat).extractLsb' 43 5 = va := by
  unfold bitsVa
  rw [BitVec.extractLsb'_append_eq_of_le (by omega),
    BitVec.extractLsb'_append_eq_of_le (by omega),
    BitVec.extractLsb'_append_eq_of_le (by omega),
    BitVec.extractLsb'_append_eq_of_le (by omega),
    BitVec.extractLsb'_append_eq_of_le (by omega),
    BitVec.extractLsb'_append_eq_of_le (by omega),
    BitVec.extractLsb'_append_eq_of_le (by omega),
    BitVec.extractLsb'_append_eq_of_add_le (by omega)]
  simp

@[simp] theorem bitsVa_vb (opc : BitVec 8) (vd va vb vc : BitVec 5) (pm : PReg) (ty : VTy) (rm : RMode) (sat : Bool) :
    (bitsVa opc vd va vb vc pm ty rm sat).extractLsb' 38 5 = vb := by
  unfold bitsVa
  rw [BitVec.extractLsb'_append_eq_of_le (by omega),
    BitVec.extractLsb'_append_eq_of_le (by omega),
    BitVec.extractLsb'_append_eq_of_le (by omega),
    BitVec.extractLsb'_append_eq_of_le (by omega),
    BitVec.extractLsb'_append_eq_of_le (by omega),
    BitVec.extractLsb'_append_eq_of_le (by omega),
    BitVec.extractLsb'_append_eq_of_add_le (by omega)]
  simp

@[simp] theorem bitsVa_vc (opc : BitVec 8) (vd va vb vc : BitVec 5) (pm : PReg) (ty : VTy) (rm : RMode) (sat : Bool) :
    (bitsVa opc vd va vb vc pm ty rm sat).extractLsb' 33 5 = vc := by
  unfold bitsVa
  rw [BitVec.extractLsb'_append_eq_of_le (by omega),
    BitVec.extractLsb'_append_eq_of_le (by omega),
    BitVec.extractLsb'_append_eq_of_le (by omega),
    BitVec.extractLsb'_append_eq_of_le (by omega),
    BitVec.extractLsb'_append_eq_of_le (by omega),
    BitVec.extractLsb'_append_eq_of_add_le (by omega)]
  simp

@[simp] theorem bitsVa_pm (opc : BitVec 8) (vd va vb vc : BitVec 5) (pm : PReg) (ty : VTy) (rm : RMode) (sat : Bool) :
    (bitsVa opc vd va vb vc pm ty rm sat).extractLsb' 30 3 = pm := by
  unfold bitsVa
  rw [BitVec.extractLsb'_append_eq_of_le (by omega),
    BitVec.extractLsb'_append_eq_of_le (by omega),
    BitVec.extractLsb'_append_eq_of_le (by omega),
    BitVec.extractLsb'_append_eq_of_le (by omega),
    BitVec.extractLsb'_append_eq_of_add_le (by omega)]
  simp

@[simp] theorem bitsVa_ty (opc : BitVec 8) (vd va vb vc : BitVec 5) (pm : PReg) (ty : VTy) (rm : RMode) (sat : Bool) :
    (bitsVa opc vd va vb vc pm ty rm sat).extractLsb' 27 3 = ty.code := by
  unfold bitsVa
  rw [BitVec.extractLsb'_append_eq_of_le (by omega),
    BitVec.extractLsb'_append_eq_of_le (by omega),
    BitVec.extractLsb'_append_eq_of_le (by omega),
    BitVec.extractLsb'_append_eq_of_add_le (by omega)]
  simp

@[simp] theorem bitsVa_rm (opc : BitVec 8) (vd va vb vc : BitVec 5) (pm : PReg) (ty : VTy) (rm : RMode) (sat : Bool) :
    (bitsVa opc vd va vb vc pm ty rm sat).extractLsb' 24 3 = rm.code := by
  unfold bitsVa
  rw [BitVec.extractLsb'_append_eq_of_le (by omega),
    BitVec.extractLsb'_append_eq_of_le (by omega),
    BitVec.extractLsb'_append_eq_of_add_le (by omega)]
  simp

@[simp] theorem bitsVa_low (opc : BitVec 8) (vd va vb vc : BitVec 5) (pm : PReg) (ty : VTy) (rm : RMode) (sat : Bool) :
    (bitsVa opc vd va vb vc pm ty rm sat).extractLsb' 0 23 = 0#23 := by
  unfold bitsVa
  rw [BitVec.extractLsb'_append_eq_of_add_le (by omega)]
  simp

@[simp] theorem bitsVa_pd (opc : BitVec 8) (vd va vb vc : BitVec 5) (pm : PReg) (ty : VTy) (rm : RMode) (sat : Bool) :
    (bitsVa opc vd va vb vc pm ty rm sat).extractLsb' 48 3 = vd.extractLsb' 0 3 := by
  unfold bitsVa
  rw [BitVec.extractLsb'_append_eq_of_le (by omega),
    BitVec.extractLsb'_append_eq_of_le (by omega),
    BitVec.extractLsb'_append_eq_of_le (by omega),
    BitVec.extractLsb'_append_eq_of_le (by omega),
    BitVec.extractLsb'_append_eq_of_le (by omega),
    BitVec.extractLsb'_append_eq_of_le (by omega),
    BitVec.extractLsb'_append_eq_of_le (by omega),
    BitVec.extractLsb'_append_eq_of_le (by omega),
    BitVec.extractLsb'_append_eq_of_add_le (by omega)]

@[simp] theorem bitsVa_pdHi (opc : BitVec 8) (vd va vb vc : BitVec 5) (pm : PReg) (ty : VTy) (rm : RMode) (sat : Bool) :
    (bitsVa opc vd va vb vc pm ty rm sat).extractLsb' 51 2 = vd.extractLsb' 3 2 := by
  unfold bitsVa
  rw [BitVec.extractLsb'_append_eq_of_le (by omega),
    BitVec.extractLsb'_append_eq_of_le (by omega),
    BitVec.extractLsb'_append_eq_of_le (by omega),
    BitVec.extractLsb'_append_eq_of_le (by omega),
    BitVec.extractLsb'_append_eq_of_le (by omega),
    BitVec.extractLsb'_append_eq_of_le (by omega),
    BitVec.extractLsb'_append_eq_of_le (by omega),
    BitVec.extractLsb'_append_eq_of_le (by omega),
    BitVec.extractLsb'_append_eq_of_add_le (by omega)]

@[simp] theorem bitsVa_pc (opc : BitVec 8) (vd va vb vc : BitVec 5) (pm : PReg) (ty : VTy) (rm : RMode) (sat : Bool) :
    (bitsVa opc vd va vb vc pm ty rm sat).extractLsb' 33 3 = vc.extractLsb' 0 3 := by
  unfold bitsVa
  rw [BitVec.extractLsb'_append_eq_of_le (by omega),
    BitVec.extractLsb'_append_eq_of_le (by omega),
    BitVec.extractLsb'_append_eq_of_le (by omega),
    BitVec.extractLsb'_append_eq_of_le (by omega),
    BitVec.extractLsb'_append_eq_of_le (by omega),
    BitVec.extractLsb'_append_eq_of_add_le (by omega)]

@[simp] theorem bitsVa_pcHi (opc : BitVec 8) (vd va vb vc : BitVec 5) (pm : PReg) (ty : VTy) (rm : RMode) (sat : Bool) :
    (bitsVa opc vd va vb vc pm ty rm sat).extractLsb' 36 2 = vc.extractLsb' 3 2 := by
  unfold bitsVa
  rw [BitVec.extractLsb'_append_eq_of_le (by omega),
    BitVec.extractLsb'_append_eq_of_le (by omega),
    BitVec.extractLsb'_append_eq_of_le (by omega),
    BitVec.extractLsb'_append_eq_of_le (by omega),
    BitVec.extractLsb'_append_eq_of_le (by omega),
    BitVec.extractLsb'_append_eq_of_add_le (by omega)]

/-- The bits of a VI word. -/
def bitsVi (opc : BitVec 8) (vd va : BitVec 5) (pm : PReg) (ty : VTy) (imm : W32) : W64 :=
  (1#3 ++ opc ++ vd ++ va ++ pm ++ ty.code ++ 0#5 ++ imm : BitVec 64)

theorem mkVi_eq (opc : BitVec 8) (vd va : BitVec 5) (pm : PReg) (ty : VTy) (imm : W32) :
    mkVi opc vd va pm ty imm = .vu (bitsVi opc vd va pm ty imm) := rfl

@[simp] theorem bitsVi_fmt (opc : BitVec 8) (vd va : BitVec 5) (pm : PReg) (ty : VTy) (imm : W32) :
    (bitsVi opc vd va pm ty imm).extractLsb' 61 3 = 1#3 := by
  unfold bitsVi
  rw [BitVec.extractLsb'_append_eq_of_le (by omega),
    BitVec.extractLsb'_append_eq_of_le (by omega),
    BitVec.extractLsb'_append_eq_of_le (by omega),
    BitVec.extractLsb'_append_eq_of_le (by omega),
    BitVec.extractLsb'_append_eq_of_le (by omega),
    BitVec.extractLsb'_append_eq_of_le (by omega),
    BitVec.extractLsb'_append_eq_of_le (by omega)]
  simp

@[simp] theorem bitsVi_opc (opc : BitVec 8) (vd va : BitVec 5) (pm : PReg) (ty : VTy) (imm : W32) :
    (bitsVi opc vd va pm ty imm).extractLsb' 53 8 = opc := by
  unfold bitsVi
  rw [BitVec.extractLsb'_append_eq_of_le (by omega),
    BitVec.extractLsb'_append_eq_of_le (by omega),
    BitVec.extractLsb'_append_eq_of_le (by omega),
    BitVec.extractLsb'_append_eq_of_le (by omega),
    BitVec.extractLsb'_append_eq_of_le (by omega),
    BitVec.extractLsb'_append_eq_of_le (by omega),
    BitVec.extractLsb'_append_eq_of_add_le (by omega)]
  simp

@[simp] theorem bitsVi_vd (opc : BitVec 8) (vd va : BitVec 5) (pm : PReg) (ty : VTy) (imm : W32) :
    (bitsVi opc vd va pm ty imm).extractLsb' 48 5 = vd := by
  unfold bitsVi
  rw [BitVec.extractLsb'_append_eq_of_le (by omega),
    BitVec.extractLsb'_append_eq_of_le (by omega),
    BitVec.extractLsb'_append_eq_of_le (by omega),
    BitVec.extractLsb'_append_eq_of_le (by omega),
    BitVec.extractLsb'_append_eq_of_le (by omega),
    BitVec.extractLsb'_append_eq_of_add_le (by omega)]
  simp

@[simp] theorem bitsVi_va (opc : BitVec 8) (vd va : BitVec 5) (pm : PReg) (ty : VTy) (imm : W32) :
    (bitsVi opc vd va pm ty imm).extractLsb' 43 5 = va := by
  unfold bitsVi
  rw [BitVec.extractLsb'_append_eq_of_le (by omega),
    BitVec.extractLsb'_append_eq_of_le (by omega),
    BitVec.extractLsb'_append_eq_of_le (by omega),
    BitVec.extractLsb'_append_eq_of_le (by omega),
    BitVec.extractLsb'_append_eq_of_add_le (by omega)]
  simp

@[simp] theorem bitsVi_pm (opc : BitVec 8) (vd va : BitVec 5) (pm : PReg) (ty : VTy) (imm : W32) :
    (bitsVi opc vd va pm ty imm).extractLsb' 40 3 = pm := by
  unfold bitsVi
  rw [BitVec.extractLsb'_append_eq_of_le (by omega),
    BitVec.extractLsb'_append_eq_of_le (by omega),
    BitVec.extractLsb'_append_eq_of_le (by omega),
    BitVec.extractLsb'_append_eq_of_add_le (by omega)]
  simp

@[simp] theorem bitsVi_ty (opc : BitVec 8) (vd va : BitVec 5) (pm : PReg) (ty : VTy) (imm : W32) :
    (bitsVi opc vd va pm ty imm).extractLsb' 37 3 = ty.code := by
  unfold bitsVi
  rw [BitVec.extractLsb'_append_eq_of_le (by omega),
    BitVec.extractLsb'_append_eq_of_le (by omega),
    BitVec.extractLsb'_append_eq_of_add_le (by omega)]
  simp

@[simp] theorem bitsVi_zero (opc : BitVec 8) (vd va : BitVec 5) (pm : PReg) (ty : VTy) (imm : W32) :
    (bitsVi opc vd va pm ty imm).extractLsb' 32 5 = 0#5 := by
  unfold bitsVi
  rw [BitVec.extractLsb'_append_eq_of_le (by omega),
    BitVec.extractLsb'_append_eq_of_add_le (by omega)]
  simp

@[simp] theorem bitsVi_imm (opc : BitVec 8) (vd va : BitVec 5) (pm : PReg) (ty : VTy) (imm : W32) :
    (bitsVi opc vd va pm ty imm).extractLsb' 0 32 = imm := by
  unfold bitsVi
  rw [BitVec.extractLsb'_append_eq_of_add_le (by omega)]
  simp

/-- The bits of a VM word. -/
def bitsVm (opc : BitVec 8) (vt : BitVec 5) (kb pm : PReg) (conv : BitVec 2) (off : W32) : W64 :=
  (2#3 ++ opc ++ vt ++ kb ++ pm ++ conv ++ 0#8 ++ off : BitVec 64)

theorem mkVm_eq (opc : BitVec 8) (vt : BitVec 5) (kb pm : PReg) (conv : BitVec 2) (off : W32) :
    mkVm opc vt kb pm conv off = .vu (bitsVm opc vt kb pm conv off) := rfl

@[simp] theorem bitsVm_fmt (opc : BitVec 8) (vt : BitVec 5) (kb pm : PReg) (conv : BitVec 2) (off : W32) :
    (bitsVm opc vt kb pm conv off).extractLsb' 61 3 = 2#3 := by
  unfold bitsVm
  rw [BitVec.extractLsb'_append_eq_of_le (by omega),
    BitVec.extractLsb'_append_eq_of_le (by omega),
    BitVec.extractLsb'_append_eq_of_le (by omega),
    BitVec.extractLsb'_append_eq_of_le (by omega),
    BitVec.extractLsb'_append_eq_of_le (by omega),
    BitVec.extractLsb'_append_eq_of_le (by omega),
    BitVec.extractLsb'_append_eq_of_le (by omega)]
  simp

@[simp] theorem bitsVm_opc (opc : BitVec 8) (vt : BitVec 5) (kb pm : PReg) (conv : BitVec 2) (off : W32) :
    (bitsVm opc vt kb pm conv off).extractLsb' 53 8 = opc := by
  unfold bitsVm
  rw [BitVec.extractLsb'_append_eq_of_le (by omega),
    BitVec.extractLsb'_append_eq_of_le (by omega),
    BitVec.extractLsb'_append_eq_of_le (by omega),
    BitVec.extractLsb'_append_eq_of_le (by omega),
    BitVec.extractLsb'_append_eq_of_le (by omega),
    BitVec.extractLsb'_append_eq_of_le (by omega),
    BitVec.extractLsb'_append_eq_of_add_le (by omega)]
  simp

@[simp] theorem bitsVm_vt (opc : BitVec 8) (vt : BitVec 5) (kb pm : PReg) (conv : BitVec 2) (off : W32) :
    (bitsVm opc vt kb pm conv off).extractLsb' 48 5 = vt := by
  unfold bitsVm
  rw [BitVec.extractLsb'_append_eq_of_le (by omega),
    BitVec.extractLsb'_append_eq_of_le (by omega),
    BitVec.extractLsb'_append_eq_of_le (by omega),
    BitVec.extractLsb'_append_eq_of_le (by omega),
    BitVec.extractLsb'_append_eq_of_le (by omega),
    BitVec.extractLsb'_append_eq_of_add_le (by omega)]
  simp

@[simp] theorem bitsVm_kb (opc : BitVec 8) (vt : BitVec 5) (kb pm : PReg) (conv : BitVec 2) (off : W32) :
    (bitsVm opc vt kb pm conv off).extractLsb' 45 3 = kb := by
  unfold bitsVm
  rw [BitVec.extractLsb'_append_eq_of_le (by omega),
    BitVec.extractLsb'_append_eq_of_le (by omega),
    BitVec.extractLsb'_append_eq_of_le (by omega),
    BitVec.extractLsb'_append_eq_of_le (by omega),
    BitVec.extractLsb'_append_eq_of_add_le (by omega)]
  simp

@[simp] theorem bitsVm_pm (opc : BitVec 8) (vt : BitVec 5) (kb pm : PReg) (conv : BitVec 2) (off : W32) :
    (bitsVm opc vt kb pm conv off).extractLsb' 42 3 = pm := by
  unfold bitsVm
  rw [BitVec.extractLsb'_append_eq_of_le (by omega),
    BitVec.extractLsb'_append_eq_of_le (by omega),
    BitVec.extractLsb'_append_eq_of_le (by omega),
    BitVec.extractLsb'_append_eq_of_add_le (by omega)]
  simp

@[simp] theorem bitsVm_conv (opc : BitVec 8) (vt : BitVec 5) (kb pm : PReg) (conv : BitVec 2) (off : W32) :
    (bitsVm opc vt kb pm conv off).extractLsb' 40 2 = conv := by
  unfold bitsVm
  rw [BitVec.extractLsb'_append_eq_of_le (by omega),
    BitVec.extractLsb'_append_eq_of_le (by omega),
    BitVec.extractLsb'_append_eq_of_add_le (by omega)]
  simp

@[simp] theorem bitsVm_zero (opc : BitVec 8) (vt : BitVec 5) (kb pm : PReg) (conv : BitVec 2) (off : W32) :
    (bitsVm opc vt kb pm conv off).extractLsb' 32 8 = 0#8 := by
  unfold bitsVm
  rw [BitVec.extractLsb'_append_eq_of_le (by omega),
    BitVec.extractLsb'_append_eq_of_add_le (by omega)]
  simp

@[simp] theorem bitsVm_off (opc : BitVec 8) (vt : BitVec 5) (kb pm : PReg) (conv : BitVec 2) (off : W32) :
    (bitsVm opc vt kb pm conv off).extractLsb' 0 32 = off := by
  unfold bitsVm
  rw [BitVec.extractLsb'_append_eq_of_add_le (by omega)]
  simp

/-- The bits of a VL word. -/
def bitsVl (opc : BitVec 8) (xd xa xb : PReg) (src : BitVec 2) (mi : MIx) (imm : W32) : W64 :=
  (3#3 ++ opc ++ xd ++ xa ++ xb ++ src ++ mi ++ 0#6 ++ imm : BitVec 64)

theorem mkVl_eq (opc : BitVec 8) (xd xa xb : PReg) (src : BitVec 2) (mi : MIx) (imm : W32) :
    mkVl opc xd xa xb src mi imm = .vu (bitsVl opc xd xa xb src mi imm) := rfl

@[simp] theorem bitsVl_fmt (opc : BitVec 8) (xd xa xb : PReg) (src : BitVec 2) (mi : MIx) (imm : W32) :
    (bitsVl opc xd xa xb src mi imm).extractLsb' 61 3 = 3#3 := by
  unfold bitsVl
  rw [BitVec.extractLsb'_append_eq_of_le (by omega),
    BitVec.extractLsb'_append_eq_of_le (by omega),
    BitVec.extractLsb'_append_eq_of_le (by omega),
    BitVec.extractLsb'_append_eq_of_le (by omega),
    BitVec.extractLsb'_append_eq_of_le (by omega),
    BitVec.extractLsb'_append_eq_of_le (by omega),
    BitVec.extractLsb'_append_eq_of_le (by omega),
    BitVec.extractLsb'_append_eq_of_le (by omega)]
  simp

@[simp] theorem bitsVl_opc (opc : BitVec 8) (xd xa xb : PReg) (src : BitVec 2) (mi : MIx) (imm : W32) :
    (bitsVl opc xd xa xb src mi imm).extractLsb' 53 8 = opc := by
  unfold bitsVl
  rw [BitVec.extractLsb'_append_eq_of_le (by omega),
    BitVec.extractLsb'_append_eq_of_le (by omega),
    BitVec.extractLsb'_append_eq_of_le (by omega),
    BitVec.extractLsb'_append_eq_of_le (by omega),
    BitVec.extractLsb'_append_eq_of_le (by omega),
    BitVec.extractLsb'_append_eq_of_le (by omega),
    BitVec.extractLsb'_append_eq_of_le (by omega),
    BitVec.extractLsb'_append_eq_of_add_le (by omega)]
  simp

@[simp] theorem bitsVl_xd (opc : BitVec 8) (xd xa xb : PReg) (src : BitVec 2) (mi : MIx) (imm : W32) :
    (bitsVl opc xd xa xb src mi imm).extractLsb' 50 3 = xd := by
  unfold bitsVl
  rw [BitVec.extractLsb'_append_eq_of_le (by omega),
    BitVec.extractLsb'_append_eq_of_le (by omega),
    BitVec.extractLsb'_append_eq_of_le (by omega),
    BitVec.extractLsb'_append_eq_of_le (by omega),
    BitVec.extractLsb'_append_eq_of_le (by omega),
    BitVec.extractLsb'_append_eq_of_le (by omega),
    BitVec.extractLsb'_append_eq_of_add_le (by omega)]
  simp

@[simp] theorem bitsVl_xa (opc : BitVec 8) (xd xa xb : PReg) (src : BitVec 2) (mi : MIx) (imm : W32) :
    (bitsVl opc xd xa xb src mi imm).extractLsb' 47 3 = xa := by
  unfold bitsVl
  rw [BitVec.extractLsb'_append_eq_of_le (by omega),
    BitVec.extractLsb'_append_eq_of_le (by omega),
    BitVec.extractLsb'_append_eq_of_le (by omega),
    BitVec.extractLsb'_append_eq_of_le (by omega),
    BitVec.extractLsb'_append_eq_of_le (by omega),
    BitVec.extractLsb'_append_eq_of_add_le (by omega)]
  simp

@[simp] theorem bitsVl_xb (opc : BitVec 8) (xd xa xb : PReg) (src : BitVec 2) (mi : MIx) (imm : W32) :
    (bitsVl opc xd xa xb src mi imm).extractLsb' 44 3 = xb := by
  unfold bitsVl
  rw [BitVec.extractLsb'_append_eq_of_le (by omega),
    BitVec.extractLsb'_append_eq_of_le (by omega),
    BitVec.extractLsb'_append_eq_of_le (by omega),
    BitVec.extractLsb'_append_eq_of_le (by omega),
    BitVec.extractLsb'_append_eq_of_add_le (by omega)]
  simp

@[simp] theorem bitsVl_src (opc : BitVec 8) (xd xa xb : PReg) (src : BitVec 2) (mi : MIx) (imm : W32) :
    (bitsVl opc xd xa xb src mi imm).extractLsb' 42 2 = src := by
  unfold bitsVl
  rw [BitVec.extractLsb'_append_eq_of_le (by omega),
    BitVec.extractLsb'_append_eq_of_le (by omega),
    BitVec.extractLsb'_append_eq_of_le (by omega),
    BitVec.extractLsb'_append_eq_of_add_le (by omega)]
  simp

@[simp] theorem bitsVl_mi (opc : BitVec 8) (xd xa xb : PReg) (src : BitVec 2) (mi : MIx) (imm : W32) :
    (bitsVl opc xd xa xb src mi imm).extractLsb' 38 4 = mi := by
  unfold bitsVl
  rw [BitVec.extractLsb'_append_eq_of_le (by omega),
    BitVec.extractLsb'_append_eq_of_le (by omega),
    BitVec.extractLsb'_append_eq_of_add_le (by omega)]
  simp

@[simp] theorem bitsVl_zero (opc : BitVec 8) (xd xa xb : PReg) (src : BitVec 2) (mi : MIx) (imm : W32) :
    (bitsVl opc xd xa xb src mi imm).extractLsb' 32 6 = 0#6 := by
  unfold bitsVl
  rw [BitVec.extractLsb'_append_eq_of_le (by omega),
    BitVec.extractLsb'_append_eq_of_add_le (by omega)]
  simp

@[simp] theorem bitsVl_imm (opc : BitVec 8) (xd xa xb : PReg) (src : BitVec 2) (mi : MIx) (imm : W32) :
    (bitsVl opc xd xa xb src mi imm).extractLsb' 0 32 = imm := by
  unfold bitsVl
  rw [BitVec.extractLsb'_append_eq_of_add_le (by omega)]
  simp

@[simp] theorem bitsVl_imm16 (opc : BitVec 8) (xd xa xb : PReg) (src : BitVec 2) (mi : MIx) (imm : W32) :
    (bitsVl opc xd xa xb src mi imm).extractLsb' 0 16 = imm.extractLsb' 0 16 := by
  unfold bitsVl
  rw [BitVec.extractLsb'_append_eq_of_add_le (by omega)]

@[simp] theorem bitsVl_immHi (opc : BitVec 8) (xd xa xb : PReg) (src : BitVec 2) (mi : MIx) (imm : W32) :
    (bitsVl opc xd xa xb src mi imm).extractLsb' 16 16 = imm.extractLsb' 16 16 := by
  unfold bitsVl
  rw [BitVec.extractLsb'_append_eq_of_add_le (by omega)]

@[simp] theorem bitsVl_imm24 (opc : BitVec 8) (xd xa xb : PReg) (src : BitVec 2) (mi : MIx) (imm : W32) :
    (bitsVl opc xd xa xb src mi imm).extractLsb' 0 24 = imm.extractLsb' 0 24 := by
  unfold bitsVl
  rw [BitVec.extractLsb'_append_eq_of_add_le (by omega)]

@[simp] theorem bitsVl_imm6 (opc : BitVec 8) (xd xa xb : PReg) (src : BitVec 2) (mi : MIx) (imm : W32) :
    (bitsVl opc xd xa xb src mi imm).extractLsb' 24 6 = imm.extractLsb' 24 6 := by
  unfold bitsVl
  rw [BitVec.extractLsb'_append_eq_of_add_le (by omega)]

@[simp] theorem bitsVl_imm2 (opc : BitVec 8) (xd xa xb : PReg) (src : BitVec 2) (mi : MIx) (imm : W32) :
    (bitsVl opc xd xa xb src mi imm).extractLsb' 30 2 = imm.extractLsb' 30 2 := by
  unfold bitsVl
  rw [BitVec.extractLsb'_append_eq_of_add_le (by omega)]

/-- The bits of a VX word. -/
def bitsVx (opc : BitVec 8) (vd va vb vc : BitVec 5) (pm tbl : PReg) : W64 :=
  (4#3 ++ opc ++ vd ++ va ++ vb ++ vc ++ pm ++ tbl ++ 0#27 : BitVec 64)

theorem mkVx_eq (opc : BitVec 8) (vd va vb vc : BitVec 5) (pm tbl : PReg) :
    mkVx opc vd va vb vc pm tbl = .vu (bitsVx opc vd va vb vc pm tbl) := rfl

@[simp] theorem bitsVx_fmt (opc : BitVec 8) (vd va vb vc : BitVec 5) (pm tbl : PReg) :
    (bitsVx opc vd va vb vc pm tbl).extractLsb' 61 3 = 4#3 := by
  unfold bitsVx
  rw [BitVec.extractLsb'_append_eq_of_le (by omega),
    BitVec.extractLsb'_append_eq_of_le (by omega),
    BitVec.extractLsb'_append_eq_of_le (by omega),
    BitVec.extractLsb'_append_eq_of_le (by omega),
    BitVec.extractLsb'_append_eq_of_le (by omega),
    BitVec.extractLsb'_append_eq_of_le (by omega),
    BitVec.extractLsb'_append_eq_of_le (by omega),
    BitVec.extractLsb'_append_eq_of_le (by omega)]
  simp

@[simp] theorem bitsVx_opc (opc : BitVec 8) (vd va vb vc : BitVec 5) (pm tbl : PReg) :
    (bitsVx opc vd va vb vc pm tbl).extractLsb' 53 8 = opc := by
  unfold bitsVx
  rw [BitVec.extractLsb'_append_eq_of_le (by omega),
    BitVec.extractLsb'_append_eq_of_le (by omega),
    BitVec.extractLsb'_append_eq_of_le (by omega),
    BitVec.extractLsb'_append_eq_of_le (by omega),
    BitVec.extractLsb'_append_eq_of_le (by omega),
    BitVec.extractLsb'_append_eq_of_le (by omega),
    BitVec.extractLsb'_append_eq_of_le (by omega),
    BitVec.extractLsb'_append_eq_of_add_le (by omega)]
  simp

@[simp] theorem bitsVx_vd (opc : BitVec 8) (vd va vb vc : BitVec 5) (pm tbl : PReg) :
    (bitsVx opc vd va vb vc pm tbl).extractLsb' 48 5 = vd := by
  unfold bitsVx
  rw [BitVec.extractLsb'_append_eq_of_le (by omega),
    BitVec.extractLsb'_append_eq_of_le (by omega),
    BitVec.extractLsb'_append_eq_of_le (by omega),
    BitVec.extractLsb'_append_eq_of_le (by omega),
    BitVec.extractLsb'_append_eq_of_le (by omega),
    BitVec.extractLsb'_append_eq_of_le (by omega),
    BitVec.extractLsb'_append_eq_of_add_le (by omega)]
  simp

@[simp] theorem bitsVx_va (opc : BitVec 8) (vd va vb vc : BitVec 5) (pm tbl : PReg) :
    (bitsVx opc vd va vb vc pm tbl).extractLsb' 43 5 = va := by
  unfold bitsVx
  rw [BitVec.extractLsb'_append_eq_of_le (by omega),
    BitVec.extractLsb'_append_eq_of_le (by omega),
    BitVec.extractLsb'_append_eq_of_le (by omega),
    BitVec.extractLsb'_append_eq_of_le (by omega),
    BitVec.extractLsb'_append_eq_of_le (by omega),
    BitVec.extractLsb'_append_eq_of_add_le (by omega)]
  simp

@[simp] theorem bitsVx_vb (opc : BitVec 8) (vd va vb vc : BitVec 5) (pm tbl : PReg) :
    (bitsVx opc vd va vb vc pm tbl).extractLsb' 38 5 = vb := by
  unfold bitsVx
  rw [BitVec.extractLsb'_append_eq_of_le (by omega),
    BitVec.extractLsb'_append_eq_of_le (by omega),
    BitVec.extractLsb'_append_eq_of_le (by omega),
    BitVec.extractLsb'_append_eq_of_le (by omega),
    BitVec.extractLsb'_append_eq_of_add_le (by omega)]
  simp

@[simp] theorem bitsVx_vc (opc : BitVec 8) (vd va vb vc : BitVec 5) (pm tbl : PReg) :
    (bitsVx opc vd va vb vc pm tbl).extractLsb' 33 5 = vc := by
  unfold bitsVx
  rw [BitVec.extractLsb'_append_eq_of_le (by omega),
    BitVec.extractLsb'_append_eq_of_le (by omega),
    BitVec.extractLsb'_append_eq_of_le (by omega),
    BitVec.extractLsb'_append_eq_of_add_le (by omega)]
  simp

@[simp] theorem bitsVx_pm (opc : BitVec 8) (vd va vb vc : BitVec 5) (pm tbl : PReg) :
    (bitsVx opc vd va vb vc pm tbl).extractLsb' 30 3 = pm := by
  unfold bitsVx
  rw [BitVec.extractLsb'_append_eq_of_le (by omega),
    BitVec.extractLsb'_append_eq_of_le (by omega),
    BitVec.extractLsb'_append_eq_of_add_le (by omega)]
  simp

@[simp] theorem bitsVx_tbl (opc : BitVec 8) (vd va vb vc : BitVec 5) (pm tbl : PReg) :
    (bitsVx opc vd va vb vc pm tbl).extractLsb' 27 3 = tbl := by
  unfold bitsVx
  rw [BitVec.extractLsb'_append_eq_of_le (by omega),
    BitVec.extractLsb'_append_eq_of_add_le (by omega)]
  simp

@[simp] theorem bitsVx_kc (opc : BitVec 8) (vd va vb vc : BitVec 5) (pm tbl : PReg) :
    (bitsVx opc vd va vb vc pm tbl).extractLsb' 33 3 = vc.extractLsb' 0 3 := by
  unfold bitsVx
  rw [BitVec.extractLsb'_append_eq_of_le (by omega),
    BitVec.extractLsb'_append_eq_of_le (by omega),
    BitVec.extractLsb'_append_eq_of_le (by omega),
    BitVec.extractLsb'_append_eq_of_add_le (by omega)]

@[simp] theorem bitsVx_kcHi (opc : BitVec 8) (vd va vb vc : BitVec 5) (pm tbl : PReg) :
    (bitsVx opc vd va vb vc pm tbl).extractLsb' 36 2 = vc.extractLsb' 3 2 := by
  unfold bitsVx
  rw [BitVec.extractLsb'_append_eq_of_le (by omega),
    BitVec.extractLsb'_append_eq_of_le (by omega),
    BitVec.extractLsb'_append_eq_of_le (by omega),
    BitVec.extractLsb'_append_eq_of_add_le (by omega)]

@[simp] theorem bitsVx_z1 (opc : BitVec 8) (vd va vb vc : BitVec 5) (pm tbl : PReg) :
    (bitsVx opc vd va vb vc pm tbl).extractLsb' 0 24 = 0#24 := by
  unfold bitsVx
  rw [BitVec.extractLsb'_append_eq_of_add_le (by omega)]
  simp

@[simp] theorem bitsVx_z2 (opc : BitVec 8) (vd va vb vc : BitVec 5) (pm tbl : PReg) :
    (bitsVx opc vd va vb vc pm tbl).extractLsb' 24 3 = 0#3 := by
  unfold bitsVx
  rw [BitVec.extractLsb'_append_eq_of_add_le (by omega)]
  simp

@[simp] theorem wide_low (p : PReg) : (wide p).extractLsb' 0 3 = p := by
  unfold wide
  rw [BitVec.extractLsb'_append_eq_of_add_le (by omega)]
  simp

@[simp] theorem wide_high (p : PReg) : (wide p).extractLsb' 3 2 = 0#2 := by
  unfold wide
  rw [BitVec.extractLsb'_append_eq_of_le (by omega)]
  simp

/-! ### Commands -/

/-- The first word of a command (R62). -/
def cmdWord0 (maj min opa opb opc : BitVec 6) : W32 := (2#2 ++ maj ++ min ++ opa ++ opb ++ opc : BitVec 32)

theorem encSc_eq (maj min opa opb opc : BitVec 6) (h : Head) (x y : SReg) (imm : W32) :
    encSc maj min opa opb opc h x y imm =
      .su [cmdWord0 maj min opa opb opc, encWait h.wait, encPost h.post x y, imm] := rfl

@[simp] theorem cmdWord0_len (maj min opa opb opc : BitVec 6) :
    (cmdWord0 maj min opa opb opc).extractLsb' 30 2 = 2#2 := by
  unfold cmdWord0
  rw [BitVec.extractLsb'_append_eq_of_le (by omega),
    BitVec.extractLsb'_append_eq_of_le (by omega),
    BitVec.extractLsb'_append_eq_of_le (by omega),
    BitVec.extractLsb'_append_eq_of_le (by omega),
    BitVec.extractLsb'_append_eq_of_le (by omega)]
  simp

@[simp] theorem cmdWord0_maj (maj min opa opb opc : BitVec 6) :
    (cmdWord0 maj min opa opb opc).extractLsb' 24 6 = maj := by
  unfold cmdWord0
  rw [BitVec.extractLsb'_append_eq_of_le (by omega),
    BitVec.extractLsb'_append_eq_of_le (by omega),
    BitVec.extractLsb'_append_eq_of_le (by omega),
    BitVec.extractLsb'_append_eq_of_le (by omega),
    BitVec.extractLsb'_append_eq_of_add_le (by omega)]
  simp

@[simp] theorem cmdWord0_min (maj min opa opb opc : BitVec 6) :
    (cmdWord0 maj min opa opb opc).extractLsb' 18 6 = min := by
  unfold cmdWord0
  rw [BitVec.extractLsb'_append_eq_of_le (by omega),
    BitVec.extractLsb'_append_eq_of_le (by omega),
    BitVec.extractLsb'_append_eq_of_le (by omega),
    BitVec.extractLsb'_append_eq_of_add_le (by omega)]
  simp

@[simp] theorem cmdWord0_opa (maj min opa opb opc : BitVec 6) :
    (cmdWord0 maj min opa opb opc).extractLsb' 12 6 = opa := by
  unfold cmdWord0
  rw [BitVec.extractLsb'_append_eq_of_le (by omega),
    BitVec.extractLsb'_append_eq_of_le (by omega),
    BitVec.extractLsb'_append_eq_of_add_le (by omega)]
  simp

@[simp] theorem cmdWord0_opb (maj min opa opb opc : BitVec 6) :
    (cmdWord0 maj min opa opb opc).extractLsb' 6 6 = opb := by
  unfold cmdWord0
  rw [BitVec.extractLsb'_append_eq_of_le (by omega),
    BitVec.extractLsb'_append_eq_of_add_le (by omega)]
  simp

@[simp] theorem cmdWord0_opc (maj min opa opb opc : BitVec 6) :
    (cmdWord0 maj min opa opb opc).extractLsb' 0 6 = opc := by
  unfold cmdWord0
  rw [BitVec.extractLsb'_append_eq_of_add_le (by omega)]
  simp

/-- The fields that a command's words hold. -/
def cmdFields (maj min opa opb opc : BitVec 6) (h : Head) (x y : SReg) (imm : W32) : CmdFields where
  maj := maj
  min := min
  opa := opa
  opb := opb
  opc := opc
  we := h.wait.isSome
  wd := (h.wait.map (fun q => q.consume)).getD false
  wsem := (h.wait.map (fun q => q.sem)).getD 0
  wthr := (h.wait.map (fun q => q.thr)).getD 0
  resv1 := 0
  pe := h.post.isSome
  psem := (h.post.map (fun q => q.sem)).getD 0
  pinc := (h.post.map (fun q => q.inc)).getD 0
  selx := x
  sely := y
  resv2 := 0
  imm := imm


/-- Word 1 with a wait. -/
def waitWord (q : QWait) : W32 := (1#1 ++ bit1 q.consume ++ q.sem ++ q.thr ++ 0#10 : BitVec 32)

theorem encWait_some (q : QWait) : encWait (some q) = waitWord q := rfl
theorem encWait_none : encWait none = 0 := rfl

@[simp] theorem waitWord_sem (q : QWait) :
    (waitWord q).extractLsb' 22 8 = q.sem := by
  unfold waitWord
  rw [BitVec.extractLsb'_append_eq_of_le (by omega),
    BitVec.extractLsb'_append_eq_of_le (by omega),
    BitVec.extractLsb'_append_eq_of_add_le (by omega)]
  simp

@[simp] theorem waitWord_thr (q : QWait) :
    (waitWord q).extractLsb' 10 12 = q.thr := by
  unfold waitWord
  rw [BitVec.extractLsb'_append_eq_of_le (by omega),
    BitVec.extractLsb'_append_eq_of_add_le (by omega)]
  simp

@[simp] theorem waitWord_resv (q : QWait) :
    (waitWord q).extractLsb' 0 10 = 0#10 := by
  unfold waitWord
  rw [BitVec.extractLsb'_append_eq_of_add_le (by omega)]
  simp

@[simp] theorem waitWord_we (q : QWait) : (waitWord q).getLsbD 31 = true := by
  unfold waitWord
  rw [BitVec.getLsbD_append, BitVec.getLsbD_append, BitVec.getLsbD_append, BitVec.getLsbD_append]
  simp

@[simp] theorem waitWord_we' (q : QWait) : (waitWord q)[31] = true := by
  rw [← BitVec.getLsbD_eq_getElem]
  exact waitWord_we q

@[simp] theorem waitWord_wd (q : QWait) : (waitWord q).getLsbD 30 = q.consume := by
  unfold waitWord
  rw [BitVec.getLsbD_append, BitVec.getLsbD_append, BitVec.getLsbD_append, BitVec.getLsbD_append]
  simp [bit1]

@[simp] theorem waitWord_wd' (q : QWait) : (waitWord q)[30] = q.consume := by
  rw [← BitVec.getLsbD_eq_getElem]
  exact waitWord_wd q

/-- Word 2 of a command. -/
def postWord (e : BitVec 1) (sem inc : BitVec 8) (x y : SReg) : W32 := (e ++ sem ++ inc ++ x ++ y ++ 0#3 : BitVec 32)

theorem encPost_some (q : QPost) (x y : SReg) : encPost (some q) x y = postWord 1#1 q.sem q.inc x y := rfl
theorem encPost_none (x y : SReg) : encPost none x y = postWord 0#1 0#8 0#8 x y := rfl

@[simp] theorem postWord_sem (e : BitVec 1) (sem inc : BitVec 8) (x y : SReg) :
    (postWord e sem inc x y).extractLsb' 23 8 = sem := by
  unfold postWord
  rw [BitVec.extractLsb'_append_eq_of_le (by omega),
    BitVec.extractLsb'_append_eq_of_le (by omega),
    BitVec.extractLsb'_append_eq_of_le (by omega),
    BitVec.extractLsb'_append_eq_of_le (by omega),
    BitVec.extractLsb'_append_eq_of_add_le (by omega)]
  simp

@[simp] theorem postWord_inc (e : BitVec 1) (sem inc : BitVec 8) (x y : SReg) :
    (postWord e sem inc x y).extractLsb' 15 8 = inc := by
  unfold postWord
  rw [BitVec.extractLsb'_append_eq_of_le (by omega),
    BitVec.extractLsb'_append_eq_of_le (by omega),
    BitVec.extractLsb'_append_eq_of_le (by omega),
    BitVec.extractLsb'_append_eq_of_add_le (by omega)]
  simp

@[simp] theorem postWord_x (e : BitVec 1) (sem inc : BitVec 8) (x y : SReg) :
    (postWord e sem inc x y).extractLsb' 9 6 = x := by
  unfold postWord
  rw [BitVec.extractLsb'_append_eq_of_le (by omega),
    BitVec.extractLsb'_append_eq_of_le (by omega),
    BitVec.extractLsb'_append_eq_of_add_le (by omega)]
  simp

@[simp] theorem postWord_y (e : BitVec 1) (sem inc : BitVec 8) (x y : SReg) :
    (postWord e sem inc x y).extractLsb' 3 6 = y := by
  unfold postWord
  rw [BitVec.extractLsb'_append_eq_of_le (by omega),
    BitVec.extractLsb'_append_eq_of_add_le (by omega)]
  simp

@[simp] theorem postWord_resv (e : BitVec 1) (sem inc : BitVec 8) (x y : SReg) :
    (postWord e sem inc x y).extractLsb' 0 3 = 0#3 := by
  unfold postWord
  rw [BitVec.extractLsb'_append_eq_of_add_le (by omega)]
  simp

@[simp] theorem postWord_pe (e : BitVec 1) (sem inc : BitVec 8) (x y : SReg) :
    (postWord e sem inc x y).getLsbD 31 = e.getLsbD 0 := by
  unfold postWord
  rw [BitVec.getLsbD_append, BitVec.getLsbD_append, BitVec.getLsbD_append, BitVec.getLsbD_append, BitVec.getLsbD_append]
  simp

@[simp] theorem postWord_pe' (e : BitVec 1) (sem inc : BitVec 8) (x y : SReg) : (postWord e sem inc x y)[31] = e[0] := by
  rw [← BitVec.getLsbD_eq_getElem]
  rw [← BitVec.getLsbD_eq_getElem]
  exact postWord_pe e sem inc x y

/-- The decoder reads back the fields of a command's words (R62). -/
theorem ofWords_enc (maj min opa opb opc : BitVec 6) (h : Head) (x y : SReg) (imm : W32) :
    CmdFields.ofWords (cmdWord0 maj min opa opb opc) (encWait h.wait) (encPost h.post x y) imm =
      cmdFields maj min opa opb opc h x y imm := by
  obtain ⟨w, p, sc⟩ := h
  cases w <;> cases p <;>
    simp [CmdFields.ofWords, cmdFields, encWait_some, encWait_none, encPost_some, encPost_none]

@[simp] theorem cmdFields_wait (maj min opa opb opc : BitVec 6) (h : Head) (x y : SReg) (imm : W32) :
    (cmdFields maj min opa opb opc h x y imm).wait = h.wait := by
  obtain ⟨w, p, sc⟩ := h
  cases w <;> simp [CmdFields.wait, cmdFields]

@[simp] theorem cmdFields_post (maj min opa opb opc : BitVec 6) (h : Head) (x y : SReg) (imm : W32) :
    (cmdFields maj min opa opb opc h x y imm).post = h.post := by
  obtain ⟨w, p, sc⟩ := h
  cases p <;> simp [CmdFields.post, cmdFields]

@[simp] theorem cmdFields_headOk (maj min opa opb opc : BitVec 6) (h : Head) (x y : SReg) (imm : W32) :
    (cmdFields maj min opa opb opc h x y imm).headOk = true := by
  obtain ⟨w, p, sc⟩ := h
  cases w <;> cases p <;> simp [CmdFields.headOk, cmdFields]

@[simp] theorem cmdFields_maj (maj min opa opb opc : BitVec 6) (h : Head) (x y : SReg) (imm : W32) :
    (cmdFields maj min opa opb opc h x y imm).maj = maj := rfl
@[simp] theorem cmdFields_min (maj min opa opb opc : BitVec 6) (h : Head) (x y : SReg) (imm : W32) :
    (cmdFields maj min opa opb opc h x y imm).min = min := rfl
@[simp] theorem cmdFields_opa (maj min opa opb opc : BitVec 6) (h : Head) (x y : SReg) (imm : W32) :
    (cmdFields maj min opa opb opc h x y imm).opa = opa := rfl
@[simp] theorem cmdFields_opb (maj min opa opb opc : BitVec 6) (h : Head) (x y : SReg) (imm : W32) :
    (cmdFields maj min opa opb opc h x y imm).opb = opb := rfl
@[simp] theorem cmdFields_opc (maj min opa opb opc : BitVec 6) (h : Head) (x y : SReg) (imm : W32) :
    (cmdFields maj min opa opb opc h x y imm).opc = opc := rfl
@[simp] theorem cmdFields_selx (maj min opa opb opc : BitVec 6) (h : Head) (x y : SReg) (imm : W32) :
    (cmdFields maj min opa opb opc h x y imm).selx = x := rfl
@[simp] theorem cmdFields_sely (maj min opa opb opc : BitVec 6) (h : Head) (x y : SReg) (imm : W32) :
    (cmdFields maj min opa opb opc h x y imm).sely = y := rfl
@[simp] theorem cmdFields_imm (maj min opa opb opc : BitVec 6) (h : Head) (x y : SReg) (imm : W32) :
    (cmdFields maj min opa opb opc h x y imm).imm = imm := rfl

/-- What the decoder makes of a command's words, once its head has been read. -/
def pickCmd : Option CmdCand → Decoded
  | none => .badCmd 1
  | some c => if !c.resv then .badCmd 2 else if !c.idx then .badCmd 4 else if !c.lim then .badCmd 5 else .ok c.instr 16

theorem decodeCmd_enc (maj min opa opb opc : BitVec 6) (h : Head) (x y : SReg) (imm : W32) :
    decodeCmd (cmdWord0 maj min opa opb opc) (encWait h.wait) (encPost h.post x y) imm =
      pickCmd (candCmd (cmdFields maj min opa opb opc h x y imm)) := by
  unfold decodeCmd pickCmd
  simp only [ofWords_enc, cmdFields_headOk]
  cases candCmd (cmdFields maj min opa opb opc h x y imm) with
  | none => rfl
  | some c => simp [cmdFields]

/-! ### Named low fields -/

@[simp] theorem encEight_low (n : BitVec 3) :
    (encEight n).extractLsb' 0 3 = n := by
  unfold encEight
  rw [BitVec.extractLsb'_append_eq_of_add_le (by omega)]
  simp

@[simp] theorem encEight_high (n : BitVec 3) :
    (encEight n).extractLsb' 3 3 = 0#3 := by
  unfold encEight
  rw [BitVec.extractLsb'_append_eq_of_le (by omega)]
  simp

@[simp] theorem encMbox_low (hi : BitVec 2) (m : MIx) :
    (encMbox hi m).extractLsb' 0 4 = m := by
  unfold encMbox
  rw [BitVec.extractLsb'_append_eq_of_add_le (by omega)]
  simp

@[simp] theorem encMbox_high (hi : BitVec 2) (m : MIx) :
    (encMbox hi m).extractLsb' 4 2 = hi := by
  unfold encMbox
  rw [BitVec.extractLsb'_append_eq_of_le (by omega)]
  simp

@[simp] theorem encWalker_low (w : BitVec 2) :
    (encWalker w).extractLsb' 0 2 = w := by
  unfold encWalker
  rw [BitVec.extractLsb'_append_eq_of_add_le (by omega)]
  simp

@[simp] theorem encWalker_high (w : BitVec 2) :
    (encWalker w).extractLsb' 2 4 = 0#4 := by
  unfold encWalker
  rw [BitVec.extractLsb'_append_eq_of_le (by omega)]
  simp

@[simp] theorem encFlags_high (a b c : Bool) :
    (encFlags a b c).extractLsb' 3 26 = 0#26 := by
  unfold encFlags
  rw [BitVec.extractLsb'_append_eq_of_le (by omega),
    BitVec.extractLsb'_append_eq_of_le (by omega),
    BitVec.extractLsb'_append_eq_of_le (by omega)]
  simp

@[simp] theorem encFlags_c (a b c : Bool) : (encFlags a b c)[0] = c := by
  rw [← BitVec.getLsbD_eq_getElem]
  unfold encFlags
  rw [BitVec.getLsbD_append, BitVec.getLsbD_append, BitVec.getLsbD_append]
  simp

@[simp] theorem encFlags_c' (a b c : Bool) : (encFlags a b c).getLsbD 0 = c := by
  rw [BitVec.getLsbD_eq_getElem (by omega)]
  exact encFlags_c a b c

@[simp] theorem encFlags_b (a b c : Bool) : (encFlags a b c)[1] = b := by
  rw [← BitVec.getLsbD_eq_getElem]
  unfold encFlags
  rw [BitVec.getLsbD_append, BitVec.getLsbD_append, BitVec.getLsbD_append]
  simp

@[simp] theorem encFlags_b' (a b c : Bool) : (encFlags a b c).getLsbD 1 = b := by
  rw [BitVec.getLsbD_eq_getElem (by omega)]
  exact encFlags_b a b c

@[simp] theorem encFlags_a (a b c : Bool) : (encFlags a b c)[2] = a := by
  rw [← BitVec.getLsbD_eq_getElem]
  unfold encFlags
  rw [BitVec.getLsbD_append, BitVec.getLsbD_append, BitVec.getLsbD_append]
  simp

@[simp] theorem encFlags_a' (a b c : Bool) : (encFlags a b c).getLsbD 2 = a := by
  rw [BitVec.getLsbD_eq_getElem (by omega)]
  exact encFlags_a a b c

@[simp] theorem encFlags_high2 (b c : Bool) : (encFlags false b c).extractLsb' 2 27 = 0#27 := by
  revert b c
  decide

@[simp] theorem encFlags_high1 (c : Bool) : (encFlags false false c).extractLsb' 1 28 = 0#28 := by
  revert c
  decide

@[simp] theorem encMask_low (mask : BitVec 16) :
    (encMask mask).extractLsb' 0 16 = mask := by
  unfold encMask
  rw [BitVec.extractLsb'_append_eq_of_add_le (by omega)]
  simp

@[simp] theorem encMask_high (mask : BitVec 16) :
    (encMask mask).extractLsb' 16 13 = 0#13 := by
  unfold encMask
  rw [BitVec.extractLsb'_append_eq_of_le (by omega)]
  simp

@[simp] theorem encSoff_low (zero : Bool) (soff : BitVec 10) :
    (encSoff zero soff).extractLsb' 0 10 = soff := by
  unfold encSoff
  rw [BitVec.extractLsb'_append_eq_of_add_le (by omega)]
  simp

@[simp] theorem encSoff_high (zero : Bool) (soff : BitVec 10) :
    (encSoff zero soff).extractLsb' 11 18 = 0#18 := by
  unfold encSoff
  rw [BitVec.extractLsb'_append_eq_of_le (by omega),
    BitVec.extractLsb'_append_eq_of_le (by omega)]
  simp

@[simp] theorem encSoff_zero (zero : Bool) (soff : BitVec 10) : (encSoff zero soff)[10] = zero := by
  rw [← BitVec.getLsbD_eq_getElem]
  unfold encSoff
  rw [BitVec.getLsbD_append, BitVec.getLsbD_append]
  simp

@[simp] theorem encSoff_zero' (zero : Bool) (soff : BitVec 10) : (encSoff zero soff).getLsbD 10 = zero := by
  rw [BitVec.getLsbD_eq_getElem (by omega)]
  exact encSoff_zero zero soff

@[simp] theorem encCeLow_cls (cls : BitVec 2) (l : LinkId) (tag : BitVec 8) (rc : BitVec 6) (s : BitVec 8) :
    (encCeLow cls l tag rc s).extractLsb' 27 2 = cls := by
  unfold encCeLow
  rw [BitVec.extractLsb'_append_eq_of_le (by omega),
    BitVec.extractLsb'_append_eq_of_le (by omega),
    BitVec.extractLsb'_append_eq_of_le (by omega),
    BitVec.extractLsb'_append_eq_of_le (by omega)]
  simp

@[simp] theorem encCeLow_link (cls : BitVec 2) (l : LinkId) (tag : BitVec 8) (rc : BitVec 6) (s : BitVec 8) :
    (encCeLow cls l tag rc s).extractLsb' 22 5 = encLink l := by
  unfold encCeLow
  rw [BitVec.extractLsb'_append_eq_of_le (by omega),
    BitVec.extractLsb'_append_eq_of_le (by omega),
    BitVec.extractLsb'_append_eq_of_le (by omega),
    BitVec.extractLsb'_append_eq_of_add_le (by omega)]
  simp

@[simp] theorem encCeLow_tag (cls : BitVec 2) (l : LinkId) (tag : BitVec 8) (rc : BitVec 6) (s : BitVec 8) :
    (encCeLow cls l tag rc s).extractLsb' 14 8 = tag := by
  unfold encCeLow
  rw [BitVec.extractLsb'_append_eq_of_le (by omega),
    BitVec.extractLsb'_append_eq_of_le (by omega),
    BitVec.extractLsb'_append_eq_of_add_le (by omega)]
  simp

@[simp] theorem encCeLow_rc (cls : BitVec 2) (l : LinkId) (tag : BitVec 8) (rc : BitVec 6) (s : BitVec 8) :
    (encCeLow cls l tag rc s).extractLsb' 8 6 = rc := by
  unfold encCeLow
  rw [BitVec.extractLsb'_append_eq_of_le (by omega),
    BitVec.extractLsb'_append_eq_of_add_le (by omega)]
  simp

@[simp] theorem encCeLow_s (cls : BitVec 2) (l : LinkId) (tag : BitVec 8) (rc : BitVec 6) (s : BitVec 8) :
    (encCeLow cls l tag rc s).extractLsb' 0 8 = s := by
  unfold encCeLow
  rw [BitVec.extractLsb'_append_eq_of_add_le (by omega)]
  simp

@[simp] theorem encDieLow_high (d : DieId) (fleet : Bool) :
    (encDieLow d fleet).extractLsb' 23 6 = 0#6 := by
  unfold encDieLow
  rw [BitVec.extractLsb'_append_eq_of_le (by omega),
    BitVec.extractLsb'_append_eq_of_le (by omega),
    BitVec.extractLsb'_append_eq_of_le (by omega)]
  simp

@[simp] theorem encDieLow_die (d : DieId) (fleet : Bool) :
    (encDieLow d fleet).extractLsb' 22 1 = encDie d := by
  unfold encDieLow
  rw [BitVec.extractLsb'_append_eq_of_le (by omega),
    BitVec.extractLsb'_append_eq_of_le (by omega),
    BitVec.extractLsb'_append_eq_of_add_le (by omega)]
  simp

@[simp] theorem encDieLow_zero (d : DieId) (fleet : Bool) :
    (encDieLow d fleet).extractLsb' 1 21 = 0#21 := by
  unfold encDieLow
  rw [BitVec.extractLsb'_append_eq_of_le (by omega),
    BitVec.extractLsb'_append_eq_of_add_le (by omega)]
  simp

@[simp] theorem encDieLow_fleet (d : DieId) (fleet : Bool) : (encDieLow d fleet)[0] = fleet := by
  rw [← BitVec.getLsbD_eq_getElem]
  unfold encDieLow
  rw [BitVec.getLsbD_append]
  simp

@[simp] theorem encDieLow_fleet' (d : DieId) (fleet : Bool) : (encDieLow d fleet).getLsbD 0 = fleet := by
  rw [BitVec.getLsbD_eq_getElem (by omega)]
  exact encDieLow_fleet d fleet

@[simp] theorem encDieLow_none (d : DieId) : (encDieLow d false).extractLsb' 0 22 = 0#22 := by
  revert d
  decide

@[simp] theorem encLoop_count (dist count : BitVec 16) :
    (encLoop dist count).extractLsb' 0 16 = count := by
  unfold encLoop
  rw [BitVec.extractLsb'_append_eq_of_add_le (by omega)]
  simp

@[simp] theorem encLoop_dist (dist count : BitVec 16) :
    (encLoop dist count).extractLsb' 16 16 = dist := by
  unfold encLoop
  rw [BitVec.extractLsb'_append_eq_of_le (by omega)]
  simp

@[simp] theorem encKadd_imm (n : BitVec 6) (imm : BitVec 24) :
    (encKadd n imm).extractLsb' 0 24 = imm := by
  unfold encKadd
  rw [BitVec.extractLsb'_append_eq_of_add_le (by omega)]
  simp

@[simp] theorem encKadd_n (n : BitVec 6) (imm : BitVec 24) :
    (encKadd n imm).extractLsb' 24 6 = n := by
  unfold encKadd
  rw [BitVec.extractLsb'_append_eq_of_le (by omega),
    BitVec.extractLsb'_append_eq_of_add_le (by omega)]
  simp

@[simp] theorem encKadd_high (n : BitVec 6) (imm : BitVec 24) :
    (encKadd n imm).extractLsb' 30 2 = 0#2 := by
  unfold encKadd
  rw [BitVec.extractLsb'_append_eq_of_le (by omega),
    BitVec.extractLsb'_append_eq_of_le (by omega)]
  simp

@[simp] theorem encCslot_high (l : LinkId) (commit : Bool) (first count1 : BitVec 10) :
    (encCslot l commit first count1).extractLsb' 27 2 = 0#2 := by
  unfold encCslot
  rw [BitVec.extractLsb'_append_eq_of_le (by omega),
    BitVec.extractLsb'_append_eq_of_le (by omega),
    BitVec.extractLsb'_append_eq_of_le (by omega),
    BitVec.extractLsb'_append_eq_of_le (by omega),
    BitVec.extractLsb'_append_eq_of_le (by omega)]
  simp

@[simp] theorem encCslot_link (l : LinkId) (commit : Bool) (first count1 : BitVec 10) :
    (encCslot l commit first count1).extractLsb' 22 5 = encLink l := by
  unfold encCslot
  rw [BitVec.extractLsb'_append_eq_of_le (by omega),
    BitVec.extractLsb'_append_eq_of_le (by omega),
    BitVec.extractLsb'_append_eq_of_le (by omega),
    BitVec.extractLsb'_append_eq_of_le (by omega),
    BitVec.extractLsb'_append_eq_of_add_le (by omega)]
  simp

@[simp] theorem encCslot_first (l : LinkId) (commit : Bool) (first count1 : BitVec 10) :
    (encCslot l commit first count1).extractLsb' 11 10 = first := by
  unfold encCslot
  rw [BitVec.extractLsb'_append_eq_of_le (by omega),
    BitVec.extractLsb'_append_eq_of_le (by omega),
    BitVec.extractLsb'_append_eq_of_add_le (by omega)]
  simp

@[simp] theorem encCslot_count1 (l : LinkId) (commit : Bool) (first count1 : BitVec 10) :
    (encCslot l commit first count1).extractLsb' 1 10 = count1 := by
  unfold encCslot
  rw [BitVec.extractLsb'_append_eq_of_le (by omega),
    BitVec.extractLsb'_append_eq_of_add_le (by omega)]
  simp

@[simp] theorem encCslot_low (l : LinkId) (commit : Bool) (first count1 : BitVec 10) :
    (encCslot l commit first count1).extractLsb' 0 1 = 0#1 := by
  unfold encCslot
  rw [BitVec.extractLsb'_append_eq_of_add_le (by omega)]
  simp

@[simp] theorem encCslot_commit (l : LinkId) (commit : Bool) (first count1 : BitVec 10) : (encCslot l commit first count1)[21] = commit := by
  rw [← BitVec.getLsbD_eq_getElem]
  unfold encCslot
  rw [BitVec.getLsbD_append, BitVec.getLsbD_append, BitVec.getLsbD_append, BitVec.getLsbD_append]
  simp

@[simp] theorem encCslot_commit' (l : LinkId) (commit : Bool) (first count1 : BitVec 10) : (encCslot l commit first count1).getLsbD 21 = commit := by
  rw [BitVec.getLsbD_eq_getElem (by omega)]
  exact encCslot_commit l commit first count1


/-! ### IMM words (R136) -/

@[simp] theorem encImm_scope (h : Head) (lo : BitVec 29) : (encImm h lo).extractLsb' 29 3 = h.scope.code := by
  unfold encImm
  rw [BitVec.extractLsb'_append_eq_of_le (by omega)]
  simp

theorem encImm_low (h : Head) (lo : BitVec 29) (k n : Nat) (hk : k + n ≤ 29) :
    (encImm h lo).extractLsb' k n = lo.extractLsb' k n := by
  unfold encImm
  rw [BitVec.extractLsb'_append_eq_of_add_le hk]

theorem encImm_bit (h : Head) (lo : BitVec 29) (k : Nat) (hk : k < 29) : (encImm h lo).getLsbD k = lo.getLsbD k := by
  unfold encImm
  rw [BitVec.getLsbD_append]
  simp [hk]

@[simp] theorem cmdFields_scope (maj min opa opb opc : BitVec 6) (h : Head) (x y : SReg) (lo : BitVec 29) :
    (cmdFields maj min opa opb opc h x y (encImm h lo)).scope = h.scope := by
  simp [CmdFields.scope]

@[simp] theorem cmdFields_scopeOk (maj min opa opb opc : BitVec 6) (h : Head) (x y : SReg) (lo : BitVec 29) :
    (cmdFields maj min opa opb opc h x y (encImm h lo)).scopeOk = true := by
  simp [CmdFields.scopeOk]

@[simp] theorem cmdFields_head (maj min opa opb opc : BitVec 6) (h : Head) (x y : SReg) (lo : BitVec 29) :
    (cmdFields maj min opa opb opc h x y (encImm h lo)).head = h := by
  simp [CmdFields.head]

@[simp] theorem slotOf_enc (maj min opa opb opc : BitVec 6) (h : Head) (x y : SReg) (n : Option (BitVec 3)) :
    slotOf (cmdFields maj min opa opb opc h x y (encImm h (encSlot n))) = n := by
  have e : ∀ n : Option (BitVec 3),
      (if (encSlot n).getLsbD 3 then some ((encSlot n).extractLsb' 0 3) else none) = n := by decide
  simpa only [slotOf, cmdFields_imm, encImm_bit _ _ _ (show 3 < 29 by omega),
    encImm_low _ _ _ _ (show 0 + 3 ≤ 29 by omega)] using e n

@[simp] theorem slotResv_enc (maj min opa opb opc : BitVec 6) (h : Head) (x y : SReg) (n : Option (BitVec 3)) :
    slotResv (cmdFields maj min opa opb opc h x y (encImm h (encSlot n))) = true := by
  have e : ∀ n : Option (BitVec 3), ((encSlot n).extractLsb' 4 25 == 0 &&
      ((encSlot n).getLsbD 3 || (encSlot n).extractLsb' 0 3 == 0)) = true := by decide
  simpa only [slotResv, cmdFields_imm, encImm_bit _ _ _ (show 3 < 29 by omega),
    encImm_low _ _ _ _ (show 0 + 3 ≤ 29 by omega), encImm_low _ _ _ _ (show 4 + 25 ≤ 29 by omega)] using e n

@[simp] theorem eightOk_enc (n : BitVec 3) : eightOk (encEight n) = true := by
  revert n
  decide

@[simp] theorem retOf_encRet (r : Option MIx) : retOf (encRet r) = r := by
  revert r
  decide

@[simp] theorem retOk_encRet (r : Option MIx) : retOk (encRet r) = true := by
  revert r
  decide

@[simp] theorem linkOf_encLink (l : LinkId) : linkOf (encLink l) = l := by
  revert l
  decide

@[simp] theorem encLink_lt (l : LinkId) : (encLink l).toNat < 18 := by
  revert l
  decide

@[simp] theorem dieOf_encDie (d : DieId) : dieOf (encDie d) = d := by
  revert d
  decide

@[simp] theorem encImm_getElem (h : Head) (lo : BitVec 29) (k : Nat) (hk : k < 29) :
    (encImm h lo)[k]'(by omega) = lo[k] := by
  rw [← BitVec.getLsbD_eq_getElem, encImm_bit h lo k hk, BitVec.getLsbD_eq_getElem]

@[simp] theorem encEight_zero : encEight 0#3 = 0#6 := by decide

/-! ### Bytes (R7) -/

theorem toNat_append4 (a b c d : BitVec 8) :
    (a ++ b ++ c ++ d : BitVec 32).toNat = a.toNat * 16777216 + b.toNat * 65536 + c.toNat * 256 + d.toNat := by
  have h (n : Nat) (x : BitVec n) (y : BitVec 8) : (x ++ y).toNat = x.toNat * 256 + y.toNat := by
    rw [BitVec.toNat_append, ← Nat.shiftLeft_add_eq_or_of_lt y.isLt, Nat.shiftLeft_eq]
  rw [h, h, h]
  omega

/-- Four little-endian bytes of a word are the word (R7). -/
theorem wordsOfBytes_cons (w : W32) (bs : List Byte) :
    wordsOfBytes (bytesOfNat 4 w.toNat ++ bs) = w :: wordsOfBytes bs := by
  simp only [bytesOfNat, List.cons_append, List.nil_append, wordsOfBytes, List.cons.injEq, and_true]
  apply BitVec.eq_of_toNat_eq
  have h := w.isLt
  rw [toNat_append4]
  simp only [BitVec.toNat_ofNat]
  omega

/-- The words of their bytes. -/
theorem wordsOfBytes_words (ws : List W32) : wordsOfBytes (ws.flatMap (fun w => bytesOfNat 4 w.toNat)) = ws := by
  induction ws with
  | nil => rfl
  | cons w ws ih => rw [List.flatMap_cons, wordsOfBytes_cons, ih]

/-- A dword from the words of its bytes (R7). -/
theorem dword_of_bytes (w : W64) :
    wordsOfBytes (bytesOfNat 8 w.toNat) = [w.extractLsb' 0 32, w.extractLsb' 32 32] := by
  have h := w.isLt
  simp only [bytesOfNat, wordsOfBytes, List.cons.injEq, and_true]
  constructor <;> apply BitVec.eq_of_toNat_eq <;> rw [toNat_append4] <;>
    simp only [BitVec.toNat_ofNat, BitVec.extractLsb'_toNat, Nat.shiftRight_eq_div_pow] <;> omega

theorem dword_parts (w : W64) : (w.extractLsb' 32 32 ++ w.extractLsb' 0 32 : BitVec 64) = w := by
  apply BitVec.eq_of_toNat_eq
  have h := w.isLt
  rw [BitVec.toNat_append, ← Nat.shiftLeft_add_eq_or_of_lt (BitVec.isLt _), Nat.shiftLeft_eq]
  simp only [BitVec.extractLsb'_toNat, Nat.shiftRight_eq_div_pow]
  omega

end Sys2Proof.Laws
end

