-- ==== Sys2Proof/Laws/State.lean ====
section
/-! SUPPORT. What each update of the state changes and what it leaves: one lemma for each field and update. -/

namespace Sys2Proof.Machine

/-! ### Updates of one tile, die, link or port -/

@[simp] theorem State.setTile_cfg (s : State) (t : TileId) (x : Tile) : (s.setTile t x).cfg = s.cfg := rfl
@[simp] theorem State.setTile_sched (s : State) (t : TileId) (x : Tile) : (s.setTile t x).sched = s.sched := rfl
@[simp] theorem State.setTile_free (s : State) (t : TileId) (x : Tile) : (s.setTile t x).free = s.free := rfl
@[simp] theorem State.setTile_cur (s : State) (t : TileId) (x : Tile) : (s.setTile t x).cur = s.cur := rfl
@[simp] theorem State.setTile_mem (s : State) (t : TileId) (x : Tile) : (s.setTile t x).mem = s.mem := rfl
@[simp] theorem State.setTile_mirror (s : State) (t : TileId) (x : Tile) : (s.setTile t x).mirror = s.mirror := rfl
@[simp] theorem State.setTile_ms (s : State) (t : TileId) (x : Tile) : (s.setTile t x).ms = s.ms := rfl
@[simp] theorem State.setTile_shelves (s : State) (t : TileId) (x : Tile) : (s.setTile t x).shelves = s.shelves := rfl
@[simp] theorem State.setTile_events (s : State) (t : TileId) (x : Tile) : (s.setTile t x).events = s.events := rfl
@[simp] theorem State.setTile_eventsMirror (s : State) (t : TileId) (x : Tile) : (s.setTile t x).eventsMirror = s.eventsMirror := rfl
@[simp] theorem State.setTile_eventSeq (s : State) (t : TileId) (x : Tile) : (s.setTile t x).eventSeq = s.eventSeq := rfl
@[simp] theorem State.setTile_fleet (s : State) (t : TileId) (x : Tile) : (s.setTile t x).fleet = s.fleet := rfl
@[simp] theorem State.setTile_fleetErr (s : State) (t : TileId) (x : Tile) : (s.setTile t x).fleetErr = s.fleetErr := rfl
@[simp] theorem State.setTile_fleetSync (s : State) (t : TileId) (x : Tile) : (s.setTile t x).fleetSync = s.fleetSync := rfl
@[simp] theorem State.setTile_fabric (s : State) (t : TileId) (x : Tile) : (s.setTile t x).fabric = s.fabric := rfl
@[simp] theorem State.setTile_fab (s : State) (t : TileId) (x : Tile) : (s.setTile t x).fab = s.fab := rfl
@[simp] theorem State.setTile_closing (s : State) (t : TileId) (x : Tile) : (s.setTile t x).closing = s.closing := rfl
@[simp] theorem State.setTile_links (s : State) (t : TileId) (x : Tile) : (s.setTile t x).links = s.links := rfl
@[simp] theorem State.setTile_dies (s : State) (t : TileId) (x : Tile) : (s.setTile t x).dies = s.dies := rfl
@[simp] theorem State.setTile_ports (s : State) (t : TileId) (x : Tile) : (s.setTile t x).ports = s.ports := rfl
@[simp] theorem State.setTile_upload (s : State) (t : TileId) (x : Tile) : (s.setTile t x).upload = s.upload := rfl
@[simp] theorem State.setTile_hlock (s : State) (t : TileId) (x : Tile) : (s.setTile t x).hlock = s.hlock := rfl
@[simp] theorem State.setTile_ceilReq (s : State) (t : TileId) (x : Tile) : (s.setTile t x).ceilReq = s.ceilReq := rfl
@[simp] theorem State.setTile_seize (s : State) (t : TileId) (x : Tile) : (s.setTile t x).seize = s.seize := rfl
@[simp] theorem State.setTile_slots (s : State) (t : TileId) (x : Tile) : (s.setTile t x).slots = s.slots := rfl
@[simp] theorem State.setTile_gangs (s : State) (t : TileId) (x : Tile) : (s.setTile t x).gangs = s.gangs := rfl
@[simp] theorem State.setTile_nextGang (s : State) (t : TileId) (x : Tile) : (s.setTile t x).nextGang = s.nextGang := rfl
@[simp] theorem State.setTile_contQ (s : State) (t : TileId) (x : Tile) : (s.setTile t x).contQ = s.contQ := rfl
@[simp] theorem State.setTile_pushes (s : State) (t : TileId) (x : Tile) : (s.setTile t x).pushes = s.pushes := rfl
@[simp] theorem State.setTile_tposts (s : State) (t : TileId) (x : Tile) : (s.setTile t x).tposts = s.tposts := rfl
@[simp] theorem State.setTile_tfail (s : State) (t : TileId) (x : Tile) : (s.setTile t x).tfail = s.tfail := rfl
@[simp] theorem State.setTile_fw (s : State) (t : TileId) (x : Tile) : (s.setTile t x).fw = s.fw := rfl
@[simp] theorem State.setTile_powered (s : State) (t : TileId) (x : Tile) : (s.setTile t x).powered = s.powered := rfl

@[simp] theorem State.modTile_cfg (s : State) (t : TileId) (f : Tile → Tile) : (s.modTile t f).cfg = s.cfg := rfl
@[simp] theorem State.modTile_sched (s : State) (t : TileId) (f : Tile → Tile) : (s.modTile t f).sched = s.sched := rfl
@[simp] theorem State.modTile_free (s : State) (t : TileId) (f : Tile → Tile) : (s.modTile t f).free = s.free := rfl
@[simp] theorem State.modTile_cur (s : State) (t : TileId) (f : Tile → Tile) : (s.modTile t f).cur = s.cur := rfl
@[simp] theorem State.modTile_mem (s : State) (t : TileId) (f : Tile → Tile) : (s.modTile t f).mem = s.mem := rfl
@[simp] theorem State.modTile_mirror (s : State) (t : TileId) (f : Tile → Tile) : (s.modTile t f).mirror = s.mirror := rfl
@[simp] theorem State.modTile_ms (s : State) (t : TileId) (f : Tile → Tile) : (s.modTile t f).ms = s.ms := rfl
@[simp] theorem State.modTile_shelves (s : State) (t : TileId) (f : Tile → Tile) : (s.modTile t f).shelves = s.shelves := rfl
@[simp] theorem State.modTile_events (s : State) (t : TileId) (f : Tile → Tile) : (s.modTile t f).events = s.events := rfl
@[simp] theorem State.modTile_eventsMirror (s : State) (t : TileId) (f : Tile → Tile) : (s.modTile t f).eventsMirror = s.eventsMirror := rfl
@[simp] theorem State.modTile_eventSeq (s : State) (t : TileId) (f : Tile → Tile) : (s.modTile t f).eventSeq = s.eventSeq := rfl
@[simp] theorem State.modTile_fleet (s : State) (t : TileId) (f : Tile → Tile) : (s.modTile t f).fleet = s.fleet := rfl
@[simp] theorem State.modTile_fleetErr (s : State) (t : TileId) (f : Tile → Tile) : (s.modTile t f).fleetErr = s.fleetErr := rfl
@[simp] theorem State.modTile_fleetSync (s : State) (t : TileId) (f : Tile → Tile) : (s.modTile t f).fleetSync = s.fleetSync := rfl
@[simp] theorem State.modTile_fabric (s : State) (t : TileId) (f : Tile → Tile) : (s.modTile t f).fabric = s.fabric := rfl
@[simp] theorem State.modTile_fab (s : State) (t : TileId) (f : Tile → Tile) : (s.modTile t f).fab = s.fab := rfl
@[simp] theorem State.modTile_closing (s : State) (t : TileId) (f : Tile → Tile) : (s.modTile t f).closing = s.closing := rfl
@[simp] theorem State.modTile_links (s : State) (t : TileId) (f : Tile → Tile) : (s.modTile t f).links = s.links := rfl
@[simp] theorem State.modTile_dies (s : State) (t : TileId) (f : Tile → Tile) : (s.modTile t f).dies = s.dies := rfl
@[simp] theorem State.modTile_ports (s : State) (t : TileId) (f : Tile → Tile) : (s.modTile t f).ports = s.ports := rfl
@[simp] theorem State.modTile_upload (s : State) (t : TileId) (f : Tile → Tile) : (s.modTile t f).upload = s.upload := rfl
@[simp] theorem State.modTile_hlock (s : State) (t : TileId) (f : Tile → Tile) : (s.modTile t f).hlock = s.hlock := rfl
@[simp] theorem State.modTile_ceilReq (s : State) (t : TileId) (f : Tile → Tile) : (s.modTile t f).ceilReq = s.ceilReq := rfl
@[simp] theorem State.modTile_seize (s : State) (t : TileId) (f : Tile → Tile) : (s.modTile t f).seize = s.seize := rfl
@[simp] theorem State.modTile_slots (s : State) (t : TileId) (f : Tile → Tile) : (s.modTile t f).slots = s.slots := rfl
@[simp] theorem State.modTile_gangs (s : State) (t : TileId) (f : Tile → Tile) : (s.modTile t f).gangs = s.gangs := rfl
@[simp] theorem State.modTile_nextGang (s : State) (t : TileId) (f : Tile → Tile) : (s.modTile t f).nextGang = s.nextGang := rfl
@[simp] theorem State.modTile_contQ (s : State) (t : TileId) (f : Tile → Tile) : (s.modTile t f).contQ = s.contQ := rfl
@[simp] theorem State.modTile_pushes (s : State) (t : TileId) (f : Tile → Tile) : (s.modTile t f).pushes = s.pushes := rfl
@[simp] theorem State.modTile_tposts (s : State) (t : TileId) (f : Tile → Tile) : (s.modTile t f).tposts = s.tposts := rfl
@[simp] theorem State.modTile_tfail (s : State) (t : TileId) (f : Tile → Tile) : (s.modTile t f).tfail = s.tfail := rfl
@[simp] theorem State.modTile_fw (s : State) (t : TileId) (f : Tile → Tile) : (s.modTile t f).fw = s.fw := rfl
@[simp] theorem State.modTile_powered (s : State) (t : TileId) (f : Tile → Tile) : (s.modTile t f).powered = s.powered := rfl

@[simp] theorem State.modM_cfg (s : State) (t : TileId) (f : Member → Member) : (s.modM t f).cfg = s.cfg := rfl
@[simp] theorem State.modM_sched (s : State) (t : TileId) (f : Member → Member) : (s.modM t f).sched = s.sched := rfl
@[simp] theorem State.modM_free (s : State) (t : TileId) (f : Member → Member) : (s.modM t f).free = s.free := rfl
@[simp] theorem State.modM_cur (s : State) (t : TileId) (f : Member → Member) : (s.modM t f).cur = s.cur := rfl
@[simp] theorem State.modM_mem (s : State) (t : TileId) (f : Member → Member) : (s.modM t f).mem = s.mem := rfl
@[simp] theorem State.modM_mirror (s : State) (t : TileId) (f : Member → Member) : (s.modM t f).mirror = s.mirror := rfl
@[simp] theorem State.modM_ms (s : State) (t : TileId) (f : Member → Member) : (s.modM t f).ms = s.ms := rfl
@[simp] theorem State.modM_shelves (s : State) (t : TileId) (f : Member → Member) : (s.modM t f).shelves = s.shelves := rfl
@[simp] theorem State.modM_events (s : State) (t : TileId) (f : Member → Member) : (s.modM t f).events = s.events := rfl
@[simp] theorem State.modM_eventsMirror (s : State) (t : TileId) (f : Member → Member) : (s.modM t f).eventsMirror = s.eventsMirror := rfl
@[simp] theorem State.modM_eventSeq (s : State) (t : TileId) (f : Member → Member) : (s.modM t f).eventSeq = s.eventSeq := rfl
@[simp] theorem State.modM_fleet (s : State) (t : TileId) (f : Member → Member) : (s.modM t f).fleet = s.fleet := rfl
@[simp] theorem State.modM_fleetErr (s : State) (t : TileId) (f : Member → Member) : (s.modM t f).fleetErr = s.fleetErr := rfl
@[simp] theorem State.modM_fleetSync (s : State) (t : TileId) (f : Member → Member) : (s.modM t f).fleetSync = s.fleetSync := rfl
@[simp] theorem State.modM_fabric (s : State) (t : TileId) (f : Member → Member) : (s.modM t f).fabric = s.fabric := rfl
@[simp] theorem State.modM_fab (s : State) (t : TileId) (f : Member → Member) : (s.modM t f).fab = s.fab := rfl
@[simp] theorem State.modM_closing (s : State) (t : TileId) (f : Member → Member) : (s.modM t f).closing = s.closing := rfl
@[simp] theorem State.modM_links (s : State) (t : TileId) (f : Member → Member) : (s.modM t f).links = s.links := rfl
@[simp] theorem State.modM_dies (s : State) (t : TileId) (f : Member → Member) : (s.modM t f).dies = s.dies := rfl
@[simp] theorem State.modM_ports (s : State) (t : TileId) (f : Member → Member) : (s.modM t f).ports = s.ports := rfl
@[simp] theorem State.modM_upload (s : State) (t : TileId) (f : Member → Member) : (s.modM t f).upload = s.upload := rfl
@[simp] theorem State.modM_hlock (s : State) (t : TileId) (f : Member → Member) : (s.modM t f).hlock = s.hlock := rfl
@[simp] theorem State.modM_ceilReq (s : State) (t : TileId) (f : Member → Member) : (s.modM t f).ceilReq = s.ceilReq := rfl
@[simp] theorem State.modM_seize (s : State) (t : TileId) (f : Member → Member) : (s.modM t f).seize = s.seize := rfl
@[simp] theorem State.modM_slots (s : State) (t : TileId) (f : Member → Member) : (s.modM t f).slots = s.slots := rfl
@[simp] theorem State.modM_gangs (s : State) (t : TileId) (f : Member → Member) : (s.modM t f).gangs = s.gangs := rfl
@[simp] theorem State.modM_nextGang (s : State) (t : TileId) (f : Member → Member) : (s.modM t f).nextGang = s.nextGang := rfl
@[simp] theorem State.modM_contQ (s : State) (t : TileId) (f : Member → Member) : (s.modM t f).contQ = s.contQ := rfl
@[simp] theorem State.modM_pushes (s : State) (t : TileId) (f : Member → Member) : (s.modM t f).pushes = s.pushes := rfl
@[simp] theorem State.modM_tposts (s : State) (t : TileId) (f : Member → Member) : (s.modM t f).tposts = s.tposts := rfl
@[simp] theorem State.modM_tfail (s : State) (t : TileId) (f : Member → Member) : (s.modM t f).tfail = s.tfail := rfl
@[simp] theorem State.modM_fw (s : State) (t : TileId) (f : Member → Member) : (s.modM t f).fw = s.fw := rfl
@[simp] theorem State.modM_powered (s : State) (t : TileId) (f : Member → Member) : (s.modM t f).powered = s.powered := rfl

@[simp] theorem State.modDie_cfg (s : State) (d : DieId) (f : Die → Die) : (s.modDie d f).cfg = s.cfg := rfl
@[simp] theorem State.modDie_sched (s : State) (d : DieId) (f : Die → Die) : (s.modDie d f).sched = s.sched := rfl
@[simp] theorem State.modDie_free (s : State) (d : DieId) (f : Die → Die) : (s.modDie d f).free = s.free := rfl
@[simp] theorem State.modDie_cur (s : State) (d : DieId) (f : Die → Die) : (s.modDie d f).cur = s.cur := rfl
@[simp] theorem State.modDie_tiles (s : State) (d : DieId) (f : Die → Die) : (s.modDie d f).tiles = s.tiles := rfl
@[simp] theorem State.modDie_mem (s : State) (d : DieId) (f : Die → Die) : (s.modDie d f).mem = s.mem := rfl
@[simp] theorem State.modDie_mirror (s : State) (d : DieId) (f : Die → Die) : (s.modDie d f).mirror = s.mirror := rfl
@[simp] theorem State.modDie_ms (s : State) (d : DieId) (f : Die → Die) : (s.modDie d f).ms = s.ms := rfl
@[simp] theorem State.modDie_shelves (s : State) (d : DieId) (f : Die → Die) : (s.modDie d f).shelves = s.shelves := rfl
@[simp] theorem State.modDie_events (s : State) (d : DieId) (f : Die → Die) : (s.modDie d f).events = s.events := rfl
@[simp] theorem State.modDie_eventsMirror (s : State) (d : DieId) (f : Die → Die) : (s.modDie d f).eventsMirror = s.eventsMirror := rfl
@[simp] theorem State.modDie_eventSeq (s : State) (d : DieId) (f : Die → Die) : (s.modDie d f).eventSeq = s.eventSeq := rfl
@[simp] theorem State.modDie_fleet (s : State) (d : DieId) (f : Die → Die) : (s.modDie d f).fleet = s.fleet := rfl
@[simp] theorem State.modDie_fleetErr (s : State) (d : DieId) (f : Die → Die) : (s.modDie d f).fleetErr = s.fleetErr := rfl
@[simp] theorem State.modDie_fleetSync (s : State) (d : DieId) (f : Die → Die) : (s.modDie d f).fleetSync = s.fleetSync := rfl
@[simp] theorem State.modDie_fabric (s : State) (d : DieId) (f : Die → Die) : (s.modDie d f).fabric = s.fabric := rfl
@[simp] theorem State.modDie_fab (s : State) (d : DieId) (f : Die → Die) : (s.modDie d f).fab = s.fab := rfl
@[simp] theorem State.modDie_closing (s : State) (d : DieId) (f : Die → Die) : (s.modDie d f).closing = s.closing := rfl
@[simp] theorem State.modDie_links (s : State) (d : DieId) (f : Die → Die) : (s.modDie d f).links = s.links := rfl
@[simp] theorem State.modDie_ports (s : State) (d : DieId) (f : Die → Die) : (s.modDie d f).ports = s.ports := rfl
@[simp] theorem State.modDie_upload (s : State) (d : DieId) (f : Die → Die) : (s.modDie d f).upload = s.upload := rfl
@[simp] theorem State.modDie_hlock (s : State) (d : DieId) (f : Die → Die) : (s.modDie d f).hlock = s.hlock := rfl
@[simp] theorem State.modDie_ceilReq (s : State) (d : DieId) (f : Die → Die) : (s.modDie d f).ceilReq = s.ceilReq := rfl
@[simp] theorem State.modDie_seize (s : State) (d : DieId) (f : Die → Die) : (s.modDie d f).seize = s.seize := rfl
@[simp] theorem State.modDie_slots (s : State) (d : DieId) (f : Die → Die) : (s.modDie d f).slots = s.slots := rfl
@[simp] theorem State.modDie_gangs (s : State) (d : DieId) (f : Die → Die) : (s.modDie d f).gangs = s.gangs := rfl
@[simp] theorem State.modDie_nextGang (s : State) (d : DieId) (f : Die → Die) : (s.modDie d f).nextGang = s.nextGang := rfl
@[simp] theorem State.modDie_contQ (s : State) (d : DieId) (f : Die → Die) : (s.modDie d f).contQ = s.contQ := rfl
@[simp] theorem State.modDie_pushes (s : State) (d : DieId) (f : Die → Die) : (s.modDie d f).pushes = s.pushes := rfl
@[simp] theorem State.modDie_tposts (s : State) (d : DieId) (f : Die → Die) : (s.modDie d f).tposts = s.tposts := rfl
@[simp] theorem State.modDie_tfail (s : State) (d : DieId) (f : Die → Die) : (s.modDie d f).tfail = s.tfail := rfl
@[simp] theorem State.modDie_fw (s : State) (d : DieId) (f : Die → Die) : (s.modDie d f).fw = s.fw := rfl
@[simp] theorem State.modDie_powered (s : State) (d : DieId) (f : Die → Die) : (s.modDie d f).powered = s.powered := rfl

@[simp] theorem State.modLink_cfg (s : State) (l : LinkId) (f : Link → Link) : (s.modLink l f).cfg = s.cfg := rfl
@[simp] theorem State.modLink_sched (s : State) (l : LinkId) (f : Link → Link) : (s.modLink l f).sched = s.sched := rfl
@[simp] theorem State.modLink_free (s : State) (l : LinkId) (f : Link → Link) : (s.modLink l f).free = s.free := rfl
@[simp] theorem State.modLink_cur (s : State) (l : LinkId) (f : Link → Link) : (s.modLink l f).cur = s.cur := rfl
@[simp] theorem State.modLink_tiles (s : State) (l : LinkId) (f : Link → Link) : (s.modLink l f).tiles = s.tiles := rfl
@[simp] theorem State.modLink_mem (s : State) (l : LinkId) (f : Link → Link) : (s.modLink l f).mem = s.mem := rfl
@[simp] theorem State.modLink_mirror (s : State) (l : LinkId) (f : Link → Link) : (s.modLink l f).mirror = s.mirror := rfl
@[simp] theorem State.modLink_ms (s : State) (l : LinkId) (f : Link → Link) : (s.modLink l f).ms = s.ms := rfl
@[simp] theorem State.modLink_shelves (s : State) (l : LinkId) (f : Link → Link) : (s.modLink l f).shelves = s.shelves := rfl
@[simp] theorem State.modLink_events (s : State) (l : LinkId) (f : Link → Link) : (s.modLink l f).events = s.events := rfl
@[simp] theorem State.modLink_eventsMirror (s : State) (l : LinkId) (f : Link → Link) : (s.modLink l f).eventsMirror = s.eventsMirror := rfl
@[simp] theorem State.modLink_eventSeq (s : State) (l : LinkId) (f : Link → Link) : (s.modLink l f).eventSeq = s.eventSeq := rfl
@[simp] theorem State.modLink_fleet (s : State) (l : LinkId) (f : Link → Link) : (s.modLink l f).fleet = s.fleet := rfl
@[simp] theorem State.modLink_fleetErr (s : State) (l : LinkId) (f : Link → Link) : (s.modLink l f).fleetErr = s.fleetErr := rfl
@[simp] theorem State.modLink_fleetSync (s : State) (l : LinkId) (f : Link → Link) : (s.modLink l f).fleetSync = s.fleetSync := rfl
@[simp] theorem State.modLink_fabric (s : State) (l : LinkId) (f : Link → Link) : (s.modLink l f).fabric = s.fabric := rfl
@[simp] theorem State.modLink_fab (s : State) (l : LinkId) (f : Link → Link) : (s.modLink l f).fab = s.fab := rfl
@[simp] theorem State.modLink_closing (s : State) (l : LinkId) (f : Link → Link) : (s.modLink l f).closing = s.closing := rfl
@[simp] theorem State.modLink_dies (s : State) (l : LinkId) (f : Link → Link) : (s.modLink l f).dies = s.dies := rfl
@[simp] theorem State.modLink_ports (s : State) (l : LinkId) (f : Link → Link) : (s.modLink l f).ports = s.ports := rfl
@[simp] theorem State.modLink_upload (s : State) (l : LinkId) (f : Link → Link) : (s.modLink l f).upload = s.upload := rfl
@[simp] theorem State.modLink_hlock (s : State) (l : LinkId) (f : Link → Link) : (s.modLink l f).hlock = s.hlock := rfl
@[simp] theorem State.modLink_ceilReq (s : State) (l : LinkId) (f : Link → Link) : (s.modLink l f).ceilReq = s.ceilReq := rfl
@[simp] theorem State.modLink_seize (s : State) (l : LinkId) (f : Link → Link) : (s.modLink l f).seize = s.seize := rfl
@[simp] theorem State.modLink_slots (s : State) (l : LinkId) (f : Link → Link) : (s.modLink l f).slots = s.slots := rfl
@[simp] theorem State.modLink_gangs (s : State) (l : LinkId) (f : Link → Link) : (s.modLink l f).gangs = s.gangs := rfl
@[simp] theorem State.modLink_nextGang (s : State) (l : LinkId) (f : Link → Link) : (s.modLink l f).nextGang = s.nextGang := rfl
@[simp] theorem State.modLink_contQ (s : State) (l : LinkId) (f : Link → Link) : (s.modLink l f).contQ = s.contQ := rfl
@[simp] theorem State.modLink_pushes (s : State) (l : LinkId) (f : Link → Link) : (s.modLink l f).pushes = s.pushes := rfl
@[simp] theorem State.modLink_tposts (s : State) (l : LinkId) (f : Link → Link) : (s.modLink l f).tposts = s.tposts := rfl
@[simp] theorem State.modLink_tfail (s : State) (l : LinkId) (f : Link → Link) : (s.modLink l f).tfail = s.tfail := rfl
@[simp] theorem State.modLink_fw (s : State) (l : LinkId) (f : Link → Link) : (s.modLink l f).fw = s.fw := rfl
@[simp] theorem State.modLink_powered (s : State) (l : LinkId) (f : Link → Link) : (s.modLink l f).powered = s.powered := rfl

@[simp] theorem State.modPort_cfg (s : State) (p : PortId) (f : Port → Port) : (s.modPort p f).cfg = s.cfg := rfl
@[simp] theorem State.modPort_sched (s : State) (p : PortId) (f : Port → Port) : (s.modPort p f).sched = s.sched := rfl
@[simp] theorem State.modPort_free (s : State) (p : PortId) (f : Port → Port) : (s.modPort p f).free = s.free := rfl
@[simp] theorem State.modPort_cur (s : State) (p : PortId) (f : Port → Port) : (s.modPort p f).cur = s.cur := rfl
@[simp] theorem State.modPort_tiles (s : State) (p : PortId) (f : Port → Port) : (s.modPort p f).tiles = s.tiles := rfl
@[simp] theorem State.modPort_mem (s : State) (p : PortId) (f : Port → Port) : (s.modPort p f).mem = s.mem := rfl
@[simp] theorem State.modPort_mirror (s : State) (p : PortId) (f : Port → Port) : (s.modPort p f).mirror = s.mirror := rfl
@[simp] theorem State.modPort_ms (s : State) (p : PortId) (f : Port → Port) : (s.modPort p f).ms = s.ms := rfl
@[simp] theorem State.modPort_shelves (s : State) (p : PortId) (f : Port → Port) : (s.modPort p f).shelves = s.shelves := rfl
@[simp] theorem State.modPort_events (s : State) (p : PortId) (f : Port → Port) : (s.modPort p f).events = s.events := rfl
@[simp] theorem State.modPort_eventsMirror (s : State) (p : PortId) (f : Port → Port) : (s.modPort p f).eventsMirror = s.eventsMirror := rfl
@[simp] theorem State.modPort_eventSeq (s : State) (p : PortId) (f : Port → Port) : (s.modPort p f).eventSeq = s.eventSeq := rfl
@[simp] theorem State.modPort_fleet (s : State) (p : PortId) (f : Port → Port) : (s.modPort p f).fleet = s.fleet := rfl
@[simp] theorem State.modPort_fleetErr (s : State) (p : PortId) (f : Port → Port) : (s.modPort p f).fleetErr = s.fleetErr := rfl
@[simp] theorem State.modPort_fleetSync (s : State) (p : PortId) (f : Port → Port) : (s.modPort p f).fleetSync = s.fleetSync := rfl
@[simp] theorem State.modPort_fabric (s : State) (p : PortId) (f : Port → Port) : (s.modPort p f).fabric = s.fabric := rfl
@[simp] theorem State.modPort_fab (s : State) (p : PortId) (f : Port → Port) : (s.modPort p f).fab = s.fab := rfl
@[simp] theorem State.modPort_closing (s : State) (p : PortId) (f : Port → Port) : (s.modPort p f).closing = s.closing := rfl
@[simp] theorem State.modPort_links (s : State) (p : PortId) (f : Port → Port) : (s.modPort p f).links = s.links := rfl
@[simp] theorem State.modPort_dies (s : State) (p : PortId) (f : Port → Port) : (s.modPort p f).dies = s.dies := rfl
@[simp] theorem State.modPort_upload (s : State) (p : PortId) (f : Port → Port) : (s.modPort p f).upload = s.upload := rfl
@[simp] theorem State.modPort_hlock (s : State) (p : PortId) (f : Port → Port) : (s.modPort p f).hlock = s.hlock := rfl
@[simp] theorem State.modPort_ceilReq (s : State) (p : PortId) (f : Port → Port) : (s.modPort p f).ceilReq = s.ceilReq := rfl
@[simp] theorem State.modPort_seize (s : State) (p : PortId) (f : Port → Port) : (s.modPort p f).seize = s.seize := rfl
@[simp] theorem State.modPort_slots (s : State) (p : PortId) (f : Port → Port) : (s.modPort p f).slots = s.slots := rfl
@[simp] theorem State.modPort_gangs (s : State) (p : PortId) (f : Port → Port) : (s.modPort p f).gangs = s.gangs := rfl
@[simp] theorem State.modPort_nextGang (s : State) (p : PortId) (f : Port → Port) : (s.modPort p f).nextGang = s.nextGang := rfl
@[simp] theorem State.modPort_contQ (s : State) (p : PortId) (f : Port → Port) : (s.modPort p f).contQ = s.contQ := rfl
@[simp] theorem State.modPort_pushes (s : State) (p : PortId) (f : Port → Port) : (s.modPort p f).pushes = s.pushes := rfl
@[simp] theorem State.modPort_tposts (s : State) (p : PortId) (f : Port → Port) : (s.modPort p f).tposts = s.tposts := rfl
@[simp] theorem State.modPort_tfail (s : State) (p : PortId) (f : Port → Port) : (s.modPort p f).tfail = s.tfail := rfl
@[simp] theorem State.modPort_fw (s : State) (p : PortId) (f : Port → Port) : (s.modPort p f).fw = s.fw := rfl
@[simp] theorem State.modPort_powered (s : State) (p : PortId) (f : Port → Port) : (s.modPort p f).powered = s.powered := rfl

/-- Reading a tile back after it has been written. -/
@[simp] theorem State.tile_setTile (s : State) (t : TileId) (x : Tile) : (s.setTile t x).tile t = x := by
  simp [State.tile, State.setTile]

/-- A write of one tile leaves every other. -/
@[simp] theorem State.tile_setTile_ne (s : State) (t u : TileId) (x : Tile) (h : t ≠ u) :
    (s.setTile t x).tile u = s.tile u := by
  simp only [State.tile, State.setTile]
  exact Vector.getElem_set_ne _ _ (fun e => h (Fin.ext e))

@[simp] theorem State.tile_modTile (s : State) (t : TileId) (f : Tile → Tile) : (s.modTile t f).tile t = f (s.tile t) := by
  simp [State.modTile]

@[simp] theorem State.tile_modTile_ne (s : State) (t u : TileId) (f : Tile → Tile) (h : t ≠ u) :
    (s.modTile t f).tile u = s.tile u := by
  simp [State.modTile, h]

@[simp] theorem State.tile_modM (s : State) (t : TileId) (f : Member → Member) :
    (s.modM t f).tile t = { s.tile t with m := f (s.tile t).m } := by
  simp [State.modM]

@[simp] theorem State.tile_modM_ne (s : State) (t u : TileId) (f : Member → Member) (h : t ≠ u) :
    (s.modM t f).tile u = s.tile u := by
  simp [State.modM, h]

/-- Two changes of one member are one. -/
theorem State.modM_modM (s : State) (t : TileId) (f g : Member → Member) :
    (s.modM t f).modM t g = s.modM t (fun m => g (f m)) := by
  simp [State.modM, State.modTile, State.setTile, State.tile]

/-! ### Updates of a member -/

@[simp] theorem Member.retireTo_f (m : Member) (pc : W64) (gap : Nat) : (m.retireTo pc gap).f = m.f := rfl
@[simp] theorem Member.retireTo_vf (m : Member) (pc : W64) (gap : Nat) : (m.retireTo pc gap).vf = m.vf := rfl
@[simp] theorem Member.retireTo_code (m : Member) (pc : W64) (gap : Nat) : (m.retireTo pc gap).code = m.code := rfl
@[simp] theorem Member.retireTo_sems (m : Member) (pc : W64) (gap : Nat) : (m.retireTo pc gap).sems = m.sems := rfl
@[simp] theorem Member.retireTo_q (m : Member) (pc : W64) (gap : Nat) : (m.retireTo pc gap).q = m.q := rfl
@[simp] theorem Member.retireTo_mu (m : Member) (pc : W64) (gap : Nat) : (m.retireTo pc gap).mu = m.mu := rfl
@[simp] theorem Member.retireTo_ch (m : Member) (pc : W64) (gap : Nat) : (m.retireTo pc gap).ch = m.ch := rfl
@[simp] theorem Member.retireTo_vu (m : Member) (pc : W64) (gap : Nat) : (m.retireTo pc gap).vu = m.vu := rfl
@[simp] theorem Member.retireTo_stash (m : Member) (pc : W64) (gap : Nat) : (m.retireTo pc gap).stash = m.stash := rfl
@[simp] theorem Member.retireTo_acc (m : Member) (pc : W64) (gap : Nat) : (m.retireTo pc gap).acc = m.acc := rfl
@[simp] theorem Member.retireTo_wb (m : Member) (pc : W64) (gap : Nat) : (m.retireTo pc gap).wb = m.wb := rfl
@[simp] theorem Member.retireTo_tbl (m : Member) (pc : W64) (gap : Nat) : (m.retireTo pc gap).tbl = m.tbl := rfl
@[simp] theorem Member.retireTo_rows (m : Member) (pc : W64) (gap : Nat) : (m.retireTo pc gap).rows = m.rows := rfl
@[simp] theorem Member.retireTo_vbank (m : Member) (pc : W64) (gap : Nat) : (m.retireTo pc gap).vbank = m.vbank := rfl
@[simp] theorem Member.retireTo_dbank (m : Member) (pc : W64) (gap : Nat) : (m.retireTo pc gap).dbank = m.dbank := rfl
@[simp] theorem Member.retireTo_rep (m : Member) (pc : W64) (gap : Nat) : (m.retireTo pc gap).rep = m.rep := rfl
@[simp] theorem Member.retireTo_mbq (m : Member) (pc : W64) (gap : Nat) : (m.retireTo pc gap).mbq = m.mbq := rfl
@[simp] theorem Member.retireTo_rel (m : Member) (pc : W64) (gap : Nat) : (m.retireTo pc gap).rel = m.rel := rfl
@[simp] theorem Member.retireTo_dirty (m : Member) (pc : W64) (gap : Nat) : (m.retireTo pc gap).dirty = m.dirty := rfl
@[simp] theorem Member.retireTo_id (m : Member) (pc : W64) (gap : Nat) : (m.retireTo pc gap).id = m.id := rfl

@[simp] theorem Member.retire_f (m : Member) (len : Nat) : (m.retire len).f = m.f := rfl
@[simp] theorem Member.retire_vf (m : Member) (len : Nat) : (m.retire len).vf = m.vf := rfl
@[simp] theorem Member.retire_code (m : Member) (len : Nat) : (m.retire len).code = m.code := rfl
@[simp] theorem Member.retire_sems (m : Member) (len : Nat) : (m.retire len).sems = m.sems := rfl
@[simp] theorem Member.retire_q (m : Member) (len : Nat) : (m.retire len).q = m.q := rfl
@[simp] theorem Member.retire_mu (m : Member) (len : Nat) : (m.retire len).mu = m.mu := rfl
@[simp] theorem Member.retire_ch (m : Member) (len : Nat) : (m.retire len).ch = m.ch := rfl
@[simp] theorem Member.retire_vu (m : Member) (len : Nat) : (m.retire len).vu = m.vu := rfl
@[simp] theorem Member.retire_stash (m : Member) (len : Nat) : (m.retire len).stash = m.stash := rfl
@[simp] theorem Member.retire_acc (m : Member) (len : Nat) : (m.retire len).acc = m.acc := rfl
@[simp] theorem Member.retire_wb (m : Member) (len : Nat) : (m.retire len).wb = m.wb := rfl
@[simp] theorem Member.retire_tbl (m : Member) (len : Nat) : (m.retire len).tbl = m.tbl := rfl
@[simp] theorem Member.retire_rows (m : Member) (len : Nat) : (m.retire len).rows = m.rows := rfl
@[simp] theorem Member.retire_vbank (m : Member) (len : Nat) : (m.retire len).vbank = m.vbank := rfl
@[simp] theorem Member.retire_dbank (m : Member) (len : Nat) : (m.retire len).dbank = m.dbank := rfl
@[simp] theorem Member.retire_rep (m : Member) (len : Nat) : (m.retire len).rep = m.rep := rfl
@[simp] theorem Member.retire_mbq (m : Member) (len : Nat) : (m.retire len).mbq = m.mbq := rfl
@[simp] theorem Member.retire_rel (m : Member) (len : Nat) : (m.retire len).rel = m.rel := rfl
@[simp] theorem Member.retire_dirty (m : Member) (len : Nat) : (m.retire len).dirty = m.dirty := rfl
@[simp] theorem Member.retire_id (m : Member) (len : Nat) : (m.retire len).id = m.id := rfl

@[simp] theorem Member.addWeight_f (m : Member) (wt : Nat) : (m.addWeight wt).f = m.f := rfl
@[simp] theorem Member.addWeight_vf (m : Member) (wt : Nat) : (m.addWeight wt).vf = m.vf := rfl
@[simp] theorem Member.addWeight_code (m : Member) (wt : Nat) : (m.addWeight wt).code = m.code := rfl
@[simp] theorem Member.addWeight_ctr (m : Member) (wt : Nat) : (m.addWeight wt).ctr = m.ctr := rfl
@[simp] theorem Member.addWeight_sems (m : Member) (wt : Nat) : (m.addWeight wt).sems = m.sems := rfl
@[simp] theorem Member.addWeight_q (m : Member) (wt : Nat) : (m.addWeight wt).q = m.q := rfl
@[simp] theorem Member.addWeight_mu (m : Member) (wt : Nat) : (m.addWeight wt).mu = m.mu := rfl
@[simp] theorem Member.addWeight_ch (m : Member) (wt : Nat) : (m.addWeight wt).ch = m.ch := rfl
@[simp] theorem Member.addWeight_vu (m : Member) (wt : Nat) : (m.addWeight wt).vu = m.vu := rfl
@[simp] theorem Member.addWeight_stash (m : Member) (wt : Nat) : (m.addWeight wt).stash = m.stash := rfl
@[simp] theorem Member.addWeight_acc (m : Member) (wt : Nat) : (m.addWeight wt).acc = m.acc := rfl
@[simp] theorem Member.addWeight_wb (m : Member) (wt : Nat) : (m.addWeight wt).wb = m.wb := rfl
@[simp] theorem Member.addWeight_tbl (m : Member) (wt : Nat) : (m.addWeight wt).tbl = m.tbl := rfl
@[simp] theorem Member.addWeight_rows (m : Member) (wt : Nat) : (m.addWeight wt).rows = m.rows := rfl
@[simp] theorem Member.addWeight_vbank (m : Member) (wt : Nat) : (m.addWeight wt).vbank = m.vbank := rfl
@[simp] theorem Member.addWeight_dbank (m : Member) (wt : Nat) : (m.addWeight wt).dbank = m.dbank := rfl
@[simp] theorem Member.addWeight_rep (m : Member) (wt : Nat) : (m.addWeight wt).rep = m.rep := rfl
@[simp] theorem Member.addWeight_mbq (m : Member) (wt : Nat) : (m.addWeight wt).mbq = m.mbq := rfl
@[simp] theorem Member.addWeight_rel (m : Member) (wt : Nat) : (m.addWeight wt).rel = m.rel := rfl
@[simp] theorem Member.addWeight_dirty (m : Member) (wt : Nat) : (m.addWeight wt).dirty = m.dirty := rfl
@[simp] theorem Member.addWeight_id (m : Member) (wt : Nat) : (m.addWeight wt).id = m.id := rfl

@[simp] theorem Member.exchangeV_su (m : Member) : (m.exchangeV).su = m.su := by rw [Member.exchangeV]
@[simp] theorem Member.exchangeV_f (m : Member) : (m.exchangeV).f = m.f := by rw [Member.exchangeV]
@[simp] theorem Member.exchangeV_code (m : Member) : (m.exchangeV).code = m.code := by rw [Member.exchangeV]
@[simp] theorem Member.exchangeV_sems (m : Member) : (m.exchangeV).sems = m.sems := by rw [Member.exchangeV]
@[simp] theorem Member.exchangeV_q (m : Member) : (m.exchangeV).q = m.q := by rw [Member.exchangeV]
@[simp] theorem Member.exchangeV_mu (m : Member) : (m.exchangeV).mu = m.mu := by rw [Member.exchangeV]
@[simp] theorem Member.exchangeV_ch (m : Member) : (m.exchangeV).ch = m.ch := by rw [Member.exchangeV]
@[simp] theorem Member.exchangeV_stash (m : Member) : (m.exchangeV).stash = m.stash := by rw [Member.exchangeV]
@[simp] theorem Member.exchangeV_acc (m : Member) : (m.exchangeV).acc = m.acc := by rw [Member.exchangeV]
@[simp] theorem Member.exchangeV_wb (m : Member) : (m.exchangeV).wb = m.wb := by rw [Member.exchangeV]
@[simp] theorem Member.exchangeV_tbl (m : Member) : (m.exchangeV).tbl = m.tbl := by rw [Member.exchangeV]
@[simp] theorem Member.exchangeV_rows (m : Member) : (m.exchangeV).rows = m.rows := by rw [Member.exchangeV]
@[simp] theorem Member.exchangeV_vbank (m : Member) : (m.exchangeV).vbank = m.vbank := by rw [Member.exchangeV]
@[simp] theorem Member.exchangeV_dbank (m : Member) : (m.exchangeV).dbank = m.dbank := by rw [Member.exchangeV]
@[simp] theorem Member.exchangeV_rep (m : Member) : (m.exchangeV).rep = m.rep := by rw [Member.exchangeV]
@[simp] theorem Member.exchangeV_mbq (m : Member) : (m.exchangeV).mbq = m.mbq := by rw [Member.exchangeV]
@[simp] theorem Member.exchangeV_rel (m : Member) : (m.exchangeV).rel = m.rel := by rw [Member.exchangeV]
@[simp] theorem Member.exchangeV_id (m : Member) : (m.exchangeV).id = m.id := by rw [Member.exchangeV]

@[simp] theorem Member.releaseAll_su (m : Member) : (m.releaseAll).su = m.su := rfl
@[simp] theorem Member.releaseAll_f (m : Member) : (m.releaseAll).f = m.f := rfl
@[simp] theorem Member.releaseAll_vf (m : Member) : (m.releaseAll).vf = m.vf := rfl
@[simp] theorem Member.releaseAll_code (m : Member) : (m.releaseAll).code = m.code := rfl
@[simp] theorem Member.releaseAll_ctr (m : Member) : (m.releaseAll).ctr = m.ctr := rfl
@[simp] theorem Member.releaseAll_sems (m : Member) : (m.releaseAll).sems = m.sems := rfl
@[simp] theorem Member.releaseAll_q (m : Member) : (m.releaseAll).q = m.q := rfl
@[simp] theorem Member.releaseAll_stash (m : Member) : (m.releaseAll).stash = m.stash := rfl
@[simp] theorem Member.releaseAll_acc (m : Member) : (m.releaseAll).acc = m.acc := rfl
@[simp] theorem Member.releaseAll_wb (m : Member) : (m.releaseAll).wb = m.wb := rfl
@[simp] theorem Member.releaseAll_tbl (m : Member) : (m.releaseAll).tbl = m.tbl := rfl
@[simp] theorem Member.releaseAll_rows (m : Member) : (m.releaseAll).rows = m.rows := rfl
@[simp] theorem Member.releaseAll_vbank (m : Member) : (m.releaseAll).vbank = m.vbank := rfl
@[simp] theorem Member.releaseAll_dbank (m : Member) : (m.releaseAll).dbank = m.dbank := rfl
@[simp] theorem Member.releaseAll_rep (m : Member) : (m.releaseAll).rep = m.rep := rfl
@[simp] theorem Member.releaseAll_mbq (m : Member) : (m.releaseAll).mbq = m.mbq := rfl
@[simp] theorem Member.releaseAll_rel (m : Member) : (m.releaseAll).rel = m.rel := rfl
@[simp] theorem Member.releaseAll_dirty (m : Member) : (m.releaseAll).dirty = m.dirty := rfl
@[simp] theorem Member.releaseAll_id (m : Member) : (m.releaseAll).id = m.id := rfl

@[simp] theorem Member.modReg_su (m : Member) (r : DbgReg) (g : (n : Nat) → Faced n → Faced n) : (m.modReg r g).su = m.su := by
  unfold Member.modReg
  split <;> rfl
@[simp] theorem Member.modReg_code (m : Member) (r : DbgReg) (g : (n : Nat) → Faced n → Faced n) : (m.modReg r g).code = m.code := by
  unfold Member.modReg
  split <;> rfl
@[simp] theorem Member.modReg_ctr (m : Member) (r : DbgReg) (g : (n : Nat) → Faced n → Faced n) : (m.modReg r g).ctr = m.ctr := by
  unfold Member.modReg
  split <;> rfl
@[simp] theorem Member.modReg_sems (m : Member) (r : DbgReg) (g : (n : Nat) → Faced n → Faced n) : (m.modReg r g).sems = m.sems := by
  unfold Member.modReg
  split <;> rfl
@[simp] theorem Member.modReg_q (m : Member) (r : DbgReg) (g : (n : Nat) → Faced n → Faced n) : (m.modReg r g).q = m.q := by
  unfold Member.modReg
  split <;> rfl
@[simp] theorem Member.modReg_mu (m : Member) (r : DbgReg) (g : (n : Nat) → Faced n → Faced n) : (m.modReg r g).mu = m.mu := by
  unfold Member.modReg
  split <;> rfl
@[simp] theorem Member.modReg_ch (m : Member) (r : DbgReg) (g : (n : Nat) → Faced n → Faced n) : (m.modReg r g).ch = m.ch := by
  unfold Member.modReg
  split <;> rfl
@[simp] theorem Member.modReg_vu (m : Member) (r : DbgReg) (g : (n : Nat) → Faced n → Faced n) : (m.modReg r g).vu = m.vu := by
  unfold Member.modReg
  split <;> rfl
@[simp] theorem Member.modReg_stash (m : Member) (r : DbgReg) (g : (n : Nat) → Faced n → Faced n) : (m.modReg r g).stash = m.stash := by
  unfold Member.modReg
  split <;> rfl
@[simp] theorem Member.modReg_acc (m : Member) (r : DbgReg) (g : (n : Nat) → Faced n → Faced n) : (m.modReg r g).acc = m.acc := by
  unfold Member.modReg
  split <;> rfl
@[simp] theorem Member.modReg_wb (m : Member) (r : DbgReg) (g : (n : Nat) → Faced n → Faced n) : (m.modReg r g).wb = m.wb := by
  unfold Member.modReg
  split <;> rfl
@[simp] theorem Member.modReg_tbl (m : Member) (r : DbgReg) (g : (n : Nat) → Faced n → Faced n) : (m.modReg r g).tbl = m.tbl := by
  unfold Member.modReg
  split <;> rfl
@[simp] theorem Member.modReg_rows (m : Member) (r : DbgReg) (g : (n : Nat) → Faced n → Faced n) : (m.modReg r g).rows = m.rows := by
  unfold Member.modReg
  split <;> rfl
@[simp] theorem Member.modReg_vbank (m : Member) (r : DbgReg) (g : (n : Nat) → Faced n → Faced n) : (m.modReg r g).vbank = m.vbank := by
  unfold Member.modReg
  split <;> rfl
@[simp] theorem Member.modReg_dbank (m : Member) (r : DbgReg) (g : (n : Nat) → Faced n → Faced n) : (m.modReg r g).dbank = m.dbank := by
  unfold Member.modReg
  split <;> rfl
@[simp] theorem Member.modReg_rep (m : Member) (r : DbgReg) (g : (n : Nat) → Faced n → Faced n) : (m.modReg r g).rep = m.rep := by
  unfold Member.modReg
  split <;> rfl
@[simp] theorem Member.modReg_mbq (m : Member) (r : DbgReg) (g : (n : Nat) → Faced n → Faced n) : (m.modReg r g).mbq = m.mbq := by
  unfold Member.modReg
  split <;> rfl
@[simp] theorem Member.modReg_rel (m : Member) (r : DbgReg) (g : (n : Nat) → Faced n → Faced n) : (m.modReg r g).rel = m.rel := by
  unfold Member.modReg
  split <;> rfl
@[simp] theorem Member.modReg_id (m : Member) (r : DbgReg) (g : (n : Nat) → Faced n → Faced n) : (m.modReg r g).id = m.id := by
  unfold Member.modReg
  split <;> rfl

@[simp] theorem Member.writeReg_su (m : Member) (r : DbgReg) (k v : W4096) : (m.writeReg r k v).su = m.su := by
  simp [Member.writeReg]
@[simp] theorem Member.writeReg_code (m : Member) (r : DbgReg) (k v : W4096) : (m.writeReg r k v).code = m.code := by
  simp [Member.writeReg]
@[simp] theorem Member.writeReg_ctr (m : Member) (r : DbgReg) (k v : W4096) : (m.writeReg r k v).ctr = m.ctr := by
  simp [Member.writeReg]
@[simp] theorem Member.writeReg_sems (m : Member) (r : DbgReg) (k v : W4096) : (m.writeReg r k v).sems = m.sems := by
  simp [Member.writeReg]
@[simp] theorem Member.writeReg_q (m : Member) (r : DbgReg) (k v : W4096) : (m.writeReg r k v).q = m.q := by
  simp [Member.writeReg]
@[simp] theorem Member.writeReg_mu (m : Member) (r : DbgReg) (k v : W4096) : (m.writeReg r k v).mu = m.mu := by
  simp [Member.writeReg]
@[simp] theorem Member.writeReg_ch (m : Member) (r : DbgReg) (k v : W4096) : (m.writeReg r k v).ch = m.ch := by
  simp [Member.writeReg]
@[simp] theorem Member.writeReg_vu (m : Member) (r : DbgReg) (k v : W4096) : (m.writeReg r k v).vu = m.vu := by
  simp [Member.writeReg]
@[simp] theorem Member.writeReg_stash (m : Member) (r : DbgReg) (k v : W4096) : (m.writeReg r k v).stash = m.stash := by
  simp [Member.writeReg]
@[simp] theorem Member.writeReg_acc (m : Member) (r : DbgReg) (k v : W4096) : (m.writeReg r k v).acc = m.acc := by
  simp [Member.writeReg]
@[simp] theorem Member.writeReg_wb (m : Member) (r : DbgReg) (k v : W4096) : (m.writeReg r k v).wb = m.wb := by
  simp [Member.writeReg]
@[simp] theorem Member.writeReg_tbl (m : Member) (r : DbgReg) (k v : W4096) : (m.writeReg r k v).tbl = m.tbl := by
  simp [Member.writeReg]
@[simp] theorem Member.writeReg_rows (m : Member) (r : DbgReg) (k v : W4096) : (m.writeReg r k v).rows = m.rows := by
  simp [Member.writeReg]
@[simp] theorem Member.writeReg_vbank (m : Member) (r : DbgReg) (k v : W4096) : (m.writeReg r k v).vbank = m.vbank := by
  simp [Member.writeReg]
@[simp] theorem Member.writeReg_dbank (m : Member) (r : DbgReg) (k v : W4096) : (m.writeReg r k v).dbank = m.dbank := by
  simp [Member.writeReg]
@[simp] theorem Member.writeReg_rep (m : Member) (r : DbgReg) (k v : W4096) : (m.writeReg r k v).rep = m.rep := by
  simp [Member.writeReg]
@[simp] theorem Member.writeReg_mbq (m : Member) (r : DbgReg) (k v : W4096) : (m.writeReg r k v).mbq = m.mbq := by
  simp [Member.writeReg]
@[simp] theorem Member.writeReg_rel (m : Member) (r : DbgReg) (k v : W4096) : (m.writeReg r k v).rel = m.rel := by
  simp [Member.writeReg]
@[simp] theorem Member.writeReg_id (m : Member) (r : DbgReg) (k v : W4096) : (m.writeReg r k v).id = m.id := by
  simp [Member.writeReg]

@[simp] theorem Member.putReg_code (m : Member) (r : DbgReg) (v : W512) : (m.putReg r v).code = m.code := by
  simp [Member.putReg]
@[simp] theorem Member.putReg_ctr (m : Member) (r : DbgReg) (v : W512) : (m.putReg r v).ctr = m.ctr := by
  simp [Member.putReg]
@[simp] theorem Member.putReg_sems (m : Member) (r : DbgReg) (v : W512) : (m.putReg r v).sems = m.sems := by
  simp [Member.putReg]
@[simp] theorem Member.putReg_q (m : Member) (r : DbgReg) (v : W512) : (m.putReg r v).q = m.q := by
  simp [Member.putReg]
@[simp] theorem Member.putReg_mu (m : Member) (r : DbgReg) (v : W512) : (m.putReg r v).mu = m.mu := by
  simp [Member.putReg]
@[simp] theorem Member.putReg_ch (m : Member) (r : DbgReg) (v : W512) : (m.putReg r v).ch = m.ch := by
  simp [Member.putReg]
@[simp] theorem Member.putReg_vu (m : Member) (r : DbgReg) (v : W512) : (m.putReg r v).vu = m.vu := by
  simp [Member.putReg]
@[simp] theorem Member.putReg_stash (m : Member) (r : DbgReg) (v : W512) : (m.putReg r v).stash = m.stash := by
  simp [Member.putReg]
@[simp] theorem Member.putReg_acc (m : Member) (r : DbgReg) (v : W512) : (m.putReg r v).acc = m.acc := by
  simp [Member.putReg]
@[simp] theorem Member.putReg_wb (m : Member) (r : DbgReg) (v : W512) : (m.putReg r v).wb = m.wb := by
  simp [Member.putReg]
@[simp] theorem Member.putReg_tbl (m : Member) (r : DbgReg) (v : W512) : (m.putReg r v).tbl = m.tbl := by
  simp [Member.putReg]
@[simp] theorem Member.putReg_rows (m : Member) (r : DbgReg) (v : W512) : (m.putReg r v).rows = m.rows := by
  simp [Member.putReg]
@[simp] theorem Member.putReg_vbank (m : Member) (r : DbgReg) (v : W512) : (m.putReg r v).vbank = m.vbank := by
  simp [Member.putReg]
@[simp] theorem Member.putReg_dbank (m : Member) (r : DbgReg) (v : W512) : (m.putReg r v).dbank = m.dbank := by
  simp [Member.putReg]
@[simp] theorem Member.putReg_rep (m : Member) (r : DbgReg) (v : W512) : (m.putReg r v).rep = m.rep := by
  simp [Member.putReg]
@[simp] theorem Member.putReg_mbq (m : Member) (r : DbgReg) (v : W512) : (m.putReg r v).mbq = m.mbq := by
  simp [Member.putReg]
@[simp] theorem Member.putReg_rel (m : Member) (r : DbgReg) (v : W512) : (m.putReg r v).rel = m.rel := by
  simp [Member.putReg]
@[simp] theorem Member.putReg_id (m : Member) (r : DbgReg) (v : W512) : (m.putReg r v).id = m.id := by
  simp [Member.putReg]

@[simp] theorem Member.putSlow_f (m : Member) (r : DbgReg) (k v : W4096) (due : Nat) : (m.putSlow r k v due).f = m.f := by
  unfold Member.putSlow
  split <;> rfl
@[simp] theorem Member.putSlow_vf (m : Member) (r : DbgReg) (k v : W4096) (due : Nat) : (m.putSlow r k v due).vf = m.vf := by
  unfold Member.putSlow
  split <;> rfl
@[simp] theorem Member.putSlow_code (m : Member) (r : DbgReg) (k v : W4096) (due : Nat) : (m.putSlow r k v due).code = m.code := by
  unfold Member.putSlow
  split <;> rfl
@[simp] theorem Member.putSlow_ctr (m : Member) (r : DbgReg) (k v : W4096) (due : Nat) : (m.putSlow r k v due).ctr = m.ctr := by
  unfold Member.putSlow
  split <;> rfl
@[simp] theorem Member.putSlow_sems (m : Member) (r : DbgReg) (k v : W4096) (due : Nat) : (m.putSlow r k v due).sems = m.sems := by
  unfold Member.putSlow
  split <;> rfl
@[simp] theorem Member.putSlow_q (m : Member) (r : DbgReg) (k v : W4096) (due : Nat) : (m.putSlow r k v due).q = m.q := by
  unfold Member.putSlow
  split <;> rfl
@[simp] theorem Member.putSlow_mu (m : Member) (r : DbgReg) (k v : W4096) (due : Nat) : (m.putSlow r k v due).mu = m.mu := by
  unfold Member.putSlow
  split <;> rfl
@[simp] theorem Member.putSlow_ch (m : Member) (r : DbgReg) (k v : W4096) (due : Nat) : (m.putSlow r k v due).ch = m.ch := by
  unfold Member.putSlow
  split <;> rfl
@[simp] theorem Member.putSlow_vu (m : Member) (r : DbgReg) (k v : W4096) (due : Nat) : (m.putSlow r k v due).vu = m.vu := by
  unfold Member.putSlow
  split <;> rfl
@[simp] theorem Member.putSlow_stash (m : Member) (r : DbgReg) (k v : W4096) (due : Nat) : (m.putSlow r k v due).stash = m.stash := by
  unfold Member.putSlow
  split <;> rfl
@[simp] theorem Member.putSlow_acc (m : Member) (r : DbgReg) (k v : W4096) (due : Nat) : (m.putSlow r k v due).acc = m.acc := by
  unfold Member.putSlow
  split <;> rfl
@[simp] theorem Member.putSlow_wb (m : Member) (r : DbgReg) (k v : W4096) (due : Nat) : (m.putSlow r k v due).wb = m.wb := by
  unfold Member.putSlow
  split <;> rfl
@[simp] theorem Member.putSlow_tbl (m : Member) (r : DbgReg) (k v : W4096) (due : Nat) : (m.putSlow r k v due).tbl = m.tbl := by
  unfold Member.putSlow
  split <;> rfl
@[simp] theorem Member.putSlow_rows (m : Member) (r : DbgReg) (k v : W4096) (due : Nat) : (m.putSlow r k v due).rows = m.rows := by
  unfold Member.putSlow
  split <;> rfl
@[simp] theorem Member.putSlow_vbank (m : Member) (r : DbgReg) (k v : W4096) (due : Nat) : (m.putSlow r k v due).vbank = m.vbank := by
  unfold Member.putSlow
  split <;> rfl
@[simp] theorem Member.putSlow_dbank (m : Member) (r : DbgReg) (k v : W4096) (due : Nat) : (m.putSlow r k v due).dbank = m.dbank := by
  unfold Member.putSlow
  split <;> rfl
@[simp] theorem Member.putSlow_rep (m : Member) (r : DbgReg) (k v : W4096) (due : Nat) : (m.putSlow r k v due).rep = m.rep := by
  unfold Member.putSlow
  split <;> rfl
@[simp] theorem Member.putSlow_mbq (m : Member) (r : DbgReg) (k v : W4096) (due : Nat) : (m.putSlow r k v due).mbq = m.mbq := by
  unfold Member.putSlow
  split <;> rfl
@[simp] theorem Member.putSlow_rel (m : Member) (r : DbgReg) (k v : W4096) (due : Nat) : (m.putSlow r k v due).rel = m.rel := by
  unfold Member.putSlow
  split <;> rfl
@[simp] theorem Member.putSlow_id (m : Member) (r : DbgReg) (k v : W4096) (due : Nat) : (m.putSlow r k v due).id = m.id := by
  unfold Member.putSlow
  split <;> rfl

@[simp] theorem Member.land_code (m : Member) (id : Nat) (r : DbgReg) (k v : W4096) : (m.land id r k v).code = m.code := by
  unfold Member.land
  split <;> simp
@[simp] theorem Member.land_ctr (m : Member) (id : Nat) (r : DbgReg) (k v : W4096) : (m.land id r k v).ctr = m.ctr := by
  unfold Member.land
  split <;> simp
@[simp] theorem Member.land_sems (m : Member) (id : Nat) (r : DbgReg) (k v : W4096) : (m.land id r k v).sems = m.sems := by
  unfold Member.land
  split <;> simp
@[simp] theorem Member.land_q (m : Member) (id : Nat) (r : DbgReg) (k v : W4096) : (m.land id r k v).q = m.q := by
  unfold Member.land
  split <;> simp
@[simp] theorem Member.land_mu (m : Member) (id : Nat) (r : DbgReg) (k v : W4096) : (m.land id r k v).mu = m.mu := by
  unfold Member.land
  split <;> simp
@[simp] theorem Member.land_ch (m : Member) (id : Nat) (r : DbgReg) (k v : W4096) : (m.land id r k v).ch = m.ch := by
  unfold Member.land
  split <;> simp
@[simp] theorem Member.land_stash (m : Member) (id : Nat) (r : DbgReg) (k v : W4096) : (m.land id r k v).stash = m.stash := by
  unfold Member.land
  split <;> simp
@[simp] theorem Member.land_acc (m : Member) (id : Nat) (r : DbgReg) (k v : W4096) : (m.land id r k v).acc = m.acc := by
  unfold Member.land
  split <;> simp
@[simp] theorem Member.land_wb (m : Member) (id : Nat) (r : DbgReg) (k v : W4096) : (m.land id r k v).wb = m.wb := by
  unfold Member.land
  split <;> simp
@[simp] theorem Member.land_tbl (m : Member) (id : Nat) (r : DbgReg) (k v : W4096) : (m.land id r k v).tbl = m.tbl := by
  unfold Member.land
  split <;> simp
@[simp] theorem Member.land_rows (m : Member) (id : Nat) (r : DbgReg) (k v : W4096) : (m.land id r k v).rows = m.rows := by
  unfold Member.land
  split <;> simp
@[simp] theorem Member.land_vbank (m : Member) (id : Nat) (r : DbgReg) (k v : W4096) : (m.land id r k v).vbank = m.vbank := by
  unfold Member.land
  split <;> simp
@[simp] theorem Member.land_dbank (m : Member) (id : Nat) (r : DbgReg) (k v : W4096) : (m.land id r k v).dbank = m.dbank := by
  unfold Member.land
  split <;> simp
@[simp] theorem Member.land_rep (m : Member) (id : Nat) (r : DbgReg) (k v : W4096) : (m.land id r k v).rep = m.rep := by
  unfold Member.land
  split <;> simp
@[simp] theorem Member.land_mbq (m : Member) (id : Nat) (r : DbgReg) (k v : W4096) : (m.land id r k v).mbq = m.mbq := by
  unfold Member.land
  split <;> simp
@[simp] theorem Member.land_rel (m : Member) (id : Nat) (r : DbgReg) (k v : W4096) : (m.land id r k v).rel = m.rel := by
  unfold Member.land
  split <;> simp
@[simp] theorem Member.land_id (m : Member) (id : Nat) (r : DbgReg) (k v : W4096) : (m.land id r k v).id = m.id := by
  unfold Member.land
  split <;> simp

@[simp] theorem Member.writeS_code (m : Member) (d : SReg) (v : W64) (lat : Nat) : (m.writeS d v lat).code = m.code := by
  unfold Member.writeS
  dsimp only
  split <;> simp
@[simp] theorem Member.writeS_ctr (m : Member) (d : SReg) (v : W64) (lat : Nat) : (m.writeS d v lat).ctr = m.ctr := by
  unfold Member.writeS
  dsimp only
  split <;> simp
@[simp] theorem Member.writeS_sems (m : Member) (d : SReg) (v : W64) (lat : Nat) : (m.writeS d v lat).sems = m.sems := by
  unfold Member.writeS
  dsimp only
  split <;> simp
@[simp] theorem Member.writeS_q (m : Member) (d : SReg) (v : W64) (lat : Nat) : (m.writeS d v lat).q = m.q := by
  unfold Member.writeS
  dsimp only
  split <;> simp
@[simp] theorem Member.writeS_mu (m : Member) (d : SReg) (v : W64) (lat : Nat) : (m.writeS d v lat).mu = m.mu := by
  unfold Member.writeS
  dsimp only
  split <;> simp
@[simp] theorem Member.writeS_ch (m : Member) (d : SReg) (v : W64) (lat : Nat) : (m.writeS d v lat).ch = m.ch := by
  unfold Member.writeS
  dsimp only
  split <;> simp
@[simp] theorem Member.writeS_vu (m : Member) (d : SReg) (v : W64) (lat : Nat) : (m.writeS d v lat).vu = m.vu := by
  unfold Member.writeS
  dsimp only
  split <;> simp
@[simp] theorem Member.writeS_stash (m : Member) (d : SReg) (v : W64) (lat : Nat) : (m.writeS d v lat).stash = m.stash := by
  unfold Member.writeS
  dsimp only
  split <;> simp
@[simp] theorem Member.writeS_acc (m : Member) (d : SReg) (v : W64) (lat : Nat) : (m.writeS d v lat).acc = m.acc := by
  unfold Member.writeS
  dsimp only
  split <;> simp
@[simp] theorem Member.writeS_wb (m : Member) (d : SReg) (v : W64) (lat : Nat) : (m.writeS d v lat).wb = m.wb := by
  unfold Member.writeS
  dsimp only
  split <;> simp
@[simp] theorem Member.writeS_tbl (m : Member) (d : SReg) (v : W64) (lat : Nat) : (m.writeS d v lat).tbl = m.tbl := by
  unfold Member.writeS
  dsimp only
  split <;> simp
@[simp] theorem Member.writeS_rows (m : Member) (d : SReg) (v : W64) (lat : Nat) : (m.writeS d v lat).rows = m.rows := by
  unfold Member.writeS
  dsimp only
  split <;> simp
@[simp] theorem Member.writeS_vbank (m : Member) (d : SReg) (v : W64) (lat : Nat) : (m.writeS d v lat).vbank = m.vbank := by
  unfold Member.writeS
  dsimp only
  split <;> simp
@[simp] theorem Member.writeS_dbank (m : Member) (d : SReg) (v : W64) (lat : Nat) : (m.writeS d v lat).dbank = m.dbank := by
  unfold Member.writeS
  dsimp only
  split <;> simp
@[simp] theorem Member.writeS_rep (m : Member) (d : SReg) (v : W64) (lat : Nat) : (m.writeS d v lat).rep = m.rep := by
  unfold Member.writeS
  dsimp only
  split <;> simp
@[simp] theorem Member.writeS_mbq (m : Member) (d : SReg) (v : W64) (lat : Nat) : (m.writeS d v lat).mbq = m.mbq := by
  unfold Member.writeS
  dsimp only
  split <;> simp
@[simp] theorem Member.writeS_rel (m : Member) (d : SReg) (v : W64) (lat : Nat) : (m.writeS d v lat).rel = m.rel := by
  unfold Member.writeS
  dsimp only
  split <;> simp
@[simp] theorem Member.writeS_id (m : Member) (d : SReg) (v : W64) (lat : Nat) : (m.writeS d v lat).id = m.id := by
  unfold Member.writeS
  dsimp only
  split <;> simp

end Sys2Proof.Machine
end

