-- ==== Sys2Proof/Laws/Ops.lean ====
section
/-! SUPPORT. What each shared operation can do: the issue of a steering instruction and of a vector word, and the shapes built
on it. -/

namespace Sys2Proof.Machine

theorem State.issues_iff (s : State) (wt : Nat) :
    s.issues wt = true ↔ (s.tile s.cur).m.su.wait = .no ∧ s.suOver s.cur wt = false := by
  simp [State.issues]

/-- An issue that its window takes runs its body; a report of the body is raised, otherwise the weight is added, unless the
instruction waits at issue. -/
theorem State.issue_eq {s : State} {wt : Nat} (h : s.issues wt = true) (body : State → State × Option Report) :
    s.issue wt body = match (body s).2 with
      | some rep => (body s).1.raise rep
      | none => if s.waitsNow (body s) then (body s).1 else (body s).1.modM s.cur (fun x => x.addWeight wt) := by
  obtain ⟨hw, ho⟩ := (s.issues_iff wt).1 h
  unfold State.issue
  simp only [ho, hw, SuWait.counted, Bool.false_and, Bool.false_or, Bool.false_eq_true, if_false] <;> rfl

/-- An issue that its window does not take is POWER_OVER with reason 1, unless the instruction waits at issue. -/
theorem State.issue_over {s : State} {wt : Nat} (h : s.suOver s.cur wt = true) (body : State → State × Option Report)
    (hw : s.waitsNow (body s) = false) :
    s.issue wt body = s.raise (powerOver 1 ((s.tile s.cur).m.su.winWith (s.tile s.cur).m.ctr.cycle wt)) := by
  unfold State.issue
  simp [h, hw]

theorem State.issue_next {s t : State} {wt : Nat} {body : State → State × Option Report} (h : s.issues wt = true)
    (hb : body s = (t, none)) (hw : (t.tile s.cur).m.su.wait.atIssue = false) :
    s.issue wt body = t.modM s.cur (fun x => x.addWeight wt) := by
  rw [State.issue_eq h, hb]
  simp [State.waitsNow, hw]

theorem State.issue_raise {s t : State} {wt : Nat} {body : State → State × Option Report} {r : Report} (h : s.issues wt = true)
    (hb : body s = (t, some r)) : s.issue wt body = t.raise r := by
  rw [State.issue_eq h, hb]

/-- The shape that changes the current member: its change, and the weight of the issue. -/
theorem State.opM_eq {s : State} (h : s.issues 1 = true) (f : Member → Member)
    (hf : (f (s.tile s.cur).m).su.wait.atIssue = false) : s.opM f = s.modM s.cur (fun m => (f m).addWeight 1) := by
  unfold State.opM
  rw [State.issue_next h rfl (by simpa using hf), State.modM_modM]

/-- The shape that writes one scalar register. -/
theorem State.opS_eq {s : State} (h : s.issues 1 = true) (d : SReg) (f : Member → W64) (lat len : Nat) :
    s.opS d f lat len = s.modM s.cur (fun m => ((m.writeS d (f m) lat).retire len).addWeight 1) := by
  unfold State.opS
  rw [State.issue_next h rfl (by simp [Member.retire, Member.retireTo, SuWait.atIssue]), State.modM_modM]

/-- The issue of a vector word that its window takes. -/
theorem State.issueV_next {s t : State} {i : Instr} {body : State → State × Option VStop} (h : s.issuesV i = true)
    (hb : body s = (t, none)) : s.issueV i body = t.modM s.cur (fun m => m.addVWeight (vuWeight i)) := by
  simp only [State.issuesV, decide_eq_true_eq] at h
  unfold State.issueV
  simp [Nat.not_lt.2 h, hb]

theorem State.opV_eq {s : State} {i : Instr} (h : s.issuesV i = true) (f : Member → Member) :
    s.opV i f = s.modM s.cur (fun m => ((f m).vNext).addVWeight (vuWeight i)) := by
  unfold State.opV
  rw [State.issueV_next h rfl, State.modM_modM]

end Sys2Proof.Machine
end

