-- ==== Sys2Proof/Laws/Faces.lean ====
section
/-! SUPPORT. Faces: a write of one register changes that register's face and no other, and what the register-writing shapes
leave. -/

namespace Sys2Proof.Machine

theorem r6_inj {i j : BitVec 6} (h : (r6 i).val = (r6 j).val) : i = j := BitVec.eq_of_toNat_eq h
theorem r5_inj {i j : BitVec 5} (h : (r5 i).val = (r5 j).val) : i = j := BitVec.eq_of_toNat_eq h
theorem r4_inj {i j : BitVec 4} (h : (r4 i).val = (r4 j).val) : i = j := BitVec.eq_of_toNat_eq h
theorem r3_inj {i j : BitVec 3} (h : (r3 i).val = (r3 j).val) : i = j := BitVec.eq_of_toNat_eq h

theorem ctl_inj {c e : Ctl} (h : c.index.val = e.index.val) : c = e := by
  revert h; cases c <;> cases e <;> decide

/-- The face of a faced register, widened. -/
def Faced.wide {n : Nat} (f : Faced n) : W4096 × W4096 × Bool := (f.vis.setWidth 4096, f.hid.setWidth 4096, f.w)

/-- A change of one register leaves every other face. -/
theorem Member.face_modReg_ne {m : Member} {r q : DbgReg} (g : (n : Nat) → Faced n → Faced n) (h : q ≠ r) :
    (m.modReg r g).face q = m.face q := by
  unfold Member.modReg
  split
  · rfl
  · cases r <;> cases q <;> simp only [Member.face, SFaces.mod, VFaces.mod] <;>
      (rw [Vector.getElem_set_ne]; intro e; apply h; first
        | exact congrArg _ (r6_inj e).symm
        | exact congrArg _ (r5_inj e).symm
        | exact congrArg _ (r4_inj e).symm
        | exact congrArg _ (r3_inj e).symm
        | exact congrArg _ (ctl_inj e).symm)

theorem Member.face_putReg_ne {m : Member} {r q : DbgReg} (v : W512) (h : q ≠ r) : (m.putReg r v).face q = m.face q := by
  have : (m.putReg r v).face q = (m.modReg r (fun n f => Faced.put f (v.setWidth n))).face q := by
    cases q <;> rfl
  rw [this, Member.face_modReg_ne _ h]

/-- A steering register takes a whole value in its hidden face. -/
theorem Member.face_putReg_s (m : Member) (i : BitVec 6) (v : W512) (h : i ≠ 0) :
    (m.putReg (.s i) v).face (.s i) = ((m.face (.s i)).1, (v.setWidth 64).setWidth 4096, true) := by
  have h0 : ¬ i = 0#6 := h
  simp [Member.putReg, Member.modReg, isConst, h0, Member.face, SFaces.mod, Faced.put]

theorem Member.face_putReg_sup (m : Member) (i : BitVec 6) (v : W512) (h : i ≠ 0) :
    (m.putReg (.sup i) v).face (.sup i) = ((m.face (.sup i)).1, (v.setWidth 64).setWidth 4096, true) := by
  have h0 : ¬ i = 0#6 := h
  simp [Member.putReg, Member.modReg, isConst, h0, Member.face, SFaces.mod, Faced.put]

theorem Member.face_putReg_ctl (m : Member) (c : Ctl) (v : W512) :
    (m.putReg (.ctl c) v).face (.ctl c) = ((m.face (.ctl c)).1, (v.setWidth 64).setWidth 4096, true) := by
  simp [Member.putReg, Member.modReg, isConst, Member.face, SFaces.mod, Faced.put]

@[simp] theorem Member.face_retireTo (m : Member) (pc : W64) (k : Nat) (r : DbgReg) : (m.retireTo pc k).face r = m.face r := by
  cases r <;> rfl
@[simp] theorem Member.face_retire (m : Member) (k : Nat) (r : DbgReg) : (m.retire k).face r = m.face r := by
  cases r <;> rfl
@[simp] theorem Member.face_addWeight (m : Member) (k : Nat) (r : DbgReg) : (m.addWeight k).face r = m.face r := by
  cases r <;> rfl

theorem Member.isConst_sref (m : Member) (d : SReg) : isConst (m.sref d) = (d == 0) := by
  unfold Member.sref; split <;> rfl

/-- A scalar write that lands now. -/
theorem Member.face_writeS_now (m : Member) {d : SReg} (v : W64) (h : d ≠ 0) :
    (m.writeS d v 0).face (m.sref d) = ((m.face (m.sref d)).1, v.setWidth 4096, true) := by
  have hv : ((v.setWidth 512).setWidth 64).setWidth 4096 = v.setWidth 4096 := by simp
  unfold Member.writeS Member.sref
  simp only [if_true]
  split
  · rw [Member.face_putReg_sup _ _ _ h, hv]
  · rw [Member.face_putReg_s _ _ _ h, hv]

/-- A scalar write leaves every other register. -/
theorem Member.face_writeS_ne (m : Member) (d : SReg) (v : W64) (lat : Nat) {q : DbgReg} (h : q ≠ m.sref d) :
    (m.writeS d v lat).face q = m.face q := by
  unfold Member.writeS
  dsimp only
  split
  · exact Member.face_putReg_ne _ h
  · unfold Member.putSlow
    split <;> cases q <;> rfl

/-- A register that is no constant takes a change; a constant keeps its value (R162). -/
theorem Member.putReg_const {m : Member} {r : DbgReg} (h : isConst r = true) (v : W512) : (m.putReg r v).f = m.f := by
  simp [Member.putReg, Member.modReg, h]

theorem Member.putSlow_const {m : Member} {r : DbgReg} (h : isConst r = true) (k v : W4096) (due : Nat) :
    m.putSlow r k v due = m := by
  unfold Member.putSlow
  rw [if_pos (Or.inl h)]

/-- A write to `s0` changes no face. -/
theorem Member.writeS_zero_f (m : Member) (v : W64) (lat : Nat) : (m.writeS 0 v lat).f = m.f := by
  have hc : isConst (m.sref 0) = true := by rw [Member.isConst_sref]; rfl
  unfold Member.writeS
  dsimp only
  split
  · exact Member.putReg_const hc _
  · rw [Member.putSlow_const hc]

theorem fullMask_sref (m : Member) (d : SReg) : fullMask (m.sref d) ≠ 0 := by
  have h : (BitVec.allOnes 64).setWidth 4096 ≠ 0 := by
    intro h
    have := congrArg (fun v => v.getLsbD 0) h
    simp at this
  unfold Member.sref
  split <;> exact h

/-- A slow write of a register that is no constant joins the pending writes. -/
theorem Member.putSlow_eq {m : Member} {r : DbgReg} {k : W4096} (hr : isConst r = false) (hk : k ≠ 0) (v : W4096) (due : Nat) :
    m.putSlow r k v due
      = { m with su := { m.su with slow := m.su.slow ++ [⟨m.su.nextId, r, k, v, due⟩], nextId := m.su.nextId + 1 } } := by
  unfold Member.putSlow
  rw [if_neg]
  rintro (h | h)
  · rw [hr] at h; cases h
  · exact hk h

/-- A slow scalar write: the list of pending writes takes it, and no face changes. -/
theorem Member.writeS_slow (m : Member) {d : SReg} (v : W64) {lat : Nat} (hd : d ≠ 0) (hl : lat ≠ 0) :
    (m.writeS d v lat).f = m.f ∧ (m.writeS d v lat).su.slow
      = m.su.slow ++ [⟨m.su.nextId, m.sref d, fullMask (m.sref d), v.setWidth 4096, m.ctr.cycle + lat⟩] := by
  have hc : isConst (m.sref d) = false := by rw [Member.isConst_sref]; simpa using hd
  unfold Member.writeS
  rw [if_neg hl, Member.putSlow_eq hc (fullMask_sref m d)]
  exact ⟨rfl, rfl⟩

theorem Member.modReg_sref_vf (m : Member) (d : SReg) (g : (n : Nat) → Faced n → Faced n) :
    (m.modReg (m.sref d) g).vf = m.vf := by
  unfold Member.modReg Member.sref
  (repeat' split) <;> rfl

theorem Member.writeS_rest (m : Member) (d : SReg) (v : W64) (lat : Nat) :
    (m.writeS d v lat).vf = m.vf ∧ (m.writeS d v lat).su.pc = m.su.pc ∧ (m.writeS d v lat).su.inHandler = m.su.inHandler
      ∧ (m.writeS d v lat).ctr = m.ctr ∧ (m.writeS d v lat).su.stores = m.su.stores := by
  unfold Member.writeS
  dsimp only
  split
  · refine ⟨?_, ?_, ?_, ?_, ?_⟩
    · exact Member.modReg_sref_vf m d _
    all_goals simp [Member.putReg]
  · unfold Member.putSlow; split <;> simp

/-- What the shape of an instruction that writes one scalar register does (R179). -/
theorem State.opS_wrote {s : State} (h : s.issues 1 = true) (d : SReg) (f : Member → W64) (lat len : Nat) :
    wrote s (s.opS d f lat len) d (f (s.tile s.cur).m) lat len := by
  rw [State.opS_eq h]
  generalize hm : (s.tile s.cur).m = m
  unfold wrote wentOn
  simp only [State.tile_modM, hm]
  obtain ⟨-, hp, hh, hc, -⟩ := m.writeS_rest d (f m) lat
  refine ⟨⟨?_, ?_, ?_, ?_, ?_⟩, ?_⟩
  · simp [Member.retire, Member.retireTo, Member.addWeight, hp]
  · simp [Member.retire, Member.retireTo, Member.addWeight, hc]
  · simp [Member.retire, Member.retireTo, Member.addWeight]
  · simp [Member.retire, Member.retireTo, Member.addWeight, hh]
  · simp [Member.retire, Member.retireTo, Member.addWeight, hh, hc]; split <;> rfl
  · split
    · rename_i hd; subst hd; exact m.writeS_zero_f (f m) lat
    · rename_i hd
      split
      · rename_i hl; subst hl
        unfold hiddenSet
        simp [Member.face_writeS_now _ _ hd]
      · rename_i hl
        have := m.writeS_slow (f m) hd hl
        refine ⟨by simp [this.1], ?_⟩
        simp [Member.retire, Member.retireTo, Member.addWeight, this.2]

end Sys2Proof.Machine
end

