-- ==== Sys2Proof/Laws/Memory.lean ====
section
/-! SUPPORT. Sparse maps: every operation keeps the canonical form, and reads after writes. -/

namespace Sys2Proof.Machine

variable {α : Type} [DecidableEq α] (d : α)

/-! ### The canonical form -/

theorem SMap.wfFrom_cons (lo k : Nat) (v : α) (m : SMap α) :
    SMap.wfFrom d lo ((k, v) :: m) = true ↔ lo ≤ k ∧ v ≠ d ∧ SMap.wfFrom d (k + 1) m = true := by
  simp [SMap.wfFrom, and_assoc]

/-- A lower bound may be lowered. -/
theorem SMap.wfFrom_mono {lo lo' : Nat} {m : SMap α} (h : lo' ≤ lo) (w : SMap.wfFrom d lo m = true) :
    SMap.wfFrom d lo' m = true := by
  cases m with
  | nil => rfl
  | cons e m =>
    obtain ⟨k, v⟩ := e
    rw [SMap.wfFrom_cons] at w ⊢
    exact ⟨by omega, w.2⟩

theorem SMap.wf_nil : SMap.wf d ([] : SMap α) = true := rfl

theorem SMap.wfFrom_wf {lo : Nat} {m : SMap α} (w : SMap.wfFrom d lo m = true) : SMap.wf d m = true :=
  SMap.wfFrom_mono d (Nat.zero_le lo) w

theorem SMap.wfFrom_erase (a : Nat) : ∀ {lo : Nat} {m : SMap α}, SMap.wfFrom d lo m = true →
    SMap.wfFrom d lo (SMap.erase m a) = true
  | _, [], _ => rfl
  | lo, (k, v) :: m, w => by
    rw [SMap.wfFrom_cons] at w
    unfold SMap.erase
    split
    · exact SMap.wfFrom_mono d (by omega) w.2.2
    · rw [SMap.wfFrom_cons]
      exact ⟨w.1, w.2.1, SMap.wfFrom_erase a w.2.2⟩

theorem SMap.wfFrom_insert {x : α} (hx : x ≠ d) (a : Nat) : ∀ {lo : Nat} {m : SMap α}, lo ≤ a →
    SMap.wfFrom d lo m = true → SMap.wfFrom d lo (SMap.insert m a x) = true
  | lo, [], ha, _ => by
    unfold SMap.insert
    rw [SMap.wfFrom_cons]
    exact ⟨ha, hx, rfl⟩
  | lo, (k, v) :: m, ha, w => by
    rw [SMap.wfFrom_cons] at w
    unfold SMap.insert
    split
    · rw [SMap.wfFrom_cons, SMap.wfFrom_cons]
      exact ⟨ha, hx, by omega, w.2⟩
    · split
      · rename_i h
        subst h
        rw [SMap.wfFrom_cons]
        exact ⟨ha, hx, w.2.2⟩
      · rw [SMap.wfFrom_cons]
        exact ⟨w.1, w.2.1, SMap.wfFrom_insert hx a (by omega) w.2.2⟩

/-- A write keeps the canonical form. -/
theorem SMap.wf_set {m : SMap α} (a : Nat) (x : α) (w : SMap.wf d m = true) : SMap.wf d (SMap.set d m a x) = true := by
  unfold SMap.set
  split
  · exact SMap.wfFrom_erase d a w
  · rename_i h
    exact SMap.wfFrom_insert d h a (Nat.zero_le a) w

theorem SMap.wfFrom_filter (p : Nat × α → Bool) : ∀ {lo : Nat} {m : SMap α}, SMap.wfFrom d lo m = true →
    SMap.wfFrom d lo (m.filter p) = true
  | _, [], _ => rfl
  | lo, (k, v) :: m, w => by
    rw [SMap.wfFrom_cons] at w
    rw [List.filter_cons]
    split
    · rw [SMap.wfFrom_cons]
      exact ⟨w.1, w.2.1, SMap.wfFrom_filter p w.2.2⟩
    · exact SMap.wfFrom_mono d (by omega) (SMap.wfFrom_filter p w.2.2)

/-- Dropping entries keeps the canonical form. -/
theorem SMap.wf_filter (p : Nat × α → Bool) {m : SMap α} (w : SMap.wf d m = true) : SMap.wf d (m.filter p) = true :=
  SMap.wfFrom_filter d p w

theorem SMap.wfFrom_append {mid : Nat} {b : SMap α} (hb : SMap.wfFrom d mid b = true) : ∀ {lo : Nat} {a : SMap α}, lo ≤ mid →
    SMap.wfFrom d lo a = true → (∀ e ∈ a, e.1 < mid) → SMap.wfFrom d lo (a ++ b) = true
  | _, [], h, _, _ => SMap.wfFrom_mono d h hb
  | lo, (k, v) :: a, _, w, hm => by
    rw [SMap.wfFrom_cons] at w
    rw [List.cons_append, SMap.wfFrom_cons]
    have hk : k < mid := hm (k, v) (by simp)
    exact ⟨w.1, w.2.1, SMap.wfFrom_append hb (by omega) w.2.2 (fun e he => hm e (by simp [he]))⟩

theorem SMap.wfFrom_filter_ge (p : Nat × α → Bool) {k : Nat} (hp : ∀ e, p e = true → k ≤ e.1) : ∀ {lo : Nat} {m : SMap α},
    SMap.wfFrom d lo m = true → SMap.wfFrom d k (m.filter p) = true
  | _, [], _ => rfl
  | lo, (j, v) :: m, w => by
    rw [SMap.wfFrom_cons] at w
    rw [List.filter_cons]
    split
    · rename_i h
      rw [SMap.wfFrom_cons]
      exact ⟨hp _ h, w.2.1, SMap.wfFrom_filter d p w.2.2⟩
    · exact SMap.wfFrom_filter_ge p hp w.2.2

/-- Writing bytes keeps the canonical form. -/
theorem putBytes_wf (bs : List Byte) : ∀ {m : SMap Byte} (a : Nat), SMap.wf blankByte m = true →
    SMap.wf blankByte (putBytes m a bs) = true := by
  induction bs with
  | nil => exact fun _ w => w
  | cons b bs ih => exact fun a w => ih (a + 1) (SMap.wf_set blankByte a b w)

/-! ### Reads after writes -/

omit [DecidableEq α] in
theorem SMap.get_insert (a b : Nat) (x : α) : ∀ m : SMap α,
    SMap.get d (SMap.insert m a x) b = if b = a then x else SMap.get d m b
  | [] => by simp [SMap.insert, SMap.get, eq_comm]
  | (k, v) :: m => by
    unfold SMap.insert
    split
    · simp [SMap.get, eq_comm]
    · split
      · rename_i h
        subst h
        by_cases e : a = b <;> simp [SMap.get, e, eq_comm]
      · rename_i h1 h2
        simp only [SMap.get, SMap.get_insert a b x m]
        by_cases e : k = b
        · have : b ≠ a := by omega
          simp [e, this]
        · simp [e]

omit [DecidableEq α] in
theorem SMap.get_erase_ne (a b : Nat) (h : b ≠ a) : ∀ m : SMap α, SMap.get d (SMap.erase m a) b = SMap.get d m b
  | [] => rfl
  | (k, v) :: m => by
    unfold SMap.erase
    split
    · rename_i e
      have : ¬ k = b := by omega
      simp [SMap.get, this]
    · simp only [SMap.get, SMap.get_erase_ne a b h m]

/-- A key below the first listed one reads as the default. -/
theorem SMap.get_below : ∀ {lo : Nat} {m : SMap α} {a : Nat}, SMap.wfFrom d lo m = true → a < lo → SMap.get d m a = d
  | _, [], _, _, _ => rfl
  | lo, (k, v) :: m, a, w, h => by
    rw [SMap.wfFrom_cons] at w
    have : ¬ k = a := by omega
    simp only [SMap.get, this, if_false]
    exact SMap.get_below w.2.2 (by omega)

theorem SMap.get_erase (a : Nat) : ∀ {lo : Nat} {m : SMap α}, SMap.wfFrom d lo m = true →
    SMap.get d (SMap.erase m a) a = d
  | _, [], _ => rfl
  | lo, (k, v) :: m, w => by
    rw [SMap.wfFrom_cons] at w
    unfold SMap.erase
    split
    · rename_i e
      exact SMap.get_below d w.2.2 (by omega)
    · rename_i e
      simp only [SMap.get, e, if_false]
      exact SMap.get_erase a w.2.2

/-- One write of a map in canonical form: the key written reads as written, every other as before. -/
theorem SMap.get_set {m : SMap α} (w : SMap.wf d m = true) (a b : Nat) (x : α) :
    SMap.get d (SMap.set d m a x) b = if b = a then x else SMap.get d m b := by
  unfold SMap.set
  split
  · rename_i hx
    by_cases e : b = a
    · subst e
      simp [SMap.get_erase d b w, hx]
    · simp [e, SMap.get_erase_ne d a b e]
  · exact SMap.get_insert d a b x m

theorem byteAt_set {m : SMap Byte} (w : SMap.wf blankByte m = true) (a b : Nat) (x : Byte) :
    byteAt (SMap.set blankByte m a x) b = if b = a then x else byteAt m b :=
  SMap.get_set blankByte w a b x

end Sys2Proof.Machine
end

