-- ==== Sys2Proof/Laws/KeepA.lean ====
section
/-! SUPPORT. The canonical form of the byte maps is kept by the shared operations (Safety.State.memOk). -/

namespace Sys2Proof.Machine

/-- The canonical form after a step's answer. -/
def ansMemOk : Ans → Bool
  | .next t => t.memOk
  | .fault _ | .refused _ => true

@[simp] theorem ansMemOk_next (t : State) : ansMemOk (.next t) = t.memOk := rfl

theorem foldl_memOk {α : Type} (f : State → α → State) (l : List α) {s : State} (h : s.memOk = true)
    (hf : ∀ st x, st.memOk = true → (f st x).memOk = true) : (l.foldl f s).memOk = true := by
  induction l generalizing s with
  | nil => exact h
  | cons a l ih => exact ih (hf s a h)

@[simp] theorem foldl_memOk_eq {α : Type} (f : State → α → State) (l : List α) (s : State)
    (hf : ∀ st x, (f st x).memOk = st.memOk) : (l.foldl f s).memOk = s.memOk := by
  induction l generalizing s with
  | nil => rfl
  | cons a l ih => exact (ih _).trans (hf s a)

theorem State.memOk_iff (s : State) : s.memOk = true ↔ SMap.wf blankByte s.mem = true ∧ SMap.wf blankByte s.mirror = true ∧
    SMap.wf blankByte s.upload = true := by
  simp [State.memOk, and_assoc]

theorem State.memOk_mem {s t : State} (hk : s.memOk = true) (h1 : SMap.wf blankByte t.mem = true)
    (h2 : t.mirror = s.mirror) (h3 : t.upload = s.upload) : t.memOk = true := by
  rw [State.memOk_iff] at *
  rw [h2, h3]
  exact ⟨h1, hk.2⟩

theorem State.memOk_put {s : State} (hk : s.memOk = true) (a : Nat) (bs : List Byte) :
    SMap.wf blankByte (putBytes s.mem a bs) = true :=
  putBytes_wf bs a ((State.memOk_iff s).1 hk).1

/-- The form depends on three byte maps alone. -/
@[simp] theorem State.memOk_mk (s : State) (cfg : CfgImage) (sched : List Turn) (free : Nat) (cur : TileId) (tiles
    : Vector Tile 128) (ms : MemSide) (shelves : Vector Shelf 8) (events : SMap Event) (eventsMirror : SMap Event)
    (eventSeq : W32) (fleet : W64) (fleetErr : Bool) (fleetSync : FleetSync) (fabric : Nat) (fab : Fab)
    (closing : Option TileId) (links : Vector Link 18) (dies : Vector Die 2)
    (ports : Vector Port 2) (hlock : Vector (Option PortId) 32) (ceilReq : W32) (seize : Seize) (slots : SMap Slot)
    (gangs : List Gang) (nextGang : Nat) (contQ : List Nat) (pushes : List PushReq) (tposts : List TilePost) (tfail :
    BitVec 128) (fw : Firmware) (powered : Bool) :
    State.memOk {
      cfg := cfg, sched := sched, free := free, cur := cur, tiles := tiles, mem := s.mem, mirror := s.mirror, ms :=
      ms, shelves := shelves, events := events, eventsMirror := eventsMirror, eventSeq := eventSeq, fleet := fleet,
      fleetErr := fleetErr, fleetSync := fleetSync, fabric := fabric, fab := fab, closing := closing, links := links, dies := dies, ports := ports, upload := s.upload, hlock
      := hlock, ceilReq := ceilReq, seize := seize, slots := slots, gangs := gangs, nextGang := nextGang, contQ :=
      contQ, pushes := pushes, tposts := tposts, tfail := tfail, fw := fw, powered := powered }
      = s.memOk := rfl

theorem State.memOk_congr {s t : State} (h1 : t.mem = s.mem) (h2 : t.mirror = s.mirror) (h3 : t.upload = s.upload) :
    t.memOk = s.memOk := by
  unfold State.memOk
  rw [h1, h2, h3]

@[simp] theorem State.setTile_memOk (s : State) (t : TileId) (x : Tile) : (State.setTile s t x).memOk = s.memOk := rfl

@[simp] theorem State.modTile_memOk (s : State) (t : TileId) (f : Tile → Tile) : (State.modTile s t f).memOk = s.memOk := rfl

@[simp] theorem State.modM_memOk (s : State) (t : TileId) (f : Member → Member) : (State.modM s t f).memOk = s.memOk := rfl

@[simp] theorem State.logReplay_memOk (s : State) (t : TileId) (r : LogRec) :
    (State.logReplay s t r).memOk = s.memOk := by
  unfold State.logReplay
  rfl

@[simp] theorem State.modDie_memOk (s : State) (d : DieId) (f : Die → Die) : (State.modDie s d f).memOk = s.memOk := rfl

@[simp] theorem State.modLink_memOk (s : State) (l : LinkId) (f : Link → Link) : (State.modLink s l f).memOk = s.memOk := rfl

@[simp] theorem State.modPort_memOk (s : State) (p : PortId) (f : Port → Port) : (State.modPort s p f).memOk = s.memOk := rfl

@[simp] theorem State.tickFree_memOk (s : State) :
    (State.tickFree s).2.memOk = s.memOk := by
  unfold State.tickFree
  rfl

@[simp] theorem State.freeBit_memOk (s : State) :
    (State.freeBit s).2.memOk = s.memOk := by
  unfold State.freeBit
  rfl

@[simp] theorem State.newFabric_memOk (s : State) :
    (State.newFabric s).memOk = s.memOk := by
  unfold State.newFabric
  rfl

@[simp] theorem State.inCycle_memOk (s : State) (ok : Fab → Bool) :
    (State.inCycle s ok).memOk = s.memOk := by
  unfold State.inCycle
  ((repeat' split) <;> rfl)

@[simp] theorem State.logEvent_memOk (s : State) (code src : Half) (data : BitVec 128) :
    (State.logEvent s code src data).memOk = s.memOk := by
  unfold State.logEvent
  simp

@[simp] theorem State.markWrite_memOk (s : State) (a : Nat) :
    (State.markWrite s a).memOk = s.memOk := by
  unfold State.markWrite
  ((repeat' split) <;> rfl)

@[simp] theorem State.wake_memOk (s : State) (a n : Nat) : (s.wake a n).memOk = s.memOk := by
  unfold State.wake
  exact foldl_memOk_eq _ _ _ (fun st x => rfl)

@[simp] theorem State.putPcb_memOk (s : State) (p : Nat) (v : W512) :
    (State.putPcb s p v).memOk = s.memOk := by
  unfold State.putPcb
  rfl

@[simp] theorem State.putQcb_memOk (s : State) (q : Nat) (v : W512) :
    (State.putQcb s q v).memOk = s.memOk := by
  unfold State.putQcb
  rfl

@[simp] theorem State.shelfPut_memOk (s : State) (n off : Nat) (bs : List Byte) :
    (s.shelfPut n off bs).memOk = s.memOk := by
  induction bs generalizing s off with
  | nil => rfl
  | cons b bs ih =>
    unfold State.shelfPut
    rw [ih]
    split
    · rfl
    · split <;> simp

@[simp] theorem State.readAt_memOk (s : State) (a n : Nat) :
    (State.readAt s a n).1.memOk = s.memOk := by
  unfold State.readAt
  ((repeat' split) <;> rfl)

@[simp] theorem State.dramPut_memOk (s : State) (a : Nat) (bs : List Byte) (hk : s.memOk = true) :
    (s.dramPut a bs).memOk = true := by
  have h1 : (State.markWrite { s with mem := putBytes s.mem a bs } a).memOk = true := by
    rw [State.markWrite_memOk]
    exact State.memOk_mem hk (State.memOk_put hk a bs) rfl rfl
  unfold State.dramPut
  exact h1

@[simp] theorem State.logSaved_memOk (s : State) (k : Nat) (sl : Slot) (r : LogRec) : (s.logSaved k sl r).memOk = s.memOk := by
  unfold State.logSaved
  split <;> rfl

@[simp] theorem State.savedPut_memOk (s : State) (k : Nat) (sl : Slot) (l a : Nat) (bs : List Byte) (hk : s.memOk = true) :
    (s.savedPut k sl l a bs).memOk = true := by
  have h1 : (if k < slotKeys then s.dramPut (s.slotByte k (l * 256 + a % 256)) bs else s).memOk = true := by
    split
    · exact State.dramPut_memOk _ _ _ hk
    · exact hk
  unfold State.savedPut
  dsimp only
  rw [State.logSaved_memOk, State.memOk_mk]
  exact h1

@[simp] theorem State.putAt_memOk (s : State) (a : Nat) (bs : List Byte) (hk : s.memOk = true) :
    (s.putAt a bs).1.memOk = true := by
  unfold State.putAt
  split
  · exact State.memOk_mem hk (State.memOk_put hk a bs) rfl rfl
  · simp [hk]
  · exact hk
  · dsimp only
    (repeat' split) <;> first | exact hk | simp [hk]

@[simp] theorem State.pointPut_memOk (s : State) (a : Nat) (bs : List Byte) (hk : s.memOk = true) :
    (State.pointPut s a bs).memOk = true := by
  unfold State.pointPut
  (try dsimp only); (repeat' split) <;> simp [hk]

@[simp] theorem State.joinNote_memOk (s : State) (src : Half) (a : Nat) : (s.joinNote src a).memOk = s.memOk := by
  unfold State.joinNote
  split <;> simp

@[simp] theorem State.writeAt_memOk (s : State) (src : Half) (a : Nat) (mt : BitVec 2) (wakes : Bool) (bs : List Byte) (hk : s.memOk = true) :
    (State.writeAt s src a mt wakes bs).1.memOk = true := by
  unfold State.writeAt
  (try dsimp only); (repeat' split) <;> simp [hk]

@[simp] theorem State.readT_memOk (s : State) (t : TileId) (tgt : Target) (n : Nat) :
    (State.readT s t tgt n).1.memOk = s.memOk := by
  unfold State.readT
  (repeat' split) <;> simp

@[simp] theorem State.touch_memOk (s : State) (t : TileId) (tgt : Target) :
    (State.touch s t tgt).memOk = s.memOk := by
  unfold State.touch
  (try dsimp only); (repeat' split) <;> simp

@[simp] theorem State.touchAt_memOk (s : State) (a : Nat) :
    (State.touchAt s a).memOk = s.memOk := by
  unfold State.touchAt
  (try dsimp only); (repeat' split) <;> simp 

@[simp] theorem State.writeT_memOk (s : State) (t : TileId) (tgt : Target) (wakes : Bool) (bs : List Byte) (hk : s.memOk = true) :
    (State.writeT s t tgt wakes bs).1.memOk = true := by
  unfold State.writeT
  (try dsimp only); (repeat' split) <;> simp [hk]

@[simp] theorem State.wakeUnwatched_memOk (s : State) :
    (State.wakeUnwatched s).memOk = s.memOk := by
  unfold State.wakeUnwatched
  simp 

@[simp] theorem State.unitRenew_memOk (s : State) (t : TileId) (tgt : Target) :
    (State.unitRenew s t tgt).memOk = s.memOk := by
  unfold State.unitRenew
  ((repeat' split) <;> rfl)

@[simp] theorem State.wordRenew_memOk (s : State) (t : TileId) (tgt : Target) :
    (State.wordRenew s t tgt).memOk = s.memOk := by
  unfold State.wordRenew
  ((repeat' split) <;> rfl)

@[simp] theorem State.renew_memOk (s : State) (t : TileId) (ws : List (Target × Nat)) :
    (s.renew t ws).memOk = s.memOk := by
  unfold State.renew
  apply foldl_memOk_eq
  intro st x
  dsimp only
  (repeat' split) <;> simp

@[simp] theorem State.logRead_memOk (s : State) (t : TileId) (va : W64) (tgt : Target) :
    (State.logRead s t va tgt).memOk = s.memOk := by
  unfold State.logRead
  split <;> rfl

@[simp] theorem State.translate_memOk (s : State) (t : TileId) (c : EngCls) (asid : BitVec 12) (va : W64) (kind : AccKind) (handler : Bool) :
    (State.translate s t c asid va kind handler).1.memOk = s.memOk := by
  unfold State.translate
  (try dsimp only); (repeat' split) <;> simp

@[simp] theorem State.routeT_memOk (s : State) (t : TileId) (c : EngCls) (asid : BitVec 12) (va : W64) (kind : AccKind) (handler : Bool) :
    (State.routeT s t c asid va kind handler).1.memOk = s.memOk := by
  unfold State.routeT
  (try dsimp only); (repeat' split) <;> simp

@[simp] theorem State.fillLine_memOk (s : State) (t : TileId) (l : Nat) :
    (State.fillLine s t l).memOk = s.memOk := by
  unfold State.fillLine
  (try dsimp only); (repeat' split) <;> simp

@[simp] theorem State.writeBack_memOk (s : State) (t : TileId) (l : Nat) (clearI : Bool) (hk : s.memOk = true) :
    (s.writeBack t l clearI).memOk = true := by
  unfold State.writeBack
  dsimp only
  split
  · split
    · rw [State.modM_memOk]
      have h1 (a : Nat) (bs : List Byte) : (State.markWrite { s with mem := putBytes s.mem a bs } a).memOk = true := by
        rw [State.markWrite_memOk]
        exact State.memOk_mem hk (State.memOk_put hk _ _) rfl rfl
      have h2 (a : Nat) (bs : List Byte) (ms : MemSide) :
          State.memOk { State.markWrite { s with mem := putBytes s.mem a bs } a with ms := ms } = true := h1 a bs
      exact h2 _ _ _
    · exact hk
  · exact hk

@[simp] theorem State.dropRecord_memOk (s : State) (t : TileId) (l a : Nat) :
    (State.dropRecord s t l a).memOk = s.memOk := by
  unfold State.dropRecord
  ((repeat' split) <;> rfl)

@[simp] theorem State.releaseLine_memOk (s : State) (t : TileId) (l : Nat) (hk : s.memOk = true) :
    (s.releaseLine t l).memOk = true := by
  have h1 := State.writeBack_memOk s t l false hk
  unfold State.releaseLine
  dsimp only
  rw [State.modM_memOk]
  split
  · rw [State.dropRecord_memOk]
    exact h1
  · exact h1

@[simp] theorem State.postOwn_memOk (s : State) (t : TileId) (n : BitVec 8) (v : Nat) (by_ : Poster) :
    (State.postOwn s t n v by_).memOk = s.memOk := by
  unfold State.postOwn
  (try dsimp only); (repeat' split) <;> simp

@[simp] theorem State.post_memOk (s : State) (t : TileId) (n : BitVec 8) (v : Nat) (by_ : Poster) :
    (State.post s t n v by_).memOk = s.memOk := by
  unfold State.post
  (try dsimp only); (repeat' split) <;> simp

@[simp] theorem State.request_memOk (s : State) (t : TileId) :
    (State.request s t).memOk = s.memOk := by
  unfold State.request
  simp

@[simp] theorem State.postNow_memOk (s : State) (t : TileId) (c : Cmd) (pcl : BitVec 4) :
    (State.postNow s t c pcl).memOk = s.memOk := by
  unfold State.postNow
  (repeat' split) <;> simp

@[simp] theorem State.applyRel_memOk (s : State) (t : TileId) : (s.applyRel t).memOk = s.memOk := by
  unfold State.applyRel
  refine foldl_memOk_eq _ _ _ (fun st x => ?_)
  split
  · rw [State.postNow_memOk, State.modM_memOk]
  · rfl

@[simp] theorem State.modSlot_memOk (s : State) (k : Nat) (f : Slot → Slot) : (State.modSlot s k f).memOk = s.memOk := rfl

@[simp] theorem State.landTilePost_memOk (s : State) (src : TileId) (level : Option Nat) (dst : TileId) (job : BitVec 12) (n : BitVec 8) (v : Nat) :
    (State.landTilePost s src level dst job n v).memOk = s.memOk := by
  unfold State.landTilePost
  (repeat' split) <;> simp

@[simp] theorem State.setLevel_memOk (s : State) (k id : Nat) (e : BitVec 256) (hk : s.memOk = true) :
    (State.setLevel s k id e).memOk = true := by
  unfold State.setLevel
  simp [hk]

@[simp] theorem State.countLevel_memOk (s : State) (r : W512) (k : Nat) (hk : s.memOk = true) :
    (State.countLevel s r k).memOk = true := by
  unfold State.countLevel
  simp [hk]

@[simp] theorem State.countRec_memOk (s : State) (r : W512) (hk : s.memOk = true) : (s.countRec r).memOk = true := by
  unfold State.countRec
  exact foldl_memOk _ _ hk (fun st k h => State.countLevel_memOk _ _ _ h)

@[simp] theorem State.uncountRec_memOk (s : State) (r : W512) (hk : s.memOk = true) : (s.uncountRec r).memOk = true := by
  unfold State.uncountRec
  exact foldl_memOk _ _ hk (fun st k h => State.setLevel_memOk _ _ _ _ h)

@[simp] theorem State.finishLevel_memOk (s : State) (r : W512) (k : Nat) (hk : s.memOk = true) :
    (s.finishLevel r k).memOk = true := by
  unfold State.finishLevel
  dsimp only
  split
  · split
    · rw [State.landTilePost_memOk]
      exact State.setLevel_memOk _ _ _ _ hk
    · exact State.setLevel_memOk _ _ _ _ hk
  · exact State.setLevel_memOk _ _ _ _ hk

@[simp] theorem State.finishRec_memOk (s : State) (r : W512) (hk : s.memOk = true) : (s.finishRec r).memOk = true := by
  unfold State.finishRec
  exact foldl_memOk _ _ hk (fun st k h => State.finishLevel_memOk _ _ _ h)

@[simp] theorem State.failRec_memOk (s : State) (r : W512) (hk : s.memOk = true) : (s.failRec r).memOk = true := by
  unfold State.failRec
  exact foldl_memOk _ _ hk (fun st k h => State.setLevel_memOk _ _ _ _ h)

@[simp] theorem State.launchFail_memOk (s : State) (d : DieId) (addr : Nat) (reason : Nat) :
    (State.launchFail s d addr reason).memOk = s.memOk := by
  unfold State.launchFail
  simp

@[simp] theorem State.setQcb_memOk (s : State) (q : BitVec 12) (c : W512) :
    (State.setQcb s q c).memOk = s.memOk := by
  unfold State.setQcb
  rfl

@[simp] theorem State.pushQueue_memOk (s : State) (q : BitVec 12) (r : W512) (orig : Nat) (countDrop : Bool) (hk : s.memOk = true) :
    (State.pushQueue s q r orig countDrop).1.memOk = true := by
  unfold State.pushQueue
  (try dsimp only); (repeat' split) <;> simp [hk]

@[simp] theorem State.popQueue_memOk (s : State) (q : BitVec 12) :
    (State.popQueue s q).memOk = s.memOk := by
  unfold State.popQueue
  rfl

@[simp] theorem State.pushOrHold_memOk (s : State) (p : PushReq) (hk : s.memOk = true) :
    (State.pushOrHold s p).memOk = true := by
  unfold State.pushOrHold
  (try dsimp only); (repeat' split) <;> simp [hk]

@[simp] theorem State.setPcb_memOk (s : State) (p : BitVec 8) (c : W512) :
    (State.setPcb s p c).memOk = s.memOk := by
  unfold State.setPcb
  rfl

@[simp] theorem State.setPoolBit_memOk (s : State) (c : W512) (i : Nat) (b : Bool) (hk : s.memOk = true) :
    (State.setPoolBit s c i b).memOk = true := by
  unfold State.setPoolBit
  simp [hk]

@[simp] theorem State.poolGet_memOk (s : State) (p : BitVec 8) (hk : s.memOk = true) :
    (State.poolGet s p).1.memOk = true := by
  unfold State.poolGet
  (try dsimp only); (repeat' split) <;> simp [hk]

@[simp] theorem State.poolPut_memOk (s : State) (p : BitVec 8) (a : W64) (hk : s.memOk = true) :
    (State.poolPut s p a).memOk = true := by
  unfold State.poolPut
  (try dsimp only); (repeat' split) <;> simp [hk]

@[simp] theorem State.poolSetup_memOk (s : State) (p : BitVec 8) (hk : s.memOk = true) : (s.poolSetup p).memOk = true := by
  unfold State.poolSetup
  dsimp only
  rw [State.setPcb_memOk]
  exact foldl_memOk _ _ (foldl_memOk _ _ hk (fun st i h => State.pointPut_memOk _ _ _ h))
    (fun st i h => State.pointPut_memOk _ _ _ h)

@[simp] theorem State.tideDone_memOk (s : State) (d : DieId) :
    (State.tideDone s d).memOk = s.memOk := by
  unfold State.tideDone
  (try dsimp only); (repeat' split) <;> simp

@[simp] theorem State.tideTurn_memOk (s : State) (d : DieId) :
    (State.tideTurn s d).memOk = s.memOk := by
  unfold State.tideTurn
  simp 

@[simp] theorem State.tideFinish_memOk (s : State) (d : DieId) (k : Nat) :
    (State.tideFinish s d k).memOk = s.memOk := by
  unfold State.tideFinish
  (try dsimp only); (repeat' split) <;> simp

@[simp] theorem State.finishWhole_memOk (s : State) (r : W512) (orig : Nat) (hk : s.memOk = true) :
    (State.finishWhole s r orig).memOk = true := by
  unfold State.finishWhole
  (try dsimp only); (repeat' split) <;> simp [hk]

@[simp] theorem State.makeReady_memOk (s : State) (r : W512) (orig : Nat) (hk : s.memOk = true) :
    (s.makeReady r orig).memOk = true := by
  unfold State.makeReady
  split
  · exact State.finishWhole_memOk _ _ _ hk
  · exact hk

@[simp] theorem State.finishGang_memOk (s : State) (g : Gang) (hk : s.memOk = true) :
    (State.finishGang s g).memOk = true := by
  unfold State.finishGang
  simp [hk]

@[simp] theorem State.discardRec_memOk (s : State) (r : W512) (orig : Nat) (hk : s.memOk = true) :
    (State.discardRec s r orig).memOk = true := by
  unfold State.discardRec
  (try dsimp only); (repeat' split) <;> simp [hk]

@[simp] theorem State.endMember_memOk (s : State) (t : TileId) (hk : s.memOk = true) :
    (State.endMember s t).memOk = true := by
  unfold State.endMember
  (try dsimp only); (repeat' split) <;> simp [hk]

@[simp] theorem State.abortMember_memOk (s : State) (t : TileId) :
    (State.abortMember s t).memOk = s.memOk := by
  unfold State.abortMember
  rfl

@[simp] theorem State.landMail_memOk (s : State) (t : TileId) (ws : List MbWrite) :
    (State.landMail s t ws).memOk = s.memOk := by
  unfold State.landMail
  simp

@[simp] theorem State.logPoison_memOk (s : State) (src : Half) (pa : Nat) :
    (State.logPoison s src pa).memOk = s.memOk := by
  unfold State.logPoison
  simp

@[simp] theorem State.setPend_memOk (s : State) (t : TileId) (ws : List Nat) :
    (State.setPend s t ws).memOk = s.memOk := by
  unfold State.setPend
  ((repeat' split) <;> rfl)

@[simp] theorem State.clearPend_memOk (s : State) (t : TileId) (ws : List Nat) :
    (State.clearPend s t ws).memOk = s.memOk := by
  unfold State.clearPend
  rfl

@[simp] theorem State.performStore_memOk (s : State) (t : TileId) (x : SuStore) (hk : s.memOk = true) :
    (State.performStore s t x).memOk = true := by
  unfold State.performStore
  (try dsimp only); (repeat' split) <;> simp [hk]

@[simp] theorem State.landStore_memOk (s : State) (t : TileId) (x : SuStore) (hk : s.memOk = true) :
    (State.landStore s t x).memOk = true := by
  unfold State.landStore
  (try dsimp only); (repeat' split) <;> simp [hk]

@[simp] theorem State.landLoad_memOk (s : State) (t : TileId) (x : SuLoad) (v : W512) (poison : Bool) :
    (s.landLoad t x v poison).memOk = s.memOk := by
  unfold State.landLoad
  dsimp only
  split
  · rw [State.modM_memOk, State.logPoison_memOk]
  · split
    · split
      · rfl
      · rfl
    · rfl
    · rfl

@[simp] theorem State.loadWords_memOk (s : State) (t : TileId) (x : SuLoad) (ks : List Nat) :
    (s.loadWords t x ks).1.memOk = s.memOk := by
  induction ks generalizing s with
  | nil => rfl
  | cons k ks ih =>
    have h (f : List (Option Byte)) (n : Nat) (tgt : Target) : (if f.length = n ∧ f.all Option.isSome = true then
        (s, Res.ok (List.replicate n 0)) else s.readT t tgt n).1.memOk = s.memOk := by
      split
      · rfl
      · exact State.readT_memOk _ _ _ _
    unfold State.loadWords
    dsimp only
    split
    · exact (ih _).trans (h _ _ _)
    · exact h _ _ _

@[simp] theorem State.readLoad_memOk (s : State) (t : TileId) (x : SuLoad) :
    (State.readLoad s t x).1.memOk = s.memOk := by
  have h : (if s.loadBlocked t x = true then (s, Res.wait) else s.loadWords t x (List.range ((x.n + 7) / 8))).1.memOk = s.memOk := by
    split
    · rfl
    · exact State.loadWords_memOk _ _ _ _
  unfold State.readLoad
  dsimp only
  split <;> exact h

@[simp] theorem State.pendLoad_memOk (s : State) (t : TileId) (x : SuLoad) :
    (State.pendLoad s t x).memOk = s.memOk := by
  unfold State.pendLoad
  rfl

@[simp] theorem State.portLoad_memOk (s : State) (t : TileId) (x : SuLoad) :
    (State.portLoad s t x).memOk = s.memOk := by
  unfold State.portLoad
  (try dsimp only); (repeat' split) <;> simp

@[simp] theorem State.readLanes_memOk (s : State) (t : TileId) (n : Nat) (ok : Target → Bool) (as : List LaneAcc) :
    (s.readLanes t n ok as).1.memOk = s.memOk := by
  induction as generalizing s with
  | nil => rfl
  | cons a as ih =>
    unfold State.readLanes
    split
    · dsimp only
      split <;> rw [ih] <;> (repeat' split) <;> first | rw [State.logRead_memOk, State.readT_memOk] | rw [State.readT_memOk]
    · exact ih s

@[simp] theorem State.vecTrap_memOk (s : State) (t : TileId) (code reason : BitVec 8) (tval : W64) :
    (State.vecTrap s t code reason tval).memOk = s.memOk := by
  unfold State.vecTrap
  rfl

@[simp] theorem State.vuReport_memOk (s : State) (t : TileId) (x : VEntry) (r : Report) :
    (State.vuReport s t x r).memOk = s.memOk := by
  unfold State.vuReport
  rfl

@[simp] theorem State.readEntry_memOk (s : State) (t : TileId) (x : VEntry) (ok : Target → Bool) :
    (s.readEntry t x ok).memOk = s.memOk := by
  have h := State.readLanes_memOk s t (readSize x.kind) ok x.rest
  unfold State.readEntry
  dsimp only
  split
  · rw [State.modM_memOk]
    exact h
  · split
    · rw [State.vuReport_memOk, State.modM_memOk, State.logPoison_memOk]
      exact h
    · rw [State.vecTrap_memOk, State.modM_memOk]
      exact h

@[simp] theorem State.writePieces_memOk (s : State) (t : TileId) (x : VEntry) (ok : Target → Bool)
    (kept ps : List (Target × W64 × List Byte)) (hk : s.memOk = true) : (s.writePieces t x ok kept ps).1.memOk = true := by
  induction ps generalizing s x kept with
  | nil => exact hk
  | cons p ps ih =>
    have h1 := State.writeT_memOk s t p.1 false p.2.2 hk
    unfold State.writePieces
    dsimp only
    (repeat' split) <;> apply ih <;> simp only [State.vuReport_memOk, State.modM_memOk, State.clearPend_memOk, hk, h1]

@[simp] theorem State.writeEntry_memOk (s : State) (t : TileId) (x : VEntry) (ok : Target → Bool) (hk : s.memOk = true) :
    (s.writeEntry t x ok).memOk = true := by
  unfold State.writeEntry
  dsimp only
  rw [State.modM_memOk]
  exact State.writePieces_memOk _ _ _ _ _ _ (foldl_memOk _ _ hk (fun st l h => State.writeT_memOk _ _ _ _ _ h))

@[simp] theorem State.finishEntry_memOk (s : State) (t : TileId) (x : VEntry) :
    (State.finishEntry s t x).memOk = s.memOk := by
  unfold State.finishEntry
  simp

@[simp] theorem State.landEntry_memOk (s : State) (t : TileId) (x : VEntry) (okR ok : Target → Bool) (hk : s.memOk = true) :
    (State.landEntry s t x okR ok).memOk = true := by
  unfold State.landEntry
  (try dsimp only); (repeat' split) <;> simp [hk]

@[simp] theorem State.sendQueue_memOk (s : State) (t : TileId) (store : Bool) : (s.sendQueue t store).memOk = s.memOk := by
  unfold State.sendQueue
  dsimp only
  split
  · rfl
  · split
    · rw [State.modM_memOk, foldl_memOk_eq, foldl_memOk_eq, State.modM_memOk]
      · exact fun st w => State.setPend_memOk _ _ _
      · intro st w
        split
        · rfl
        · exact State.touch_memOk _ _ _
    · split
      · split
        · rw [State.modM_memOk, State.readEntry_memOk, State.modM_memOk]
        · rw [State.readEntry_memOk, State.modM_memOk]
      · rw [State.readEntry_memOk, State.modM_memOk]

@[simp] theorem State.serveLine_memOk (s : State) (t : TileId) (l : Nat) (hk : s.memOk = true) :
    (s.serveLine t l).memOk = true := by
  unfold State.serveLine
  refine foldl_memOk _ _ hk (fun st x h => ?_)
  dsimp only
  split
  · rw [State.portLoad_memOk]
    exact h
  · exact State.landStore_memOk _ _ _ h
  · exact State.landEntry_memOk _ _ _ _ _ h
  · exact h

@[simp] theorem State.fillDone_memOk (s : State) (t : TileId) (l : Nat) (hk : s.memOk = true) :
    (State.fillDone s t l).memOk = true := by
  unfold State.fillDone
  (try dsimp only); (repeat' split) <;> simp [hk]

@[simp] theorem State.readSems_memOk (s : State) (t : TileId) : (s.readSems t).memOk = s.memOk := by
  unfold State.readSems
  rw [State.modM_memOk]
  exact foldl_memOk_eq _ _ _ (fun st x => State.logReplay_memOk _ _ _)

@[simp] theorem State.arrival_memOk (s : State) (t : TileId) (psem : BitVec 6) :
    (State.arrival s t psem).memOk = s.memOk := by
  unfold State.arrival
  (try dsimp only); (repeat' split) <;> simp 

@[simp] theorem State.rampPass_memOk (s : State) (t : TileId) :
    (State.rampPass s t).memOk = s.memOk := by
  unfold State.rampPass
  rfl

@[simp] theorem State.setTarget_memOk (s : State) (t : TileId) (tgt : Nat) (psem : Option (BitVec 6)) :
    (State.setTarget s t tgt psem).memOk = s.memOk := by
  unfold State.setTarget
  (try dsimp only); (repeat' split) <;> simp

@[simp] theorem State.askCeiling_memOk (s : State) (t : TileId) (v : W32) : (s.askCeiling t v).memOk = s.memOk := by
  unfold State.askCeiling
  exact State.inCycle_memOk _ _

@[simp] theorem State.applyVisible_memOk (s : State) (t : TileId) (w : Ctl → Bool) (hi : Bool) :
    (State.applyVisible s t w hi).memOk = s.memOk := by
  unfold State.applyVisible
  (try dsimp only); (repeat' split) <;> simp

@[simp] theorem State.exchangeS_memOk (s : State) (t : TileId) :
    (State.exchangeS s t).memOk = s.memOk := by
  unfold State.exchangeS
  simp

@[simp] theorem State.flips_memOk (s : State) (t : TileId) :
    (State.flips s t).memOk = s.memOk := by
  unfold State.flips
  (try dsimp only); (repeat' split) <;> simp

@[simp] theorem State.takeStores_memOk (s : State) (t : TileId) :
    (State.takeStores s t).memOk = s.memOk := by
  unfold State.takeStores
  simp

@[simp] theorem State.endCycle_memOk (s : State) (t : TileId) (hk : s.memOk = true) : (s.endCycle t).memOk = true := by
  have h1 (st : State) (l : List SuLoad) : (l.foldl (fun st x => st.portLoad t x) st).memOk = st.memOk :=
    foldl_memOk_eq _ _ _ (fun st x => State.portLoad_memOk _ _ _)
  have h2 (st : State) (l : List SuStore) (h : st.memOk = true) :
      (l.foldl (fun st x => st.performStore t x) st).memOk = true :=
    foldl_memOk _ _ h (fun st x h => State.performStore_memOk _ _ _ h)
  have h3 (st : State) (l : List VEntry) (h : st.memOk = true) :
      (l.foldl (fun st x => (st.landEntry t x Target.isOwn Target.isOwn).modM t (fun m =>
        { m with vu := m.vu.upd x.id (fun y => { y with due := none }) })) st).memOk = true :=
    foldl_memOk _ _ h (fun st x h => (State.modM_memOk _ _ _).trans (State.landEntry_memOk _ _ _ _ _ h))
  have h4 (st : State) (l : List (SuLoad × W512 × Bool)) :
      (l.foldl (fun st e => st.landLoad t e.1 e.2.1 e.2.2) st).memOk = st.memOk :=
    foldl_memOk_eq _ _ _ (fun st x => State.landLoad_memOk _ _ _ _ _)
  unfold State.endCycle
  dsimp only
  rw [State.applyRel_memOk, State.modM_memOk, State.modTile_memOk, State.takeStores_memOk, State.flips_memOk, h4, State.readSems_memOk, State.modM_memOk]
  apply h3
  apply h2
  rw [State.sendQueue_memOk, h1, State.sendQueue_memOk, State.modTile_memOk]
  exact hk

@[simp] theorem State.abandon_memOk (s : State) (t : TileId) :
    (State.abandon s t).memOk = s.memOk := by
  unfold State.abandon
  rfl

@[simp] theorem State.doubleFault_memOk (s : State) (t : TileId) (r : Report) :
    (State.doubleFault s t r).memOk = s.memOk := by
  unfold State.doubleFault
  simp

@[simp] theorem State.takeTrap_memOk (s : State) (t : TileId) (r : Report) (tpc : W64) :
    (State.takeTrap s t r tpc).memOk = s.memOk := by
  unfold State.takeTrap
  (try dsimp only); (repeat' split) <;> simp

@[simp] theorem State.raise_memOk (s : State) (r : Report) :
    (State.raise s r).memOk = s.memOk := by
  unfold State.raise
  simp

@[simp] theorem State.returnTrap_memOk (s : State) (t : TileId) :
    (State.returnTrap s t).memOk = s.memOk := by
  unfold State.returnTrap
  rfl

@[simp] theorem State.doEret_memOk (s : State) (t : TileId) (abort : Bool) :
    (State.doEret s t abort).memOk = s.memOk := by
  unfold State.doEret
  (repeat' split) <;> simp

theorem State.issue_memOk (s : State) (wt : Nat) (body : State → State × Option Report) (hk : s.memOk = true)
    (hb : (body s).1.memOk = true) : (s.issue wt body).memOk = true := by
  unfold State.issue
  dsimp only
  split
  · rw [State.raise_memOk]
    exact hk
  · split
    · rw [State.raise_memOk]
      exact hb
    · split
      · exact hb
      · rw [State.modM_memOk]
        exact hb

theorem State.issue_memOk_eq (s : State) (wt : Nat) (body : State → State × Option Report)
    (hb : (body s).1.memOk = s.memOk) : (s.issue wt body).memOk = s.memOk := by
  unfold State.issue
  dsimp only
  split
  · rw [State.raise_memOk]
  · split
    · rw [State.raise_memOk]
      exact hb
    · split
      · exact hb
      · rw [State.modM_memOk]
        exact hb

@[simp] theorem State.hold_memOk (s : State) (i : Instr) :
    (State.hold s i).memOk = s.memOk := by
  unfold State.hold
  rfl

@[simp] theorem State.opS_memOk (s : State) (d : SReg) (f : Member → W64) (lat len : Nat) : (s.opS d f lat len).memOk = s.memOk :=
  State.issue_memOk_eq _ _ _ rfl

@[simp] theorem State.opM_memOk (s : State) (f : Member → Member) : (s.opM f).memOk = s.memOk :=
  State.issue_memOk_eq _ _ _ rfl

end Sys2Proof.Machine
end

