-- ==== Sys2Proof/Laws/KeepB.lean ====
section
/-! SUPPORT. The canonical form of the byte maps is kept by the work, launch and message operations. -/

namespace Sys2Proof.Machine

@[simp] theorem State.waitRecord_memOk (s : State) (t : TileId) (n : BitVec 8) (thr : Nat) (since : Option Nat) (seq : W64) :
    (State.waitRecord s t n thr since seq).memOk = s.memOk := by
  unfold State.waitRecord
  (try dsimp only); (repeat' split) <;> simp

@[simp] theorem State.passWait_memOk (s : State) (t : TileId) (c : Cmd) :
    (State.passWait s t c).memOk = s.memOk := by
  unfold State.passWait
  (repeat' split) <;> simp

@[simp] theorem State.postDone_memOk (s : State) (t : TileId) (c : Cmd) (pcl : BitVec 4) :
    (State.postDone s t c pcl).memOk = s.memOk := by
  unfold State.postDone
  (try dsimp only); (repeat' split) <;> simp

@[simp] theorem State.engineFault_memOk (s : State) (t : TileId) (r : Report) :
    (State.engineFault s t r).memOk = s.memOk := by
  unfold State.engineFault
  rfl

@[simp] theorem State.engTarget_memOk (s : State) (t : TileId) (e : EngCls) (asid : BitVec 12) (va : W64) (k : AccKind) :
    (State.engTarget s t e asid va k).1.memOk = s.memOk := by
  unfold State.engTarget
  (try dsimp only); (repeat' split) <;> simp

@[simp] theorem State.engReadAt_memOk (s : State) (t : TileId) (e : EngCls) (va : W64) (tgt : Target) (n : Nat) :
    (State.engReadAt s t e va tgt n).1.memOk = s.memOk := by
  unfold State.engReadAt
  (try dsimp only); (repeat' split) <;> simp

@[simp] theorem State.engPieces_memOk (s : State) (t : TileId) (e : EngCls) (asid : BitVec 12) (ps : List (W64 × Nat)) :
    (s.engPieces t e asid ps).1.memOk = s.memOk := by
  induction ps generalizing s with
  | nil => rfl
  | cons p ps ih =>
    obtain ⟨va, n⟩ := p
    unfold State.engPieces
    dsimp only
    split
    · split
      · split <;> rw [ih, State.engReadAt_memOk, State.engTarget_memOk]
      · rw [State.engReadAt_memOk, State.engTarget_memOk]
    · rw [State.engTarget_memOk]
    · rw [State.engTarget_memOk]
    · rw [State.engTarget_memOk]

@[simp] theorem State.engRead_memOk (s : State) (t : TileId) (e : EngCls) (asid : BitVec 12) (va : W64) (n : Nat) :
    (s.engRead t e asid va n).1.memOk = s.memOk := State.engPieces_memOk _ _ _ _ _

@[simp] theorem State.engWrite1_memOk (s : State) (t : TileId) (e : EngCls) (asid : BitVec 12) (va : W64) (bs : List Byte) (hk : s.memOk = true) :
    (State.engWrite1 s t e asid va bs).1.memOk = true := by
  unfold State.engWrite1
  (try dsimp only); (repeat' split) <;> simp [hk]

@[simp] theorem State.engWrites_memOk (s : State) (t : TileId) (e : EngCls) (asid : BitVec 12)
    (ws : List (W64 × List Byte)) (hk : s.memOk = true) : (s.engWrites t e asid ws).1.memOk = true := by
  induction ws generalizing s with
  | nil => exact hk
  | cons w ws ih =>
    obtain ⟨va, bs⟩ := w
    have h1 := State.engWrite1_memOk s t e asid va bs hk
    unfold State.engWrites
    dsimp only
    split
    · exact ih _ h1
    · exact ih _ h1
    · exact h1

@[simp] theorem State.engRenew_memOk (s : State) (t : TileId) (e : EngCls) (asid : BitVec 12) (ws : List (W64 × Nat)) :
    (s.engRenew t e asid ws).memOk = s.memOk := by
  unfold State.engRenew
  split <;> simp

@[simp] theorem State.engTranslate_memOk (s : State) (t : TileId) (e : EngCls) (asid : BitVec 12) (k : AccKind)
    (vs : List W64) : (s.engTranslate t e asid k vs).1.memOk = s.memOk := by
  induction vs generalizing s with
  | nil => rfl
  | cons va vs ih =>
    unfold State.engTranslate
    dsimp only
    split
    · rw [ih, State.engTarget_memOk]
    all_goals rw [State.engTarget_memOk]

@[simp] theorem State.engCodes_memOk (s : State) (t : TileId) (e : EngCls) (asid : BitVec 12) (d : Td)
    (l : List (List Nat)) : (s.engCodes t e asid d l).1.memOk = s.memOk := by
  induction l generalizing s with
  | nil => rfl
  | cons ix l ih =>
    unfold State.engCodes
    dsimp only
    split
    · rw [ih, State.engRead_memOk]
    all_goals rw [State.engRead_memOk]

@[simp] theorem State.outsideWrites_memOk (s : State) (src : Half) (l : List (Nat × List Byte)) (hk : s.memOk = true) :
    (s.outsideWrites src l).1.memOk = true := by
  induction l generalizing s with
  | nil => exact hk
  | cons x l ih =>
    obtain ⟨a, bs⟩ := x
    have hw := State.writeAt_memOk s src a 0 true bs hk
    unfold State.outsideWrites
    dsimp only
    split
    · exact ih _ hw
    · exact ih _ (by rw [State.logEvent_memOk]; exact hw)
    all_goals exact ih _ hw

@[simp] theorem State.outsidePut_memOk (s : State) (src : Half) (ws : List (Nat × List Byte)) (hk : s.memOk = true) :
    (State.outsidePut s src ws).1.memOk = true := by
  unfold State.outsidePut
  simp [hk]

@[simp] theorem State.msgDone_memOk (s : State) (p : PortId) (status : Nat) :
    (State.msgDone s p status).memOk = s.memOk := by
  unfold State.msgDone
  rfl

@[simp] theorem State.landHost_memOk (s : State) (p : PortId) (hk : s.memOk = true) :
    (State.landHost s p).memOk = true := by
  unfold State.landHost
  (try dsimp only); (repeat' split) <;> simp [hk]

@[simp] theorem State.moveOwner_memOk (s : State) (f : Owner → Owner) :
    (State.moveOwner s f).memOk = s.memOk := by
  unfold State.moveOwner
  rfl

@[simp] theorem State.freeBytes_memOk (s : State) (n : Nat) :
    (State.freeBytes s n).2.memOk = s.memOk := by
  unfold State.freeBytes
  simp 

@[simp] theorem State.freePut_memOk (s : State) (a n : Nat) (hk : s.memOk = true) :
    (State.freePut s a n).memOk = true := by
  unfold State.freePut
  simp [hk]

@[simp] theorem State.writeParts_memOk (s : State) (m : Member) (k : Nat) (hk : s.memOk = true) :
    (s.writeParts m k).memOk = true := by
  unfold State.writeParts
  apply State.freePut_memOk
  exact foldl_memOk _ _ (foldl_memOk _ _ hk (fun st g h => State.freePut_memOk _ _ _ h))
    (fun st l h => State.dramPut_memOk _ _ _ h)

@[simp] theorem State.saveMember_memOk (s : State) (t : TileId) (k : Nat) (hk : s.memOk = true) :
    (State.saveMember s t k).memOk = true := by
  unfold State.saveMember
  simp [hk]

@[simp] theorem State.applyHeld_memOk (s : State) (t : TileId) (posts : List (BitVec 8 × Nat × Poster)) (mbs : List MbWrite) :
    (State.applyHeld s t posts mbs).memOk = s.memOk := by
  unfold State.applyHeld
  simp

@[simp] theorem State.takeTile_memOk (s : State) (t : TileId) :
    (State.takeTile s t).memOk = s.memOk := by
  unfold State.takeTile
  simp

@[simp] theorem State.startOrWait_memOk (s : State) (t : TileId) (cls : Option (BitVec 3)) :
    (State.startOrWait s t cls).memOk = s.memOk := by
  unfold State.startOrWait
  (repeat' split) <;> simp

@[simp] theorem State.restoreMember_memOk (s : State) (t : TileId) (k : Nat) :
    (State.restoreMember s t k).memOk = s.memOk := by
  unfold State.restoreMember
  (repeat' split) <;> simp

@[simp] theorem State.takeProof_memOk (s : State) (t : TileId) : (State.takeProof s t).memOk = s.memOk := by
  unfold State.takeProof
  rfl

@[simp] theorem State.note_memOk (s : State) (t : TileId) :
    (State.note s t).memOk = s.memOk := by
  unfold State.note
  (try dsimp only); (repeat' split) <;> simp

@[simp] theorem State.parkLive_memOk (s : State) (t : TileId) :
    (State.parkLive s t).memOk = s.memOk := by
  unfold State.parkLive
  rfl

@[simp] theorem State.unparkLive_memOk (s : State) (t : TileId) :
    (State.unparkLive s t).memOk = s.memOk := by
  unfold State.unparkLive
  (repeat' split) <;> simp

@[simp] theorem State.stopAt_memOk (s : State) (t : TileId) (n : W64) :
    (State.stopAt s t n).memOk = s.memOk := by
  unfold State.stopAt
  (try dsimp only); (repeat' split) <;> simp

@[simp] theorem State.replayTo_memOk (s : State) (t : TileId) :
    (State.replayTo s t).memOk = s.memOk := by
  unfold State.replayTo
  simp 

theorem State.haltedStep_memOk {s u : State} {t : TileId} (h : s.haltedStep t = some u) : u.memOk = s.memOk := by
  unfold State.haltedStep at h
  dsimp only at h
  split at h
  · cases h
    exact State.replayTo_memOk _ _
  · split at h <;> cases h
    exact State.stopAt_memOk _ _ _
  all_goals cases h

/-- The same for the state itself where nothing is left to do. -/
theorem State.haltedStep_getD_memOk (s : State) (t : TileId) : ((s.haltedStep t).getD s).memOk = s.memOk := by
  cases h : s.haltedStep t with
  | none => rfl
  | some u => exact State.haltedStep_memOk h

@[simp] theorem State.haltHere_memOk (s : State) (t : TileId) :
    (State.haltHere s t).memOk = s.memOk := by
  unfold State.haltHere
  (repeat' split) <;> simp

/-- The canonical form in the state that a plan runs on. -/
def Plan.memOk : Plan → Bool
  | .run _ s => s.memOk
  | .stay s => s.memOk
  | .off => true

theorem State.vuIssue_memOk {s : State} {t : TileId} {p : Plan} (hk : s.memOk = true) (h : s.vuIssue t = some p) :
    p.memOk = true := by
  unfold State.vuIssue at h
  dsimp only at h
  split at h
  · cases h
  · cases h
    split
    · exact hk
    · exact hk
    · exact (State.vecTrap_memOk _ _ _ _ _).trans hk

theorem State.beforeLast_memOk {s : State} {t : TileId} {p : Plan} (hk : s.memOk = true) (h : s.beforeLast t = some p) :
    p.memOk = true := by
  unfold State.beforeLast at h
  split at h
  · cases h
    exact hk
  · split at h
    · rename_i q hq
      cases h
      exact State.vuIssue_memOk hk hq
    · obtain ⟨i, -, rfl⟩ := Option.map_eq_some_iff.1 h
      exact hk

theorem State.suIssue_memOk {s : State} {t : TileId} {p : Plan} (hk : s.memOk = true) (h : s.suIssue t = some p) :
    p.memOk = true := by
  have hl (o : State) (ho : o.memOk = true) (i : Instr) (c : Bool) :
      ((if c then s.beforeLast t else none).getD (.run i (State.note o t))).memOk = true := by
    have hn : (State.note o t).memOk = true := (State.note_memOk _ _).trans ho
    cases c
    · exact hn
    · cases hb : s.beforeLast t with
      | none => exact hn
      | some q => exact State.beforeLast_memOk hk hb
  unfold State.suIssue at h
  extract_lets x m on at h
  have ho : on.memOk = true := hk
  clear_value on
  split at h
  · cases h
  · split at h
    · split at h
      · cases h
        exact (State.haltHere_memOk _ _).trans ho
      · cases h
    · split at h
      · cases h
        exact ho
      · split at h
        · cases h
          exact ho
        · split at h
          · split at h
            · cases h
              exact (State.takeProof_memOk on t).trans ho
            · cases h
          · split at h
            · cases h
              exact ho
            · split at h
              · cases h
              · split at h
                · cases h
                  split
                  · exact hl _ ho _ _
                  · exact (State.note_memOk _ _).trans ho
                  · exact (State.takeTrap_memOk _ _ _ _).trans ((State.note_memOk _ _).trans ho)
                all_goals first
                  | (cases h <;> exact ho)
                  | (split at h <;> cases h <;> exact ho)

theorem State.inThisCycle_memOk {s : State} {t : TileId} {b : Bool} {p : Plan} (hk : s.memOk = true)
    (h : s.inThisCycle t b = some p) : p.memOk = true := by
  have hs (c : Bool) (q : Plan) (hq : (if c = true then none else s.suIssue t) = some q) : q.memOk = true := by
    split at hq
    · cases hq
    · exact State.suIssue_memOk hk hq
  unfold State.inThisCycle at h
  split at h
  · cases h
    exact hk
  · cases h
    exact hk
  · split at h
    · rename_i q _ _ hq
      cases h
      exact hs _ _ hq
    · rename_i q _ hq
      cases h
      exact State.vuIssue_memOk hk hq
    · cases h
      exact hk
    · cases h

@[simp] theorem State.closeCycle_memOk (s : State) (t : TileId) (hk : s.memOk = true) :
    (State.closeCycle s t).memOk = true := by
  unfold State.closeCycle
  simp [hk]

theorem State.endPlan_memOk (s : State) (t : TileId) (b : Bool) (hk : s.memOk = true) : (s.endPlan t b).memOk = true := by
  unfold State.endPlan
  split
  · rename_i p hp
    exact State.inThisCycle_memOk hk hp
  · exact State.closeCycle_memOk _ _ hk

theorem State.planSu_memOk (s : State) (t : TileId) (hk : s.memOk = true) : (s.planSu t).memOk = true := by
  unfold State.planSu
  dsimp only
  split
  · exact (State.haltedStep_getD_memOk _ _).trans hk
  · split
    · rename_i p hp
      exact State.suIssue_memOk hk hp
    · exact State.endPlan_memOk _ _ _ hk

theorem State.planVu_memOk (s : State) (t : TileId) (hk : s.memOk = true) : (s.planVu t).memOk = true := by
  unfold State.planVu
  dsimp only
  split
  · exact hk
  · split
    · rename_i p hp
      exact State.vuIssue_memOk hk hp
    · exact State.endPlan_memOk _ _ _ hk

@[simp] theorem State.sendStamps_memOk (s : State) :
    (State.sendStamps s).memOk = s.memOk := by
  unfold State.sendStamps
  (try dsimp only); (repeat' split) <;> simp

@[simp] theorem State.commitTable_memOk (s : State) (l : LinkId) :
    (State.commitTable s l).memOk = s.memOk := by
  unfold State.commitTable
  ((repeat' split) <;> rfl)

@[simp] theorem State.passTime_memOk (s : State) (ns : Nat) : (s.passTime ns).memOk = s.memOk := by
  have h : ((List.finRange 18).foldl (fun st l => st.commitTable l) s.sendStamps).memOk = s.memOk := by
    rw [foldl_memOk_eq _ _ _ (fun st l => State.commitTable_memOk _ _), State.sendStamps_memOk]
  unfold State.passTime
  dsimp only
  split
  · rw [State.memOk_mk]
    exact h
  · split
    · rw [State.wakeUnwatched_memOk, State.memOk_mk]
      exact h
    · rw [State.memOk_mk]
      exact h

@[simp] theorem execAdd_memOk (d a b : SReg) (s : State) :
    ansMemOk (execAdd d a b s) = s.memOk := by
  unfold execAdd
  simp

@[simp] theorem execSub_memOk (d a b : SReg) (s : State) :
    ansMemOk (execSub d a b s) = s.memOk := by
  unfold execSub
  simp

@[simp] theorem execMul_memOk (d a b : SReg) (s : State) :
    ansMemOk (execMul d a b s) = s.memOk := by
  unfold execMul
  simp

@[simp] theorem execMulh_memOk (d a b : SReg) (s : State) :
    ansMemOk (execMulh d a b s) = s.memOk := by
  unfold execMulh
  simp

@[simp] theorem execMulhu_memOk (d a b : SReg) (s : State) :
    ansMemOk (execMulhu d a b s) = s.memOk := by
  unfold execMulhu
  simp

@[simp] theorem execDiv_memOk (d a b : SReg) (s : State) :
    ansMemOk (execDiv d a b s) = s.memOk := by
  unfold execDiv
  simp

@[simp] theorem execDivu_memOk (d a b : SReg) (s : State) :
    ansMemOk (execDivu d a b s) = s.memOk := by
  unfold execDivu
  simp

@[simp] theorem execRem_memOk (d a b : SReg) (s : State) :
    ansMemOk (execRem d a b s) = s.memOk := by
  unfold execRem
  simp

@[simp] theorem execRemu_memOk (d a b : SReg) (s : State) :
    ansMemOk (execRemu d a b s) = s.memOk := by
  unfold execRemu
  simp

@[simp] theorem execAnd_memOk (d a b : SReg) (s : State) :
    ansMemOk (execAnd d a b s) = s.memOk := by
  unfold execAnd
  simp

@[simp] theorem execOr_memOk (d a b : SReg) (s : State) :
    ansMemOk (execOr d a b s) = s.memOk := by
  unfold execOr
  simp

@[simp] theorem execXor_memOk (d a b : SReg) (s : State) :
    ansMemOk (execXor d a b s) = s.memOk := by
  unfold execXor
  simp

@[simp] theorem execAndn_memOk (d a b : SReg) (s : State) :
    ansMemOk (execAndn d a b s) = s.memOk := by
  unfold execAndn
  simp

@[simp] theorem execShl_memOk (d a b : SReg) (s : State) :
    ansMemOk (execShl d a b s) = s.memOk := by
  unfold execShl
  simp

@[simp] theorem execShr_memOk (d a b : SReg) (s : State) :
    ansMemOk (execShr d a b s) = s.memOk := by
  unfold execShr
  simp

@[simp] theorem execSra_memOk (d a b : SReg) (s : State) :
    ansMemOk (execSra d a b s) = s.memOk := by
  unfold execSra
  simp

@[simp] theorem execMin_memOk (d a b : SReg) (s : State) :
    ansMemOk (execMin d a b s) = s.memOk := by
  unfold execMin
  simp

@[simp] theorem execMax_memOk (d a b : SReg) (s : State) :
    ansMemOk (execMax d a b s) = s.memOk := by
  unfold execMax
  simp

@[simp] theorem execMinu_memOk (d a b : SReg) (s : State) :
    ansMemOk (execMinu d a b s) = s.memOk := by
  unfold execMinu
  simp

@[simp] theorem execMaxu_memOk (d a b : SReg) (s : State) :
    ansMemOk (execMaxu d a b s) = s.memOk := by
  unfold execMaxu
  simp

@[simp] theorem execSeq_memOk (d a b : SReg) (s : State) :
    ansMemOk (execSeq d a b s) = s.memOk := by
  unfold execSeq
  simp

@[simp] theorem execSne_memOk (d a b : SReg) (s : State) :
    ansMemOk (execSne d a b s) = s.memOk := by
  unfold execSne
  simp

@[simp] theorem execSlt_memOk (d a b : SReg) (s : State) :
    ansMemOk (execSlt d a b s) = s.memOk := by
  unfold execSlt
  simp

@[simp] theorem execSltu_memOk (d a b : SReg) (s : State) :
    ansMemOk (execSltu d a b s) = s.memOk := by
  unfold execSltu
  simp

@[simp] theorem execSel_memOk (d a b : SReg) (s : State) :
    ansMemOk (execSel d a b s) = s.memOk := by
  unfold execSel
  simp

@[simp] theorem execClz_memOk (d a : SReg) (s : State) :
    ansMemOk (execClz d a s) = s.memOk := by
  unfold execClz
  simp

@[simp] theorem execCtz_memOk (d a : SReg) (s : State) :
    ansMemOk (execCtz d a s) = s.memOk := by
  unfold execCtz
  simp

@[simp] theorem execPopc_memOk (d a : SReg) (s : State) :
    ansMemOk (execPopc d a s) = s.memOk := by
  unfold execPopc
  simp

@[simp] theorem execAddi_memOk (d a : SReg) (imm : BitVec 12) (s : State) :
    ansMemOk (execAddi d a imm s) = s.memOk := by
  unfold execAddi
  simp

@[simp] theorem execAndi_memOk (d a : SReg) (imm : BitVec 12) (s : State) :
    ansMemOk (execAndi d a imm s) = s.memOk := by
  unfold execAndi
  simp

@[simp] theorem execOri_memOk (d a : SReg) (imm : BitVec 12) (s : State) :
    ansMemOk (execOri d a imm s) = s.memOk := by
  unfold execOri
  simp

@[simp] theorem execXori_memOk (d a : SReg) (imm : BitVec 12) (s : State) :
    ansMemOk (execXori d a imm s) = s.memOk := by
  unfold execXori
  simp

@[simp] theorem execShli_memOk (d a : SReg) (n : BitVec 6) (s : State) :
    ansMemOk (execShli d a n s) = s.memOk := by
  unfold execShli
  simp

@[simp] theorem execShri_memOk (d a : SReg) (n : BitVec 6) (s : State) :
    ansMemOk (execShri d a n s) = s.memOk := by
  unfold execShri
  simp

@[simp] theorem execSrai_memOk (d a : SReg) (n : BitVec 6) (s : State) :
    ansMemOk (execSrai d a n s) = s.memOk := by
  unfold execSrai
  simp

@[simp] theorem execSlti_memOk (d a : SReg) (imm : BitVec 12) (s : State) :
    ansMemOk (execSlti d a imm s) = s.memOk := by
  unfold execSlti
  simp

@[simp] theorem execSltui_memOk (d a : SReg) (imm : BitVec 12) (s : State) :
    ansMemOk (execSltui d a imm s) = s.memOk := by
  unfold execSltui
  simp

@[simp] theorem execBfx_memOk (d a : SReg) (lo wd1 : BitVec 6) (s : State) :
    ansMemOk (execBfx d a lo wd1 s) = s.memOk := by
  unfold execBfx
  simp

@[simp] theorem execBfxs_memOk (d a : SReg) (lo wd1 : BitVec 6) (s : State) :
    ansMemOk (execBfxs d a lo wd1 s) = s.memOk := by
  unfold execBfxs
  simp

@[simp] theorem execBfi_memOk (d a : SReg) (lo wd1 : BitVec 6) (s : State) :
    ansMemOk (execBfi d a lo wd1 s) = s.memOk := by
  unfold execBfi
  simp

@[simp] theorem execLi_memOk (d : SReg) (imm : W32) (s : State) :
    ansMemOk (execLi d imm s) = s.memOk := by
  unfold execLi
  simp

@[simp] theorem execLhi_memOk (d a : SReg) (imm : W32) (s : State) :
    ansMemOk (execLhi d a imm s) = s.memOk := by
  unfold execLhi
  simp

@[simp] theorem State.suCheck_memOk (s : State) (t : TileId) (va : W64) (n : Nat) (kind : AccKind) :
    (State.suCheck s t va n kind).1.memOk = s.memOk := by
  unfold State.suCheck
  (try dsimp only); (repeat' split) <;> simp

@[simp] theorem State.startLoad_memOk (s : State) (t : TileId) (va : W64) (n : Nat) (dst : DbgReg) (kind : LoadKind) (tgt : Target) :
    (State.startLoad s t va n dst kind tgt).1.memOk = s.memOk := by
  unfold State.startLoad
  (try dsimp only); (repeat' split) <;> simp

@[simp] theorem State.loadS_memOk (s : State) (a : SReg) (off : BitVec 12) (n : Nat) (dst : Member → DbgReg) (kind : LoadKind) :
    (State.loadS s a off n dst kind).memOk = s.memOk := by
  unfold State.loadS
  refine State.issue_memOk_eq _ _ _ ?_; first | rfl | ((try dsimp only); (repeat' split) <;> first | rfl | (simp; done) | (simp_all; done))

@[simp] theorem State.startStore_memOk (s : State) (t : TileId) (va : W64) (n : Nat) (data : W64) (tgt : Target) :
    (State.startStore s t va n data tgt).memOk = s.memOk := by
  unfold State.startStore
  simp

@[simp] theorem State.storeS_memOk (s : State) (i : Instr) (src a : SReg) (off : BitVec 12) (n : Nat) :
    (State.storeS s i src a off n).memOk = s.memOk := by
  unfold State.storeS
  refine State.issue_memOk_eq _ _ _ ?_; first | rfl | ((try dsimp only); (repeat' split) <;> first | rfl | (simp; done) | (simp_all; done))

@[simp] theorem execLdB_memOk (d a : SReg) (off : BitVec 12) (s : State) :
    ansMemOk (execLdB d a off s) = s.memOk := by
  unfold execLdB
  simp

@[simp] theorem execLdBu_memOk (d a : SReg) (off : BitVec 12) (s : State) :
    ansMemOk (execLdBu d a off s) = s.memOk := by
  unfold execLdBu
  simp

@[simp] theorem execLdH_memOk (d a : SReg) (off : BitVec 12) (s : State) :
    ansMemOk (execLdH d a off s) = s.memOk := by
  unfold execLdH
  simp

@[simp] theorem execLdHu_memOk (d a : SReg) (off : BitVec 12) (s : State) :
    ansMemOk (execLdHu d a off s) = s.memOk := by
  unfold execLdHu
  simp

@[simp] theorem execLdW_memOk (d a : SReg) (off : BitVec 12) (s : State) :
    ansMemOk (execLdW d a off s) = s.memOk := by
  unfold execLdW
  simp

@[simp] theorem execLdWu_memOk (d a : SReg) (off : BitVec 12) (s : State) :
    ansMemOk (execLdWu d a off s) = s.memOk := by
  unfold execLdWu
  simp

@[simp] theorem execLdD_memOk (d a : SReg) (off : BitVec 12) (s : State) :
    ansMemOk (execLdD d a off s) = s.memOk := by
  unfold execLdD
  simp

@[simp] theorem execTdLoad_memOk (n : TdIx) (a : SReg) (off : BitVec 12) (s : State) :
    ansMemOk (execTdLoad n a off s) = s.memOk := by
  unfold execTdLoad
  simp

@[simp] theorem execStB_memOk (src a : SReg) (off : BitVec 12) (s : State) :
    ansMemOk (execStB src a off s) = s.memOk := by
  unfold execStB
  simp

@[simp] theorem execStH_memOk (src a : SReg) (off : BitVec 12) (s : State) :
    ansMemOk (execStH src a off s) = s.memOk := by
  unfold execStH
  simp

@[simp] theorem execStW_memOk (src a : SReg) (off : BitVec 12) (s : State) :
    ansMemOk (execStW src a off s) = s.memOk := by
  unfold execStW
  simp

@[simp] theorem execStD_memOk (src a : SReg) (off : BitVec 12) (s : State) :
    ansMemOk (execStD src a off s) = s.memOk := by
  unfold execStD
  simp

@[simp] theorem execMov_memOk (d : SReg) (i : MIx) (s : State) :
    ansMemOk (execMov d i s) = s.memOk := by
  unfold execMov
  simp

@[simp] theorem execCtlRd_memOk (d : SReg) (c : Ctl) (s : State) :
    ansMemOk (execCtlRd d c s) = s.memOk := by
  unfold execCtlRd
  rw [ansMemOk_next]; refine State.issue_memOk_eq _ _ _ ?_; first | rfl | ((try dsimp only); (repeat' split) <;> first | rfl | (simp; done) | (simp_all; done))

@[simp] theorem execCtlWr_memOk (c : Ctl) (a : SReg) (s : State) :
    ansMemOk (execCtlWr c a s) = s.memOk := by
  unfold execCtlWr
  rw [ansMemOk_next]; refine State.issue_memOk_eq _ _ _ ?_; first | rfl | ((try dsimp only); (repeat' split) <;> first | rfl | (simp; done) | (simp_all; done))

@[simp] theorem execProbe_memOk (d : SReg) (p : Prb) (s : State) :
    ansMemOk (execProbe d p s) = s.memOk := by
  unfold execProbe
  simp

@[simp] theorem execFlip_memOk (s : State) :
    ansMemOk (execFlip s) = s.memOk := by
  unfold execFlip
  simp

@[simp] theorem execNop_memOk (s : State) :
    ansMemOk (execNop s) = s.memOk := by
  unfold execNop
  simp

@[simp] theorem State.branchS_memOk (s : State) (off : BitVec 12) (c : Member → Bool) :
    (State.branchS s off c).memOk = s.memOk := by
  unfold State.branchS
  simp

@[simp] theorem execBeq_memOk (a b : SReg) (off : BitVec 12) (s : State) :
    ansMemOk (execBeq a b off s) = s.memOk := by
  unfold execBeq
  simp

@[simp] theorem execBne_memOk (a b : SReg) (off : BitVec 12) (s : State) :
    ansMemOk (execBne a b off s) = s.memOk := by
  unfold execBne
  simp

@[simp] theorem execBlt_memOk (a b : SReg) (off : BitVec 12) (s : State) :
    ansMemOk (execBlt a b off s) = s.memOk := by
  unfold execBlt
  simp

@[simp] theorem execBge_memOk (a b : SReg) (off : BitVec 12) (s : State) :
    ansMemOk (execBge a b off s) = s.memOk := by
  unfold execBge
  simp

@[simp] theorem execBltu_memOk (a b : SReg) (off : BitVec 12) (s : State) :
    ansMemOk (execBltu a b off s) = s.memOk := by
  unfold execBltu
  simp

@[simp] theorem execBgeu_memOk (a b : SReg) (off : BitVec 12) (s : State) :
    ansMemOk (execBgeu a b off s) = s.memOk := by
  unfold execBgeu
  simp

@[simp] theorem execJal_memOk (d : SReg) (imm : W32) (s : State) :
    ansMemOk (execJal d imm s) = s.memOk := by
  unfold execJal
  simp

@[simp] theorem State.jumpS_memOk (s : State) (a : SReg) (link : Option SReg) :
    (State.jumpS s a link).memOk = s.memOk := by
  unfold State.jumpS
  refine State.issue_memOk_eq _ _ _ ?_; first | rfl | ((try dsimp only); (repeat' split) <;> first | rfl | (simp; done) | (simp_all; done))

@[simp] theorem execJr_memOk (a : SReg) (s : State) :
    ansMemOk (execJr a s) = s.memOk := by
  unfold execJr
  simp

@[simp] theorem execCallr_memOk (d a : SReg) (s : State) :
    ansMemOk (execCallr d a s) = s.memOk := by
  unfold execCallr
  simp

@[simp] theorem execTrap_memOk (imm : BitVec 12) (s : State) :
    ansMemOk (execTrap imm s) = s.memOk := by
  unfold execTrap
  rw [ansMemOk_next]; refine State.issue_memOk_eq _ _ _ ?_; first | rfl | ((try dsimp only); (repeat' split) <;> first | rfl | (simp; done) | (simp_all; done))

@[simp] theorem execEret_memOk (s : State) :
    ansMemOk (execEret s) = s.memOk := by
  unfold execEret
  rw [ansMemOk_next]; refine State.issue_memOk_eq _ _ _ ?_; first | rfl | ((try dsimp only); (repeat' split) <;> first | rfl | (simp; done) | (simp_all; done))

@[simp] theorem execEretAbort_memOk (s : State) :
    ansMemOk (execEretAbort s) = s.memOk := by
  unfold execEretAbort
  rw [ansMemOk_next]; refine State.issue_memOk_eq _ _ _ ?_; first | rfl | ((try dsimp only); (repeat' split) <;> first | rfl | (simp; done) | (simp_all; done))

@[simp] theorem execRetire_memOk (s : State) :
    ansMemOk (execRetire s) = s.memOk := by
  unfold execRetire
  rw [ansMemOk_next]; refine State.issue_memOk_eq _ _ _ ?_; first | rfl | ((try dsimp only); (repeat' split) <;> first | rfl | (simp; done) | (simp_all; done))

@[simp] theorem State.gearS_memOk (s : State) (hi : Bool) :
    (State.gearS s hi).memOk = s.memOk := by
  unfold State.gearS
  refine State.issue_memOk_eq _ _ _ ?_; first | rfl | ((try dsimp only); (repeat' split) <;> first | rfl | (simp; done) | (simp_all; done))

@[simp] theorem execGearLo_memOk (s : State) :
    ansMemOk (execGearLo s) = s.memOk := by
  unfold execGearLo
  simp

@[simp] theorem execGearHi_memOk (s : State) :
    ansMemOk (execGearHi s) = s.memOk := by
  unfold execGearHi
  simp

@[simp] theorem execPwrAcq_memOk (c : BitVec 3) (s : State) :
    ansMemOk (execPwrAcq c s) = s.memOk := by
  unfold execPwrAcq
  rw [ansMemOk_next]; refine State.issue_memOk_eq _ _ _ ?_; first | rfl | ((try dsimp only); (repeat' split) <;> first | rfl | (simp; done) | (simp_all; done))

@[simp] theorem execPwrRel_memOk (s : State) :
    ansMemOk (execPwrRel s) = s.memOk := by
  unfold execPwrRel
  rw [ansMemOk_next]; refine State.issue_memOk_eq _ _ _ ?_; first | rfl | ((try dsimp only); (repeat' split) <;> first | rfl | (simp; done) | (simp_all; done))

@[simp] theorem execPwrReq_memOk (d a : SReg) (pv : Bool) (n : BitVec 6) (s : State) :
    ansMemOk (execPwrReq d a pv n s) = s.memOk := by
  unfold execPwrReq
  rw [ansMemOk_next]; refine State.issue_memOk_eq _ _ _ ?_; first | rfl | ((try dsimp only); (repeat' split) <;> first | rfl | (simp; done) | (simp_all; done))

@[simp] theorem State.tlbDrop_memOk (s : State) (keep : TlbEntry → Bool) : (s.tlbDrop keep).memOk = s.memOk := by
  unfold State.tlbDrop
  rw [State.memOk_mk]

@[simp] theorem State.tlbiS_memOk (s : State) (i : Instr) (keep : Member → TlbEntry → Bool) :
    (s.tlbiS i keep).memOk = s.memOk := by
  unfold State.tlbiS
  refine State.issue_memOk_eq _ _ _ ?_
  dsimp only
  split
  · rfl
  · (repeat' split) <;> rw [State.modM_memOk, State.tlbDrop_memOk]

@[simp] theorem execTlbiAll_memOk (s : State) :
    ansMemOk (execTlbiAll s) = s.memOk := by
  unfold execTlbiAll
  simp

@[simp] theorem execTlbiAsid_memOk (a : SReg) (s : State) :
    ansMemOk (execTlbiAsid a s) = s.memOk := by
  unfold execTlbiAsid
  simp

@[simp] theorem execTlbiVa_memOk (a b : SReg) (s : State) :
    ansMemOk (execTlbiVa a b s) = s.memOk := by
  unfold execTlbiVa
  simp

@[simp] theorem State.fenceS_memOk (s : State) (i : Instr) (sc : Scope) :
    (State.fenceS s i sc).memOk = s.memOk := by
  unfold State.fenceS
  refine State.issue_memOk_eq _ _ _ ?_; first | rfl | ((try dsimp only); (repeat' split) <;> first | rfl | (simp; done) | (simp_all; done))

@[simp] theorem execFenceT_memOk (s : State) :
    ansMemOk (execFenceT s) = s.memOk := by
  unfold execFenceT
  simp

@[simp] theorem execFenceQ_memOk (s : State) :
    ansMemOk (execFenceQ s) = s.memOk := by
  unfold execFenceQ
  simp

@[simp] theorem execFenceD_memOk (s : State) :
    ansMemOk (execFenceD s) = s.memOk := by
  unfold execFenceD
  simp

@[simp] theorem execFenceP_memOk (s : State) :
    ansMemOk (execFenceP s) = s.memOk := by
  unfold execFenceP
  simp

@[simp] theorem execFenceS_memOk (s : State) :
    ansMemOk (execFenceS s) = s.memOk := by
  unfold execFenceS
  simp

@[simp] theorem State.register_memOk (s : State) (t : TileId) (tgt : Target) :
    (State.register s t tgt).memOk = s.memOk := by
  unfold State.register
  ((repeat' split) <;> rfl)

@[simp] theorem State.unregister_memOk (s : State) (t : TileId) :
    (State.unregister s t).memOk = s.memOk := by
  unfold State.unregister
  rfl

@[simp] theorem State.readWord_memOk (s : State) (t : TileId) (tgt : Target) (va : W64) :
    (State.readWord s t tgt va).1.memOk = s.memOk := by
  unfold State.readWord
  (try dsimp only); (repeat' split) <;> simp

@[simp] theorem State.waitaDone_memOk (s : State) (t : TileId) (d : SReg) (x : W64) :
    (State.waitaDone s t d x).memOk = s.memOk := by
  unfold State.waitaDone
  rfl

@[simp] theorem execWaita_memOk (d a b : SReg) (s : State) :
    ansMemOk (execWaita d a b s) = s.memOk := by
  unfold execWaita
  rw [ansMemOk_next]; refine State.issue_memOk_eq _ _ _ ?_; first | rfl | ((try dsimp only); (repeat' split) <;> first | rfl | (simp; done) | (simp_all; done))

@[simp] theorem execBarInit_memOk (a b : SReg) (s : State) (hk : s.memOk = true) :
    ansMemOk (execBarInit a b s) = true := by
  unfold execBarInit
  refine State.issue_memOk _ _ _ hk ?_; first | exact hk | ((try dsimp only); (repeat' split) <;> first | exact hk | (simp [hk]; done) | (simp_all; done))

@[simp] theorem State.rise_memOk (s : State) (t : TileId) :
    (State.rise s t).memOk = s.memOk := by
  unfold State.rise
  (try dsimp only); (repeat' split) <;> simp

@[simp] theorem State.sink_memOk (s : State) (t : TileId) :
    (State.sink s t).memOk = s.memOk := by
  unfold State.sink
  rfl

@[simp] theorem State.barDone_memOk (s : State) (t : TileId) :
    (State.barDone s t).memOk = s.memOk := by
  unfold State.barDone
  rfl

@[simp] theorem State.barS_memOk (s : State) (i : Instr) (a b : SReg) (sink : Bool) :
    (State.barS s i a b sink).memOk = s.memOk := by
  unfold State.barS
  refine State.issue_memOk_eq _ _ _ ?_; first | rfl | ((try dsimp only); (repeat' split) <;> first | rfl | (simp; done) | (simp_all; done))

@[simp] theorem execBarWait_memOk (a b : SReg) (s : State) :
    ansMemOk (execBarWait a b s) = s.memOk := by
  unfold execBarWait
  simp

@[simp] theorem execBarWaitSink_memOk (a b : SReg) (s : State) :
    ansMemOk (execBarWaitSink a b s) = s.memOk := by
  unfold execBarWaitSink
  simp

@[simp] theorem State.reread_memOk (s : State) (t : TileId) :
    (State.reread s t).memOk = s.memOk := by
  unfold State.reread
  (try dsimp only); (repeat' split) <;> simp

@[simp] theorem execWaitaWake_memOk (t : TileId) (s : State) :
    ansMemOk (execWaitaWake t s) = s.memOk := by
  unfold execWaitaWake
  (repeat' split) <;> simp

@[simp] theorem execWaitaPeriodicReread_memOk (t : TileId) (s : State) :
    ansMemOk (execWaitaPeriodicReread t s) = s.memOk := by
  unfold execWaitaPeriodicReread
  (repeat' split) <;> simp

@[simp] theorem execBarWaitSinkRelease_memOk (t : TileId) (s : State) :
    ansMemOk (execBarWaitSinkRelease t s) = s.memOk := by
  unfold execBarWaitSinkRelease
  (repeat' split) <;> simp

@[simp] theorem execSemPost_memOk (n : BitVec 8) (v : BitVec 24) (s : State) :
    ansMemOk (execSemPost n v s) = s.memOk := by
  unfold execSemPost
  rw [ansMemOk_next]; refine State.issue_memOk_eq _ _ _ ?_; first | rfl | ((try dsimp only); (repeat' split) <;> first | rfl | (simp; done) | (simp_all; done))

@[simp] theorem execSemSet_memOk (n : BitVec 8) (v : BitVec 24) (s : State) :
    ansMemOk (execSemSet n v s) = s.memOk := by
  unfold execSemSet
  rw [ansMemOk_next]; refine State.issue_memOk_eq _ _ _ ?_; first | rfl | ((try dsimp only); (repeat' split) <;> first | rfl | (simp; done) | (simp_all; done))

@[simp] theorem execSemRd_memOk (d : SReg) (n : BitVec 8) (s : State) :
    ansMemOk (execSemRd d n s) = s.memOk := by
  unfold execSemRd
  simp

@[simp] theorem execSemPostTile_memOk (a : SReg) (n : BitVec 8) (v : BitVec 24) (s : State) :
    ansMemOk (execSemPostTile a n v s) = s.memOk := by
  unfold execSemPostTile
  rw [ansMemOk_next]; refine State.issue_memOk_eq _ _ _ ?_; first | rfl | ((try dsimp only); (repeat' split) <;> first | rfl | (simp; done) | (simp_all; done))

@[simp] theorem execSemPostTileLands_memOk (k : Nat) (s : State) :
    ansMemOk (execSemPostTileLands k s) = s.memOk := by
  unfold execSemPostTileLands
  rw [ansMemOk_next]
  split
  · rfl
  · split
    · rfl
    · rw [State.landTilePost_memOk, State.memOk_mk]

@[simp] theorem execQdrop_memOk (d a : SReg) (mask : BitVec 4) (s : State) :
    ansMemOk (execQdrop d a mask s) = s.memOk := by
  unfold execQdrop
  rw [ansMemOk_next]; refine State.issue_memOk_eq _ _ _ ?_; first | rfl | ((try dsimp only); (repeat' split) <;> first | rfl | (simp; done) | (simp_all; done))

@[simp] theorem State.slowResult_memOk (s : State) (t : TileId) (d : SReg) (v : W64) :
    (State.slowResult s t d v).memOk = s.memOk := by
  unfold State.slowResult
  rfl

@[simp] theorem State.defer_memOk (s : State) (t : TileId) (r : Report) (len : Nat) :
    (State.defer s t r len).memOk = s.memOk := by
  unfold State.defer
  rfl

@[simp] theorem State.readRec_memOk (s : State) (t : TileId) (va : W64) (kind : AccKind) :
    (State.readRec s t va kind).1.memOk = s.memOk := by
  unfold State.readRec
  (try dsimp only); (repeat' split) <;> simp

theorem State.afterFence_memOk (s : State) (i : Instr) (body : State → State × Option Report) (hk : s.memOk = true)
    (hb : (body s).1.memOk = true) : (s.afterFence i body).memOk = true := by
  unfold State.afterFence
  refine State.issue_memOk _ _ _ hk ?_
  split
  · exact hb
  · rw [State.hold_memOk]
    exact hk

theorem State.withRec_memOk (s : State) (i : Instr) (a : SReg) (k : AccKind)
    (body : State → W512 → Target → State × Option Report) (hk : s.memOk = true)
    (hb : ∀ (st : State) (r : W512) (tgt : Target), st.memOk = true → (body st r tgt).1.memOk = true) :
    (s.withRec i a k body).memOk = true := by
  unfold State.withRec
  refine State.afterFence_memOk _ _ _ hk ?_
  dsimp only
  (repeat' split) <;> first | (simp [hk]; done) | (apply hb; simp [hk])

@[simp] theorem State.done8_memOk (s : State) (t : TileId) :
    (State.done8 s t).memOk = s.memOk := by
  unfold State.done8
  rfl

@[simp] theorem State.recWords_memOk (s : State) (t : TileId) (tgt : Target) (va : W64) (ws : List (W64 × List Byte))
    (hk : s.memOk = true) : (s.recWords t tgt va ws).1.memOk = true := by
  induction ws generalizing s with
  | nil => exact hk
  | cons e ws ih =>
    obtain ⟨a, bs⟩ := e
    have hw := State.writeT_memOk s t (tgt.plus (a - va).toNat) true bs hk
    unfold State.recWords
    dsimp only
    split
    · exact ih _ hw
    · exact ih _ hw
    all_goals exact hw

@[simp] theorem State.recWrite_memOk (s : State) (t : TileId) (tgt : Target) (va : W64) (bs : List Byte) (hk : s.memOk = true) :
    (State.recWrite s t tgt va bs).1.memOk = true := by
  unfold State.recWrite
  dsimp only
  split
  · rw [State.renew_memOk]
    exact State.recWords_memOk _ _ _ _ _ hk
  · rw [State.modM_memOk]
    exact State.recWords_memOk _ _ _ _ _ hk
  · exact State.recWords_memOk _ _ _ _ _ hk

@[simp] theorem State.spawnAt_memOk (s : State) (t : TileId) (d : SReg) (pool : BitVec 8) (b : W64) (r : W512)
    (hk : s.memOk = true) : (s.spawnAt t d pool b r).memOk = true := by
  have h1 : ((s.poolGet pool).1.countRec r).memOk = true := State.countRec_memOk _ _ (State.poolGet_memOk s pool hk)
  unfold State.spawnAt
  dsimp only
  split
  · rw [State.done8_memOk, State.slowResult_memOk]
    exact State.finishWhole_memOk _ _ _ h1
  · split
    · split
      · rw [State.done8_memOk, State.slowResult_memOk]
        exact State.pushQueue_memOk _ _ _ _ _ h1
      · rw [State.done8_memOk, State.slowResult_memOk]
        exact State.poolPut_memOk _ _ _ (State.uncountRec_memOk _ _ (State.pushQueue_memOk _ _ _ _ _ h1))
    · rw [State.done8_memOk, State.slowResult_memOk]
      exact h1

@[simp] theorem State.spawnRec_memOk (s : State) (t : TileId) (d a : SReg) (pool : BitVec 8) (tpl : W512)
    (hk : s.memOk = true) : (s.spawnRec t d a pool tpl).memOk = true := by
  unfold State.spawnRec
  dsimp only
  split
  · rw [State.done8_memOk, State.slowResult_memOk]
    exact hk
  · split
    · rw [State.hold_memOk]
      exact hk
    · split
      · exact State.spawnAt_memOk _ _ _ _ _ _ (State.recWrite_memOk _ _ _ _ _ hk)
      · rw [State.hold_memOk]
        exact State.recWrite_memOk _ _ _ _ _ hk

@[simp] theorem execSpawn_memOk (d a : SReg) (pool : BitVec 8) (s : State) (hk : s.memOk = true) :
    ansMemOk (execSpawn d a pool s) = true := by
  unfold execSpawn
  rw [ansMemOk_next]
  refine State.withRec_memOk _ _ _ _ _ hk (fun st r tgt h => ?_)
  dsimp only
  split
  · rw [State.defer_memOk]
    exact h
  · split
    · rw [State.defer_memOk]
      exact h
    · split
      · rw [State.hold_memOk]
        exact h
      · exact State.spawnRec_memOk _ _ _ _ _ _ h

@[simp] theorem State.countOnce_memOk (s : State) (t : TileId) (r : W512) (tgt : Target) (va : W64) (hk : s.memOk = true) :
    (s.countOnce t r tgt va).1.memOk = true := by
  unfold State.countOnce
  dsimp only
  split
  · exact hk
  · split
    · exact State.countRec_memOk _ _ (State.recWrite_memOk _ _ _ _ _ hk)
    · exact State.recWrite_memOk _ _ _ _ _ hk

@[simp] theorem State.publishAt_memOk (s : State) (t : TileId) (r : W512) (rpa p : Nat) (n : W64)
    (hk : s.memOk = true) : (s.publishAt t r rpa p n).memOk = true := by
  unfold State.publishAt
  dsimp only
  split
  · exact State.makeReady_memOk _ _ _ (State.putAt_memOk _ _ _ hk)
  · exact State.putAt_memOk _ _ _ hk

@[simp] theorem State.mayCount_memOk (s : State) (t : TileId) (r : W512) (va : W64) :
    (State.mayCount s t r va).1.memOk = s.memOk := by
  unfold State.mayCount
  (try dsimp only); (repeat' split) <;> simp 

@[simp] theorem State.publishRec_memOk (s : State) (t : TileId) (c a : SReg) (r : W512) (tgt : Target) (h : s.memOk = true) :
    (s.publishRec t c a r tgt).1.memOk = true := by
  have hx (j : W64) : (s.routeT t .su (s.tile t).m.asid j .rmw (s.tile t).m.su.inHandler).1.memOk = true := by
    rw [State.routeT_memOk]
    exact h
  unfold State.publishRec
  dsimp only
  split
  · rw [State.defer_memOk]
    exact h
  · split
    · exact hx _
    · exact hx _
    · rw [State.defer_memOk]
      exact hx _
    · split
      · rw [State.defer_memOk]
        exact hx _
      · split
        · rw [State.defer_memOk, State.logPoison_memOk]
          exact hx _
        · split
          · rw [State.defer_memOk]
            exact hx _
          · split
            · rw [State.defer_memOk]
              exact hx _
            · generalize (if recCtd r = true then _ else _ : List Nat) = l
              split
              · rw [State.hold_memOk]
                exact hx _
              · split
                · rw [State.hold_memOk]
                  exact State.countOnce_memOk _ _ _ _ _ (hx _)
                · rw [State.done8_memOk]
                  exact State.publishAt_memOk _ _ _ _ _ _ (State.countOnce_memOk _ _ _ _ _ (hx _))

@[simp] theorem execPublish_memOk (c a : SReg) (s : State) (hk : s.memOk = true) :
    ansMemOk (execPublish c a s) = true := by
  unfold execPublish
  rw [ansMemOk_next]
  refine State.withRec_memOk _ _ _ _ _ hk (fun st r tgt h => ?_)
  have h1 (va : W64) : (st.mayCount st.cur r va).1.memOk = true := by
    rw [State.mayCount_memOk]
    exact h
  dsimp only
  split
  · exact h1 _
  · rw [State.defer_memOk]
    exact h1 _
  · exact State.publishRec_memOk _ _ _ _ _ _ (h1 _)

@[simp] theorem execYield_memOk (d : SReg) (s : State) :
    ansMemOk (execYield d s) = s.memOk := by
  unfold execYield
  rw [ansMemOk_next]; refine State.issue_memOk_eq _ _ _ ?_; first | rfl | ((try dsimp only); (repeat' split) <;> first | rfl | (simp; done) | (simp_all; done))

@[simp] theorem State.cancelTiles_memOk (s : State) (f : Gang → Bool) : (s.cancelTiles f).memOk = s.memOk := by
  unfold State.cancelTiles
  rw [State.memOk_mk]

@[simp] theorem execCancel_memOk (l : Level) (a : SReg) (s : State) (hk : s.memOk = true) :
    ansMemOk (execCancel l a s) = true := by
  unfold execCancel
  rw [ansMemOk_next]; refine State.afterFence_memOk _ _ _ hk ?_; first | exact hk | ((try dsimp only); (repeat' split) <;> first | exact hk | (simp [hk]; done) | (simp_all; done))

@[simp] theorem execCancelTask_memOk (a : SReg) (s : State) (hk : s.memOk = true) :
    ansMemOk (execCancelTask a s) = true := by
  unfold execCancelTask
  rw [ansMemOk_next]; refine State.afterFence_memOk _ _ _ hk ?_; first | exact hk | ((try dsimp only); (repeat' split) <;> first | exact hk | (simp [hk]; done) | (simp_all; done))

@[simp] theorem execPoolGet_memOk (d : SReg) (pool : BitVec 8) (s : State) (hk : s.memOk = true) :
    ansMemOk (execPoolGet d pool s) = true := by
  unfold execPoolGet
  rw [ansMemOk_next]
  refine State.issue_memOk _ _ _ hk ?_
  split
  · rw [State.hold_memOk]
    exact hk
  · dsimp only
    rw [State.done8_memOk, State.slowResult_memOk]
    exact State.poolGet_memOk _ _ hk

@[simp] theorem execPoolPut_memOk (a : SReg) (pool : BitVec 8) (s : State) (hk : s.memOk = true) :
    ansMemOk (execPoolPut a pool s) = true := by
  unfold execPoolPut
  rw [ansMemOk_next]; refine State.afterFence_memOk _ _ _ hk ?_; first | exact hk | ((try dsimp only); (repeat' split) <;> first | exact hk | (simp [hk]; done) | (simp_all; done))

@[simp] theorem State.tideRead_memOk (s : State) (t : TileId) (va : W64) (n : Nat) :
    (s.tideRead t va n).1.memOk = s.memOk := by
  induction n generalizing s va with
  | zero => rfl
  | succ n ih =>
    unfold State.tideRead
    dsimp only
    split
    · split <;> rw [ih, State.readRec_memOk]
    · rw [State.readRec_memOk]

@[simp] theorem execTideLoad_memOk (a : SReg) (n1 : BitVec 8) (s : State) :
    ansMemOk (execTideLoad a n1 s) = s.memOk := by
  unfold execTideLoad
  rw [ansMemOk_next]; refine State.issue_memOk_eq _ _ _ ?_; first | rfl | ((try dsimp only); (repeat' split) <;> first | rfl | (simp; done) | (simp_all; done))

@[simp] theorem execTideGo_memOk (a : SReg) (post : Option (BitVec 8)) (s : State) :
    ansMemOk (execTideGo a post s) = s.memOk := by
  unfold execTideGo
  rw [ansMemOk_next]; refine State.issue_memOk_eq _ _ _ ?_; first | rfl | ((try dsimp only); (repeat' split) <;> first | rfl | (simp; done) | (simp_all; done))

@[simp] theorem execTideRd_memOk (d : SReg) (sel : Bool) (s : State) :
    ansMemOk (execTideRd d sel s) = s.memOk := by
  unfold execTideRd
  rw [ansMemOk_next]; refine State.issue_memOk_eq _ _ _ ?_; first | rfl | ((try dsimp only); (repeat' split) <;> first | rfl | (simp; done) | (simp_all; done))

@[simp] theorem State.pushS_memOk (s : State) (i : Instr) (h : Head) (q : QId) :
    (State.pushS s i h q).memOk = s.memOk := by
  unfold State.pushS
  refine State.issue_memOk_eq _ _ _ ?_; first | rfl | ((try dsimp only); (repeat' split) <;> first | rfl | (simp; done) | (simp_all; done))

@[simp] theorem execMma_memOk (h : Head) (acc : BitVec 3) (tda tdb : TdIx) (sat ta z : Bool) (s : State) :
    ansMemOk (execMma h acc tda tdb sat ta z s) = s.memOk := by
  unfold execMma
  simp

@[simp] theorem execMmaSp_memOk (h : Head) (acc : BitVec 3) (tda tdb : TdIx) (sat ta z : Bool) (s : State) :
    ansMemOk (execMmaSp h acc tda tdb sat ta z s) = s.memOk := by
  unfold execMmaSp
  simp

@[simp] theorem execWload_memOk (h : Head) (wb : BitVec 3) (tdb : TdIx) (s : State) :
    ansMemOk (execWload h wb tdb s) = s.memOk := by
  unfold execWload
  simp

@[simp] theorem execWloadT_memOk (h : Head) (wb : BitVec 3) (tdb : TdIx) (sparse : Bool) (s : State) :
    ansMemOk (execWloadT h wb tdb sparse s) = s.memOk := by
  unfold execWloadT
  simp

@[simp] theorem execAclr_memOk (h : Head) (acc : BitVec 3) (s : State) :
    ansMemOk (execAclr h acc s) = s.memOk := by
  unfold execAclr
  simp

@[simp] theorem execAinit_memOk (h : Head) (acc : BitVec 3) (tds : TdIx) (s : State) :
    ansMemOk (execAinit h acc tds s) = s.memOk := by
  unfold execAinit
  simp

@[simp] theorem execAdrain_memOk (h : Head) (acc : BitVec 3) (tdd : TdIx) (trans clear : Bool) (s : State) :
    ansMemOk (execAdrain h acc tdd trans clear s) = s.memOk := by
  unfold execAdrain
  simp

@[simp] theorem execAdrainMx_memOk (h : Head) (acc : BitVec 3) (tdd : TdIx) (trans clear : Bool) (s : State) :
    ansMemOk (execAdrainMx h acc tdd trans clear s) = s.memOk := by
  unfold execAdrainMx
  simp

@[simp] theorem execFenceOc_memOk (h : Head) (s : State) :
    ansMemOk (execFenceOc h s) = s.memOk := by
  unfold execFenceOc
  simp

@[simp] theorem execCp_memOk (h : Head) (tdd tds : TdIx) (slot : Option (BitVec 3)) (s : State) :
    ansMemOk (execCp h tdd tds slot s) = s.memOk := by
  unfold execCp
  simp

@[simp] theorem execCpAccF32_memOk (h : Head) (tdd tds : TdIx) (slot : Option (BitVec 3)) (s : State) :
    ansMemOk (execCpAccF32 h tdd tds slot s) = s.memOk := by
  unfold execCpAccF32
  simp

@[simp] theorem execCpAccBf16_memOk (h : Head) (tdd tds : TdIx) (s : State) :
    ansMemOk (execCpAccBf16 h tdd tds s) = s.memOk := by
  unfold execCpAccBf16
  simp

@[simp] theorem execCpAccI32_memOk (h : Head) (tdd tds : TdIx) (s : State) :
    ansMemOk (execCpAccI32 h tdd tds s) = s.memOk := by
  unfold execCpAccI32
  simp

@[simp] theorem execCpMc_memOk (h : Head) (tdd tds : TdIx) (x : SReg) (mask : BitVec 16) (s : State) :
    ansMemOk (execCpMc h tdd tds x mask s) = s.memOk := by
  unfold execCpMc
  simp

@[simp] theorem execGather_memOk (h : Head) (tdd tdt tdl : TdIx) (strict : Bool) (s : State) :
    ansMemOk (execGather h tdd tdt tdl strict s) = s.memOk := by
  unfold execGather
  simp

@[simp] theorem execScatter_memOk (h : Head) (tdt tds tdl : TdIx) (strict : Bool) (s : State) :
    ansMemOk (execScatter h tdt tds tdl strict s) = s.memOk := by
  unfold execScatter
  simp

@[simp] theorem execScatterAccF32_memOk (h : Head) (tdt tds tdl : TdIx) (strict : Bool) (s : State) :
    ansMemOk (execScatterAccF32 h tdt tds tdl strict s) = s.memOk := by
  unfold execScatterAccF32
  simp

@[simp] theorem execScatterAccBf16_memOk (h : Head) (tdt tds tdl : TdIx) (strict : Bool) (s : State) :
    ansMemOk (execScatterAccBf16 h tdt tds tdl strict s) = s.memOk := by
  unfold execScatterAccBf16
  simp

@[simp] theorem execScatterAccI32_memOk (h : Head) (tdt tds tdl : TdIx) (strict : Bool) (s : State) :
    ansMemOk (execScatterAccI32 h tdt tds tdl strict s) = s.memOk := by
  unfold execScatterAccI32
  simp

@[simp] theorem execFill_memOk (h : Head) (tdd : TdIx) (x : SReg) (s : State) :
    ansMemOk (execFill h tdd x s) = s.memOk := by
  unfold execFill
  simp

@[simp] theorem execAtomAdd_memOk (h : Head) (ret : Option MIx) (x y : SReg) (s : State) :
    ansMemOk (execAtomAdd h ret x y s) = s.memOk := by
  unfold execAtomAdd
  simp

@[simp] theorem execAtomAddthr_memOk (h : Head) (ret : Option MIx) (x y z : SReg) (s : State) :
    ansMemOk (execAtomAddthr h ret x y z s) = s.memOk := by
  unfold execAtomAddthr
  simp

@[simp] theorem execAtomSwap_memOk (h : Head) (ret : Option MIx) (x y : SReg) (s : State) :
    ansMemOk (execAtomSwap h ret x y s) = s.memOk := by
  unfold execAtomSwap
  simp

@[simp] theorem execAtomCas_memOk (h : Head) (ret : Option MIx) (x y z : SReg) (s : State) :
    ansMemOk (execAtomCas h ret x y z s) = s.memOk := by
  unfold execAtomCas
  simp

@[simp] theorem execAtomMin_memOk (h : Head) (ret : Option MIx) (x y : SReg) (s : State) :
    ansMemOk (execAtomMin h ret x y s) = s.memOk := by
  unfold execAtomMin
  simp

@[simp] theorem execAtomMax_memOk (h : Head) (ret : Option MIx) (x y : SReg) (s : State) :
    ansMemOk (execAtomMax h ret x y s) = s.memOk := by
  unfold execAtomMax
  simp

@[simp] theorem execAtomArrive_memOk (h : Head) (ret : Option MIx) (x : SReg) (s : State) :
    ansMemOk (execAtomArrive h ret x s) = s.memOk := by
  unfold execAtomArrive
  simp

@[simp] theorem execNote_memOk (h : Head) (x y : SReg) (s : State) :
    ansMemOk (execNote h x y s) = s.memOk := by
  unfold execNote
  simp

@[simp] theorem execChain_memOk (h : Head) (w : BitVec 2) (x : SReg) (s : State) :
    ansMemOk (execChain h w x s) = s.memOk := by
  unfold execChain
  simp

@[simp] theorem execStashMap_memOk (h : Head) (td : TdIx) (zero : Bool) (soff : BitVec 10) (s : State) :
    ansMemOk (execStashMap h td zero soff s) = s.memOk := by
  unfold execStashMap
  simp

@[simp] theorem execStashUnmap_memOk (h : Head) (td : TdIx) (s : State) :
    ansMemOk (execStashUnmap h td s) = s.memOk := by
  unfold execStashUnmap
  simp

@[simp] theorem execStashWb_memOk (h : Head) (td : TdIx) (s : State) :
    ansMemOk (execStashWb h td s) = s.memOk := by
  unfold execStashWb
  simp

@[simp] theorem execOffload_memOk (h : Head) (tdd tds : TdIx) (x : SReg) (s : State) :
    ansMemOk (execOffload h tdd tds x s) = s.memOk := by
  unfold execOffload
  simp

@[simp] theorem execCsend_memOk (h : Head) (c : CeClass) (link : LinkId) (tag : BitVec 8) (tds : TdIx) (s : State) :
    ansMemOk (execCsend h c link tag tds s) = s.memOk := by
  unfold execCsend
  simp

@[simp] theorem execCrecv_memOk (h : Head) (link : LinkId) (tag : BitVec 8) (tdd : TdIx) (rc : BitVec 6) (s : State) :
    ansMemOk (execCrecv h link tag tdd rc s) = s.memOk := by
  unfold execCrecv
  simp

@[simp] theorem execCstep_memOk (h : Head) (c : CeClass) (link : LinkId) (tag : BitVec 8) (tdd tdk tds : TdIx) (rc : BitVec 6) (s : State) :
    ansMemOk (execCstep h c link tag tdd tdk tds rc s) = s.memOk := by
  unfold execCstep
  simp

@[simp] theorem execCarm_memOk (h : Head) (c : CeClass) (link : LinkId) (tag : BitVec 8) (tds : TdIx) (rc : BitVec 6) (y : SReg) (s : State) :
    ansMemOk (execCarm h c link tag tds rc y s) = s.memOk := by
  unfold execCarm
  simp

@[simp] theorem execCrcSet_memOk (h : Head) (rc : BitVec 6) (x : SReg) (die : DieId) (s : State) :
    ansMemOk (execCrcSet h rc x die s) = s.memOk := by
  unfold execCrcSet
  simp

@[simp] theorem execCrcRd_memOk (h : Head) (m : MIx) (rc : BitVec 6) (die : DieId) (fleet : Bool) (s : State) :
    ansMemOk (execCrcRd h m rc die fleet s) = s.memOk := by
  unfold execCrcRd
  simp

@[simp] theorem execCslot_memOk (h : Head) (link : LinkId) (x : SReg) (first count1 : BitVec 10) (commit : Bool) (s : State) :
    ansMemOk (execCslot h link x first count1 commit s) = s.memOk := by
  unfold execCslot
  simp

@[simp] theorem execCef_memOk (h : Head) (c : CeClass) (link : LinkId) (tag : BitVec 8) (tds tdr tdw : TdIx) (s : State) :
    ansMemOk (execCef h c link tag tds tdr tdw s) = s.memOk := by
  unfold execCef
  simp

@[simp] theorem execVrun_memOk (h : Head) (imm : W32) (s : State) :
    ansMemOk (execVrun h imm s) = s.memOk := by
  unfold execVrun
  simp

end Sys2Proof.Machine
end

