-- ==== Sys2Proof/Laws/KeepC.lean ====
section
/-! SUPPORT. The canonical form of the byte maps is kept by the engines and the timed events. -/

namespace Sys2Proof.Machine

@[simp] theorem State.vecFault_memOk (s : State) (t : TileId) (r : Report) :
    (State.vecFault s t r).memOk = s.memOk := by
  unfold State.vecFault
  rfl

theorem State.issueV_memOk (s : State) (i : Instr) (body : State → State × Option VStop)
    (hb : (body s).1.memOk = s.memOk) : (s.issueV i body).memOk = s.memOk := by
  unfold State.issueV
  dsimp only
  split
  · rw [State.modM_memOk, hb]
  · split
    · rw [State.vecTrap_memOk]
    · split
      · rw [State.modM_memOk, hb]
      · rw [State.modM_memOk, hb]
      · rw [State.vecTrap_memOk, hb]
      · rw [State.vecFault_memOk, hb]

@[simp] theorem State.opV_memOk (s : State) (i : Instr) (f : Member → Member) :
    (State.opV s i f).memOk = s.memOk := by
  unfold State.opV
  refine State.issueV_memOk _ _ _ ?_; first | rfl | ((try dsimp only); (repeat' split) <;> first | rfl | (simp; done) | (simp_all; done))

@[simp] theorem State.elemS_memOk (s : State) (i : Instr) (ty : VTy) (d : VReg) (pm : PReg) (lat : Nat) (f : Member → Nat → Nat) :
    (State.elemS s i ty d pm lat f).memOk = s.memOk := by
  unfold State.elemS
  simp

@[simp] theorem State.roundS_memOk (s : State) (i : Instr) (ty : VTy) (rm : RMode) (d : VReg) (pm : PReg) (lat : Nat) (f : Member → Nat → Nat → Nat) :
    (State.roundS s i ty rm d pm lat f).memOk = s.memOk := by
  unfold State.roundS
  simp

@[simp] theorem execVadd_memOk (ty : VTy) (rm : RMode) (sat : Bool) (d a b : VReg) (pm : PReg) (s : State) :
    ansMemOk (execVadd ty rm sat d a b pm s) = s.memOk := by
  unfold execVadd
  simp

@[simp] theorem execVsub_memOk (ty : VTy) (rm : RMode) (sat : Bool) (d a b : VReg) (pm : PReg) (s : State) :
    ansMemOk (execVsub ty rm sat d a b pm s) = s.memOk := by
  unfold execVsub
  simp

@[simp] theorem execVmul_memOk (ty : VTy) (rm : RMode) (sat : Bool) (d a b : VReg) (pm : PReg) (s : State) :
    ansMemOk (execVmul ty rm sat d a b pm s) = s.memOk := by
  unfold execVmul
  simp

@[simp] theorem execVfma_memOk (ty : VTy) (rm : RMode) (sat : Bool) (d a b c : VReg) (pm : PReg) (s : State) :
    ansMemOk (execVfma ty rm sat d a b c pm s) = s.memOk := by
  unfold execVfma
  simp

@[simp] theorem execVmin_memOk (ty : VTy) (d a b : VReg) (pm : PReg) (s : State) :
    ansMemOk (execVmin ty d a b pm s) = s.memOk := by
  unfold execVmin
  simp

@[simp] theorem execVmax_memOk (ty : VTy) (d a b : VReg) (pm : PReg) (s : State) :
    ansMemOk (execVmax ty d a b pm s) = s.memOk := by
  unfold execVmax
  simp

@[simp] theorem State.bitS_memOk (s : State) (i : Instr) (ty : VTy) (d a b : VReg) (pm : PReg) (f : Nat → Nat → Nat) :
    (State.bitS s i ty d a b pm f).memOk = s.memOk := by
  unfold State.bitS
  simp

@[simp] theorem execVand_memOk (ty : VTy) (d a b : VReg) (pm : PReg) (s : State) :
    ansMemOk (execVand ty d a b pm s) = s.memOk := by
  unfold execVand
  simp

@[simp] theorem execVor_memOk (ty : VTy) (d a b : VReg) (pm : PReg) (s : State) :
    ansMemOk (execVor ty d a b pm s) = s.memOk := by
  unfold execVor
  simp

@[simp] theorem execVxor_memOk (ty : VTy) (d a b : VReg) (pm : PReg) (s : State) :
    ansMemOk (execVxor ty d a b pm s) = s.memOk := by
  unfold execVxor
  simp

@[simp] theorem execVshl_memOk (ty : VTy) (d a b : VReg) (pm : PReg) (s : State) :
    ansMemOk (execVshl ty d a b pm s) = s.memOk := by
  unfold execVshl
  simp

@[simp] theorem execVshr_memOk (ty : VTy) (d a b : VReg) (pm : PReg) (s : State) :
    ansMemOk (execVshr ty d a b pm s) = s.memOk := by
  unfold execVshr
  simp

@[simp] theorem execVsra_memOk (ty : VTy) (d a b : VReg) (pm : PReg) (s : State) :
    ansMemOk (execVsra ty d a b pm s) = s.memOk := by
  unfold execVsra
  simp

@[simp] theorem State.cmpS_memOk (s : State) (i : Instr) (r : VRel) (ty : VTy) (d : PReg) (a b : VReg) (pm : PReg) :
    (State.cmpS s i r ty d a b pm).memOk = s.memOk := by
  unfold State.cmpS
  simp

@[simp] theorem execVcmpEq_memOk (ty : VTy) (d : PReg) (a b : VReg) (pm : PReg) (s : State) :
    ansMemOk (execVcmpEq ty d a b pm s) = s.memOk := by
  unfold execVcmpEq
  simp

@[simp] theorem execVcmpLt_memOk (ty : VTy) (d : PReg) (a b : VReg) (pm : PReg) (s : State) :
    ansMemOk (execVcmpLt ty d a b pm s) = s.memOk := by
  unfold execVcmpLt
  simp

@[simp] theorem execVcmpLe_memOk (ty : VTy) (d : PReg) (a b : VReg) (pm : PReg) (s : State) :
    ansMemOk (execVcmpLe ty d a b pm s) = s.memOk := by
  unfold execVcmpLe
  simp

@[simp] theorem execVsel_memOk (ty : VTy) (d a b : VReg) (pc pm : PReg) (s : State) :
    ansMemOk (execVsel ty d a b pc pm s) = s.memOk := by
  unfold execVsel
  simp

@[simp] theorem execVcvt_memOk (ty src : VTy) (rm : RMode) (sat : Bool) (d a : VReg) (pm : PReg) (s : State) :
    ansMemOk (execVcvt ty src rm sat d a pm s) = s.memOk := by
  unfold execVcvt
  simp

@[simp] theorem execVpack_memOk (ty : VTy) (rm : RMode) (sat : Bool) (d a b : VReg) (pm : PReg) (s : State) :
    ansMemOk (execVpack ty rm sat d a b pm s) = s.memOk := by
  unfold execVpack
  simp

@[simp] theorem execVperm_memOk (ty : VTy) (d a b : VReg) (pm : PReg) (s : State) :
    ansMemOk (execVperm ty d a b pm s) = s.memOk := by
  unfold execVperm
  simp

@[simp] theorem execVbcast_memOk (ty : VTy) (d : VReg) (pm : PReg) (imm : W32) (s : State) :
    ansMemOk (execVbcast ty d pm imm s) = s.memOk := by
  unfold execVbcast
  simp

@[simp] theorem execVslideUp_memOk (ty : VTy) (d a : VReg) (pm : PReg) (n : W32) (s : State) :
    ansMemOk (execVslideUp ty d a pm n s) = s.memOk := by
  unfold execVslideUp
  simp

@[simp] theorem execVslideDn_memOk (ty : VTy) (d a : VReg) (pm : PReg) (n : W32) (s : State) :
    ansMemOk (execVslideDn ty d a pm n s) = s.memOk := by
  unfold execVslideDn
  simp

@[simp] theorem State.redS_memOk (s : State) (i : Instr) (ty : VTy) (d a : VReg) (pm : PReg) (ident : Nat) (comb : Nat → Nat → Nat) :
    (State.redS s i ty d a pm ident comb).memOk = s.memOk := by
  unfold State.redS
  simp

@[simp] theorem execVredSum_memOk (ty : VTy) (rm : RMode) (d a : VReg) (pm : PReg) (s : State) :
    ansMemOk (execVredSum ty rm d a pm s) = s.memOk := by
  unfold execVredSum
  simp

@[simp] theorem execVredMax_memOk (ty : VTy) (d a : VReg) (pm : PReg) (s : State) :
    ansMemOk (execVredMax ty d a pm s) = s.memOk := by
  unfold execVredMax
  simp

@[simp] theorem execVredMin_memOk (ty : VTy) (d a : VReg) (pm : PReg) (s : State) :
    ansMemOk (execVredMin ty d a pm s) = s.memOk := by
  unfold execVredMin
  simp

@[simp] theorem State.tipS_memOk (s : State) (i : Instr) (d a : VReg) (tbl pm : PReg) (ext : Bool) :
    (State.tipS s i d a tbl pm ext).memOk = s.memOk := by
  unfold State.tipS
  refine State.issueV_memOk _ _ _ ?_; first | rfl | ((try dsimp only); (repeat' split) <;> first | rfl | (simp; done) | (simp_all; done))

@[simp] theorem execVtip_memOk (d a : VReg) (tbl pm : PReg) (s : State) :
    ansMemOk (execVtip d a tbl pm s) = s.memOk := by
  unfold execVtip
  simp

@[simp] theorem execVtipX_memOk (d a : VReg) (tbl pm : PReg) (s : State) :
    ansMemOk (execVtipX d a tbl pm s) = s.memOk := by
  unfold execVtipX
  simp

@[simp] theorem execKli_memOk (d : PReg) (imm : W32) (s : State) :
    ansMemOk (execKli d imm s) = s.memOk := by
  unfold execKli
  simp

@[simp] theorem execKadd_memOk (d a : PReg) (src : VSrc) (n : BitVec 6) (imm : BitVec 24) (s : State) :
    ansMemOk (execKadd d a src n imm s) = s.memOk := by
  unfold execKadd
  simp

@[simp] theorem execKmov_memOk (d : PReg) (src : VSrc) (s : State) :
    ansMemOk (execKmov d src s) = s.memOk := by
  unfold execKmov
  simp

@[simp] theorem execPlen_memOk (d : PReg) (src : VSrc) (imm : W32) (s : State) :
    ansMemOk (execPlen d src imm s) = s.memOk := by
  unfold execPlen
  simp

@[simp] theorem execPlenS_memOk (d : PReg) (src : VSrc) (imm : W32) (s : State) :
    ansMemOk (execPlenS d src imm s) = s.memOk := by
  unfold execPlenS
  simp

@[simp] theorem execPand_memOk (d a b : PReg) (s : State) :
    ansMemOk (execPand d a b s) = s.memOk := by
  unfold execPand
  simp

@[simp] theorem execPor_memOk (d a b : PReg) (s : State) :
    ansMemOk (execPor d a b s) = s.memOk := by
  unfold execPor
  simp

@[simp] theorem execPnot_memOk (d a : PReg) (s : State) :
    ansMemOk (execPnot d a s) = s.memOk := by
  unfold execPnot
  simp

@[simp] theorem execVnop_memOk (s : State) :
    ansMemOk (execVnop s) = s.memOk := by
  unfold execVnop
  simp

@[simp] theorem execVloop_memOk (src : VSrc) (dist count : BitVec 16) (s : State) :
    ansMemOk (execVloop src dist count s) = s.memOk := by
  unfold execVloop
  refine State.issueV_memOk _ _ _ ?_; first | rfl | ((try dsimp only); (repeat' split) <;> first | rfl | (simp; done) | (simp_all; done))

@[simp] theorem execVflip_memOk (s : State) :
    ansMemOk (execVflip s) = s.memOk := by
  unfold execVflip
  simp

@[simp] theorem execVend_memOk (s : State) :
    ansMemOk (execVend s) = s.memOk := by
  unfold execVend
  refine State.issueV_memOk _ _ _ ?_; first | rfl | ((try dsimp only); (repeat' split) <;> first | rfl | (simp; done) | (simp_all; done))

@[simp] theorem execVqmark_memOk (s : State) :
    ansMemOk (execVqmark s) = s.memOk := by
  unfold execVqmark
  simp

@[simp] theorem State.routeLanes_memOk (s : State) (t : TileId) (kind : AccKind) (l : List (Nat × W64)) :
    (s.routeLanes t kind l).1.memOk = s.memOk := by
  induction l generalizing s with
  | nil => rfl
  | cons a l ih =>
    obtain ⟨i, va⟩ := a
    unfold State.routeLanes
    dsimp only
    (repeat' split) <;> simp only [ih, State.routeT_memOk]

@[simp] theorem State.vecCheck_memOk (s : State) (t : TileId) (kind : AccKind) (align : Nat) (l : List (Nat × W64)) :
    (State.vecCheck s t kind align l).1.memOk = s.memOk := by
  unfold State.vecCheck
  (try dsimp only); (repeat' split) <;> simp

@[simp] theorem State.vloadS_memOk (s : State) (i : Instr) (kind : VKind) (dst : DbgReg) (align : Nat) (addrs : Member → List (Nat × W64)) (mask : Member → W4096) (busy : List LaneAcc → Nat) :
    (State.vloadS s i kind dst align addrs mask busy).memOk = s.memOk := by
  unfold State.vloadS
  refine State.issueV_memOk _ _ _ ?_; first | rfl | ((try dsimp only); (repeat' split) <;> first | rfl | (simp; done) | (simp_all; done))

@[simp] theorem State.vstoreS_memOk (s : State) (i : Instr) (conv : Conv) (v : VReg) (addrs : Member → List (Nat × W64)) (busy : List LaneAcc → Nat) :
    (State.vstoreS s i conv v addrs busy).memOk = s.memOk := by
  unfold State.vstoreS
  refine State.issueV_memOk _ _ _ ?_; first | rfl | ((try dsimp only); (repeat' split) <;> first | rfl | (simp; done) | (simp_all; done))

@[simp] theorem execVld_memOk (conv : Conv) (v : VReg) (kb pm : PReg) (off : W32) (s : State) :
    ansMemOk (execVld conv v kb pm off s) = s.memOk := by
  unfold execVld
  simp

@[simp] theorem execVst_memOk (conv : Conv) (v : VReg) (kb pm : PReg) (off : W32) (s : State) :
    ansMemOk (execVst conv v kb pm off s) = s.memOk := by
  unfold execVst
  simp

@[simp] theorem execVldx_memOk (conv : Conv) (v a : VReg) (kc pm : PReg) (s : State) :
    ansMemOk (execVldx conv v a kc pm s) = s.memOk := by
  unfold execVldx
  simp

@[simp] theorem execVstx_memOk (conv : Conv) (v a : VReg) (kc pm : PReg) (s : State) :
    ansMemOk (execVstx conv v a kc pm s) = s.memOk := by
  unfold execVstx
  simp

@[simp] theorem execKld_memOk (d a : PReg) (off : W32) (s : State) :
    ansMemOk (execKld d a off s) = s.memOk := by
  unfold execKld
  simp

@[simp] theorem execVupd_memOk (d a b : VReg) (kc pm : PReg) (s : State) :
    ansMemOk (execVupd d a b kc pm s) = s.memOk := by
  unfold execVupd
  refine State.issueV_memOk _ _ _ ?_; first | rfl | ((try dsimp only); (repeat' split) <;> first | rfl | (simp; done) | (simp_all; done))

@[simp] theorem execQueuedPush_memOk (t : TileId) (s : State) :
    ansMemOk (execQueuedPush t s) = s.memOk := by
  unfold execQueuedPush
  (repeat' split) <;> simp

@[simp] theorem execFlipExchange_memOk (t : TileId) (d : Dom) (s : State) (hk : s.memOk = true) :
    ansMemOk (execFlipExchange t d s) = true := by
  unfold execFlipExchange
  (try dsimp only); (repeat' split) <;> simp [hk]

@[simp] theorem execSlowWriteLands_memOk (t : TileId) (s : State) (hk : s.memOk = true) :
    ansMemOk (execSlowWriteLands t s) = true := by
  unfold execSlowWriteLands
  (try dsimp only); (repeat' split) <;> simp [hk]

@[simp] theorem State.looseLoad_memOk (s : State) (t : TileId) (x : SuLoad) :
    (State.looseLoad s t x).memOk = s.memOk := by
  unfold State.looseLoad
  (try dsimp only); (repeat' split) <;> simp

@[simp] theorem execSuLoadLands_memOk (t : TileId) (k : Nat) (s : State) :
    ansMemOk (execSuLoadLands t k s) = s.memOk := by
  unfold execSuLoadLands
  (repeat' split) <;> simp

@[simp] theorem execSuStoreLands_memOk (t : TileId) (k : Nat) (s : State) (hk : s.memOk = true) :
    ansMemOk (execSuStoreLands t k s) = true := by
  unfold execSuStoreLands
  (try dsimp only); (repeat' split) <;> simp [hk]

@[simp] theorem execVectorQueueSend_memOk (t : TileId) (store : Bool) (s : State) :
    ansMemOk (execVectorQueueSend t store s) = s.memOk := by
  unfold execVectorQueueSend
  (repeat' split) <;> simp

@[simp] theorem State.looseEntry_memOk (s : State) (t : TileId) (x : VEntry) (hk : s.memOk = true) :
    (State.looseEntry s t x).memOk = true := by
  unfold State.looseEntry
  (try dsimp only); (repeat' split) <;> simp [hk]

@[simp] theorem execVuLoadLands_memOk (t : TileId) (k : Nat) (s : State) (hk : s.memOk = true) :
    ansMemOk (execVuLoadLands t k s) = true := by
  unfold execVuLoadLands
  (try dsimp only); (repeat' split) <;> simp [hk]

@[simp] theorem execVuStoreLands_memOk (t : TileId) (k : Nat) (s : State) (hk : s.memOk = true) :
    ansMemOk (execVuStoreLands t k s) = true := by
  unfold execVuStoreLands
  (try dsimp only); (repeat' split) <;> simp [hk]

@[simp] theorem execMailboxOutsideWrite_memOk (t : TileId) (ks : List Nat) (s : State) :
    ansMemOk (execMailboxOutsideWrite t ks s) = s.memOk := by
  unfold execMailboxOutsideWrite
  simp

@[simp] theorem State.logFill_memOk (s : State) (t : TileId) (l a : Nat) : (s.logFill t l a).memOk = s.memOk := by
  unfold State.logFill
  exact foldl_memOk_eq _ _ _ (fun st x => State.logReplay_memOk _ _ _)

@[simp] theorem execStashFillComplete_memOk (t : TileId) (line : BitVec 14) (s : State) (hk : s.memOk = true) :
    ansMemOk (execStashFillComplete t line s) = true := by
  unfold execStashFillComplete
  (try dsimp only); (repeat' split)
  · exact State.fillDone_memOk _ _ _ ((State.logFill_memOk _ _ _ _).trans hk)
  · exact hk

@[simp] theorem execStashShadowing_memOk (t : TileId) (line : BitVec 14) (s : State) (hk : s.memOk = true) :
    ansMemOk (execStashShadowing t line s) = true := by
  unfold execStashShadowing
  (try dsimp only); (repeat' split) <;> simp [hk]

@[simp] theorem execLineMove_memOk (line : Nat) (s : State) :
    ansMemOk (execLineMove line s) = s.memOk := by
  unfold execLineMove
  (try dsimp only); (repeat' split) <;> simp

@[simp] theorem execTrapEntry_memOk (t : TileId) (s : State) :
    ansMemOk (execTrapEntry t s) = s.memOk := by
  unfold execTrapEntry
  (try dsimp only); (repeat' split) <;> simp

@[simp] theorem execWordEncodingNothing_memOk (w : BadWord) (s : State) :
    ansMemOk (execWordEncodingNothing w s) = s.memOk := by
  unfold execWordEncodingNothing
  (try dsimp only); (repeat' split) <;> simp

@[simp] theorem State.modMu_memOk (s : State) (t : TileId) (f : MuRun → MuRun) :
    (State.modMu s t f).memOk = s.memOk := by
  unfold State.modMu
  rfl

@[simp] theorem State.muFault_memOk (s : State) (t : TileId) (r : Report) (f : MuRun → MuRun) :
    (State.muFault s t r f).memOk = s.memOk := by
  unfold State.muFault
  rfl

@[simp] theorem State.ocPut_memOk (s : State) (t : TileId) (o : OcWord) :
    (State.ocPut s t o).memOk = s.memOk := by
  unfold State.ocPut
  (try dsimp only); (repeat' split) <;> simp 

@[simp] theorem State.muWord_memOk (s : State) (t : TileId) (c : Cmd) (tdx : TdIx) (w : Nat) :
    (State.muWord s t c tdx w).1.memOk = s.memOk := by
  unfold State.muWord
  (try dsimp only); (repeat' split) <;> simp

@[simp] theorem State.muWords_memOk (s : State) (t : TileId) (c : Cmd) (tdx : TdIx) (l : List Nat) :
    (s.muWords t c tdx l).1.memOk = s.memOk := by
  induction l generalizing s with
  | nil => rfl
  | cons a l ih =>
    unfold State.muWords
    dsimp only
    (repeat' split) <;> simp only [ih, State.muWord_memOk]

@[simp] theorem State.stepFault_memOk (s : State) (t : TileId) (r : MuRun) (code reason : BitVec 8) (kind : BitVec 2) (va : W64) :
    (State.stepFault s t r code reason kind va).memOk = s.memOk := by
  unfold State.stepFault
  rfl

@[simp] theorem State.mmaStep_memOk (s : State) (t : TileId) (r : MuRun) (slot : BitVec 3) (tda tdb : TdIx) (sat ta z sp : Bool) :
    (State.mmaStep s t r slot tda tdb sat ta z sp).memOk = s.memOk := by
  unfold State.mmaStep
  (try dsimp only); (repeat' split) <;> simp

@[simp] theorem State.loadFault_memOk (s : State) (t : TileId) (r : Report) :
    (State.loadFault s t r).memOk = s.memOk := by
  unfold State.loadFault
  rfl

@[simp] theorem State.engScales_memOk (s : State) (t : TileId) (asid : BitVec 12) (d : Td) (row : Nat) (l : List Nat) :
    (s.engScales t asid d row l).1.memOk = s.memOk := by
  induction l generalizing s with
  | nil => rfl
  | cons a l ih =>
    unfold State.engScales
    dsimp only
    (repeat' split) <;> simp only [ih, State.engRead_memOk]

@[simp] theorem State.wloadRow_memOk (s : State) (t : TileId) (r : MuRun) (p : BitVec 3) (kd : Nat) :
    (State.wloadRow s t r p kd).memOk = s.memOk := by
  unfold State.wloadRow
  (try dsimp only); (repeat' split) <;> simp

@[simp] theorem State.sparseGroups_memOk (s : State) (t : TileId) (c : Cmd) (d : Td) (limit left g pos : Nat) :
    (s.sparseGroups t c d limit left g pos).1.memOk = s.memOk := by
  induction left generalizing s g pos with
  | zero => rfl
  | succ left ih =>
    unfold State.sparseGroups
    dsimp only
    (repeat' split) <;> simp only [ih, State.engRead_memOk]

@[simp] theorem State.wloadSparse_memOk (s : State) (t : TileId) (r : MuRun) (p : BitVec 3) :
    (State.wloadSparse s t r p).memOk = s.memOk := by
  unfold State.wloadSparse
  (try dsimp only); (repeat' split) <;> simp

@[simp] theorem State.ainitRow_memOk (s : State) (t : TileId) (r : MuRun) (slot : BitVec 3) :
    (State.ainitRow s t r slot).memOk = s.memOk := by
  unfold State.ainitRow
  (try dsimp only); (repeat' split) <;> simp

@[simp] theorem State.drainRow_memOk (s : State) (t : TileId) (r : MuRun) (slot : BitVec 3) (tr clear mx : Bool) (hk : s.memOk = true) :
    (State.drainRow s t r slot tr clear mx).memOk = true := by
  unfold State.drainRow
  (try dsimp only); (repeat' split) <;> simp [hk]

@[simp] theorem State.sparseScan_memOk (s : State) (t : TileId) (c : Cmd) (d : Td) (limit gs left pos : Nat) :
    (s.sparseScan t c d limit gs left pos).1.memOk = s.memOk := by
  induction left generalizing s pos with
  | zero => rfl
  | succ left ih =>
    unfold State.sparseScan
    dsimp only
    (repeat' split) <;> simp only [ih, State.engTranslate_memOk, State.engRead_memOk]

@[simp] theorem State.muScan_memOk (s : State) (t : TileId) (c : Cmd) : (s.muScan t c).1.memOk = s.memOk := by
  unfold State.muScan
  split
  · exact State.sparseScan_memOk _ _ _ _ _ _ _ _
  · rfl

@[simp] theorem State.muBegin_memOk (s : State) (t : TileId) (r : MuRun) :
    (State.muBegin s t r).memOk = s.memOk := by
  unfold State.muBegin
  (try dsimp only); (repeat' split) <;> simp

@[simp] theorem State.muStart_memOk (s : State) (t : TileId) (c : Cmd) :
    (State.muStart s t c).memOk = s.memOk := by
  unfold State.muStart
  simp

@[simp] theorem State.muStep_memOk (s : State) (t : TileId) (hk : s.memOk = true) :
    (State.muStep s t).memOk = true := by
  unfold State.muStep
  (try dsimp only); (repeat' split) <;> simp [hk]

@[simp] theorem State.muComplete_memOk (s : State) (t : TileId) :
    (State.muComplete s t).memOk = s.memOk := by
  unfold State.muComplete
  (try dsimp only); (repeat' split) <;> simp

@[simp] theorem State.haltRun_memOk (s : State) (t : TileId) (c : Fin 5) (k : Nat) (r : Report) (f : CuRun → CuRun) :
    (State.haltRun s t c k r f).memOk = s.memOk := by
  unfold State.haltRun
  rfl

@[simp] theorem State.cuBad_memOk (s : State) (t : TileId) (c : Fin 5) (k : Nat) (cmd : Cmd) :
    (State.cuBad s t c k cmd).memOk = s.memOk := by
  unfold State.cuBad
  rfl

@[simp] theorem State.cuPoison_memOk (s : State) (t : TileId) (asid : BitVec 12) (rep : Report) :
    (State.cuPoison s t asid rep).memOk = s.memOk := by
  unfold State.cuPoison
  (repeat' split) <;> simp

@[simp] theorem State.park_memOk (s : State) (t : TileId) (asid : BitVec 12) (rep : Report) (mark : Member → Member) :
    (State.park s t asid rep mark).memOk = s.memOk := by
  unfold State.park
  (try dsimp only); (repeat' split) <;> simp

@[simp] theorem State.parkFlight_memOk (s : State) (t : TileId) (c : Fin 5) (i j : Nat) (r : CuRun) (f : Flight) (rep : Report) :
    (State.parkFlight s t c i j r f rep).memOk = s.memOk := by
  unfold State.parkFlight
  simp

@[simp] theorem State.accept_memOk (s : State) (t : TileId) (asid : BitVec 12) (ps : List CuPlace) :
    (State.accept s t asid ps).memOk = s.memOk := by
  unfold State.accept
  (try dsimp only); (repeat' split) <;> simp 

@[simp] theorem State.unpend_memOk (s : State) (t : TileId) (asid : BitVec 12) (ps : List CuPlace) :
    (State.unpend s t asid ps).memOk = s.memOk := by
  unfold State.unpend
  (try dsimp only); (repeat' split) <;> simp 

@[simp] theorem State.cuRead_memOk (s : State) (t : TileId) (c : Fin 5) (i j : Nat) (r : CuRun) (f : Flight) :
    (State.cuRead s t c i j r f).memOk = s.memOk := by
  unfold State.cuRead
  (try dsimp only); (repeat' split) <;> simp

@[simp] theorem State.noteScope_memOk (s : State) (t : TileId) (c : Cmd) :
    (State.noteScope s t c).1.memOk = s.memOk := by
  unfold State.noteScope
  (try dsimp only); (repeat' split) <;> simp

@[simp] theorem State.cuWrite_memOk (s : State) (t : TileId) (c : Fin 5) (i j : Nat) (r : CuRun) (f : Flight) (v : Nat) (q : Option (Fin 16)) (hk : s.memOk = true) :
    (State.cuWrite s t c i j r f v q).memOk = true := by
  unfold State.cuWrite
  (try dsimp only); (repeat' split) <;> simp [hk]

@[simp] theorem State.cuAdvance_memOk (s : State) (t : TileId) (c : Fin 5) (k : Nat) (hk : s.memOk = true) :
    (State.cuAdvance s t c k).memOk = true := by
  unfold State.cuAdvance
  (try dsimp only); (repeat' split) <;> simp [hk]

@[simp] theorem State.rmwPut_memOk (s : State) (t : TileId) (tgt : Target) (bs : List Byte) (wakes : Bool) (hk : s.memOk = true) :
    (State.rmwPut s t tgt bs wakes).1.memOk = true := by
  unfold State.rmwPut
  (try dsimp only); (repeat' split) <;> simp [hk]

@[simp] theorem State.rmwAcc_memOk (s : State) (t : TileId) (c : Fin 5) (i j : Nat) (r : CuRun) (f : Flight) (ty : AccTy) (x : Nat) (va : W64) (n : Nat) (tgt : Target) (hk : s.memOk = true) :
    (State.rmwAcc s t c i j r f ty x va n tgt).memOk = true := by
  unfold State.rmwAcc
  (try dsimp only); (repeat' split) <;> simp [hk]

@[simp] theorem State.atomReturn_memOk (s : State) (t : TileId) (c : Fin 5) (i j : Nat) (r : CuRun) (f : Flight) (old : W64) :
    (State.atomReturn s t c i j r f old).memOk = s.memOk := by
  unfold State.atomReturn
  ((repeat' split) <;> rfl)

@[simp] theorem State.joinAfter_memOk (s : State) (t : TileId) (op : Instr) (a : Nat) (new : W64) (hk : s.memOk = true) :
    (State.joinAfter s t op a new).memOk = true := by
  unfold State.joinAfter
  (try dsimp only); (repeat' split) <;> simp [hk]

@[simp] theorem State.rmwAtom_memOk (s : State) (t : TileId) (c : Fin 5) (i j : Nat) (r : CuRun) (f : Flight) (tgt : Target) (hk : s.memOk = true) :
    (State.rmwAtom s t c i j r f tgt).memOk = true := by
  unfold State.rmwAtom
  (try dsimp only); (repeat' split) <;> simp [hk]

@[simp] theorem State.rmwArrive_memOk (s : State) (t : TileId) (c : Fin 5) (i j : Nat) (r : CuRun) (f : Flight) (tgt : Target) (hk : s.memOk = true) :
    (State.rmwArrive s t c i j r f tgt).memOk = true := by
  unfold State.rmwArrive
  (try dsimp only); (repeat' split) <;> simp [hk]

@[simp] theorem State.cuRmw_memOk (s : State) (t : TileId) (c : Fin 5) (k : Nat) (hk : s.memOk = true) :
    (State.cuRmw s t c k).memOk = true := by
  unfold State.cuRmw
  (try dsimp only); (repeat' split) <;> simp [hk]

@[simp] theorem State.spillLine_memOk (s : State) (a : Nat) (hk : s.memOk = true) :
    (State.spillLine s a).memOk = true := by
  unfold State.spillLine
  simp [hk]

theorem State.memOk_set {s : State} (hk : s.memOk = true) (a : Nat) (bs : List Byte) :
    State.memOk { s with mem := putBytes s.mem a bs } = true :=
  State.memOk_mem hk (State.memOk_put hk a bs) rfl rfl

@[simp] theorem State.registerLines_memOk (s : State) (t : TileId) (e : MapEntry) (hk : s.memOk = true) :
    (s.registerLines t e).memOk = true := by
  unfold State.registerLines
  refine foldl_memOk _ _ hk (fun st l h => ?_)
  split
  · dsimp only
    rw [State.modM_memOk, State.memOk_mk]
    split
    · exact State.spillLine_memOk _ _ h
    · exact h
  · exact h

@[simp] theorem State.mapStep_memOk (s : State) (t : TileId) (c : Fin 5) (k : Nat) (r : CuRun) (zero : Bool) (soff : BitVec 10) (hk : s.memOk = true) :
    (State.mapStep s t c k r zero soff).memOk = true := by
  unfold State.mapStep
  (try dsimp only); (repeat' split) <;> simp [hk]

/-- A state that a release of lines answers with. -/
def Release.has : Release → State → Prop
  | .step x, y | .done x, y => y = x
  | .held, _ => False

theorem State.releaseStep_memOk (s : State) (t : TileId) (i : Fin 64) (hk : s.memOk = true) {y : State}
    (h : (s.releaseStep t i).has y) : y.memOk = true := by
  unfold State.releaseStep at h
  dsimp only at h
  split at h
  · cases h; rw [State.modM_memOk]; exact hk
  · split at h
    · cases h; rw [State.modM_memOk]; exact hk
    · split at h
      · cases h
      · cases h; rw [State.modM_memOk]; exact State.releaseLine_memOk _ _ _ hk

theorem State.releaseRanges_memOk (s : State) (t : TileId) (hk : s.memOk = true) {y : State}
    (h : (s.releaseRanges t).has y) : y.memOk = true := by
  unfold State.releaseRanges at h
  split at h
  · split at h
    next x hx => cases h; exact State.releaseStep_memOk s t _ hk (y := y) (by rw [hx]; rfl)
    · exact State.releaseStep_memOk s t _ hk h
  · cases h; exact hk

@[simp] theorem State.unmapStep_memOk (s : State) (t : TileId) (c : Fin 5) (k : Nat) (r : CuRun) (hk : s.memOk = true) :
    (s.unmapStep t c k r).memOk = true := by
  unfold State.unmapStep
  dsimp only
  split
  · split
    · rw [State.cuBad_memOk]; exact hk
    · rw [State.modM_memOk]; exact hk
  · split
    next x hx => exact State.releaseStep_memOk s t _ hk (y := x) (by rw [hx]; rfl)
    next => exact hk
    next x hx => rw [State.modM_memOk]; exact State.releaseStep_memOk s t _ hk (y := x) (by rw [hx]; rfl)

@[simp] theorem State.wbStep_memOk (s : State) (t : TileId) (c : Fin 5) (k : Nat) (r : CuRun) (hk : s.memOk = true) :
    (State.wbStep s t c k r).memOk = true := by
  unfold State.wbStep
  (try dsimp only); (repeat' split) <;> simp [hk]

@[simp] theorem State.listStep_memOk (s : State) (t : TileId) (c : Fin 5) (k : Nat) (r : CuRun) (l tb rows : Td) (strict : Bool) :
    (State.listStep s t c k r l tb rows strict).memOk = s.memOk := by
  unfold State.listStep
  (try dsimp only); (repeat' split) <;> simp

@[simp] theorem State.cuIssue_memOk (s : State) (t : TileId) (c : Fin 5) (hk : s.memOk = true) :
    (State.cuIssue s t c).memOk = true := by
  unfold State.cuIssue
  (try dsimp only); (repeat' split) <;> simp [hk]

@[simp] theorem State.cuBegin_memOk (s : State) (t : TileId) (c : Fin 5) (k : Nat) (cmd : Cmd) :
    (State.cuBegin s t c k cmd).memOk = s.memOk := by
  unfold State.cuBegin
  (try dsimp only); (repeat' split) <;> simp

@[simp] theorem State.cuStart_memOk (s : State) (t : TileId) (c : Fin 5) (cmd : Cmd) (recAddr : Option W64) (recNext : W64) :
    (State.cuStart s t c cmd recAddr recNext).memOk = s.memOk := by
  unfold State.cuStart
  simp

@[simp] theorem State.cuRetry_memOk (s : State) (t : TileId) (c : Fin 5) :
    (State.cuRetry s t c).memOk = s.memOk := by
  unfold State.cuRetry
  (try dsimp only); (repeat' split) <;> simp

@[simp] theorem State.cuEvents_memOk (s : State) (t : TileId) (r : CuRun) :
    (State.cuEvents s t r).memOk = s.memOk := by
  unfold State.cuEvents
  (try dsimp only); (repeat' split) <;> simp

@[simp] theorem State.cuComplete_memOk (s : State) (t : TileId) (c : Fin 5) (k : Nat) (hk : s.memOk = true) :
    (State.cuComplete s t c k).memOk = true := by
  unfold State.cuComplete
  (try dsimp only); (repeat' split) <;> simp [hk]

@[simp] theorem State.walkerFault_memOk (s : State) (t : TileId) (c : Fin 5) (r : Report) :
    (State.walkerFault s t c r).memOk = s.memOk := by
  unfold State.walkerFault
  rfl

@[simp] theorem State.walkerLoad_memOk (s : State) (t : TileId) (c : Fin 5) :
    (State.walkerLoad s t c).memOk = s.memOk := by
  unfold State.walkerLoad
  (try dsimp only); (repeat' split) <;> simp

end Sys2Proof.Machine
end

