-- ==== Sys2Proof/Laws/KeepD.lean ====
section
/-! SUPPORT. The canonical form of the byte maps is kept by the host, links, power and every instruction. -/

namespace Sys2Proof.Machine

@[simp] theorem State.modCe_memOk (s : State) (d : DieId) (k : Nat) (f : CeRun → CeRun) :
    (State.modCe s d k f).memOk = s.memOk := by
  unfold State.modCe
  rfl

@[simp] theorem State.modHome_memOk (s : State) (o : Owner) (f : Member → Member) :
    (State.modHome s o f).memOk = s.memOk := by
  unfold State.modHome
  ((repeat' split) <;> rfl)

@[simp] theorem State.ceFault_memOk (s : State) (d : DieId) (k : Nat) (r : CeRun) (code reason : BitVec 8) (kind : BitVec 2) (tval : W64) :
    (State.ceFault s d k r code reason kind tval).memOk = s.memOk := by
  unfold State.ceFault
  simp

@[simp] theorem State.freshOrder_memOk (s : State) (d : DieId) :
    (State.freshOrder s d).2.memOk = s.memOk := by
  unfold State.freshOrder
  rfl

@[simp] theorem State.triggerRecord_memOk (s : State) (t : TileId) (c : Cmd) :
    (State.triggerRecord s t c).memOk = s.memOk := by
  unfold State.triggerRecord
  rfl

@[simp] theorem State.fire_memOk (s : State) (d : DieId) (k : Nat) :
    (State.fire s d k).memOk = s.memOk := by
  unfold State.fire
  ((repeat' split) <;> rfl)

@[simp] theorem State.matchGrant_memOk (s : State) (l : LinkId) (g : Nat) :
    (State.matchGrant s l g).memOk = s.memOk := by
  unfold State.matchGrant
  (try dsimp only); (repeat' split) <;> simp

@[simp] theorem State.ceSettle_memOk (s : State) (d : DieId) : (s.ceSettle d).memOk = s.memOk := by
  have h1 (l : List Nat) : (l.foldl (fun st k => st.fire d k) s).memOk = s.memOk :=
    foldl_memOk_eq _ _ _ (fun st k => State.fire_memOk _ _ _)
  unfold State.ceSettle
  rw [foldl_memOk_eq _ _ _ (fun st l => ?_), h1]
  split
  · exact foldl_memOk_eq _ _ _ (fun x g => State.matchGrant_memOk _ _ _)
  · rfl

@[simp] theorem State.countTo_memOk (s : State) (d : DieId) (stage order : Nat) (rc : BitVec 6) (f : W32 → W32) :
    (State.countTo s d stage order rc f).memOk = s.memOk := by
  unfold State.countTo
  simp

@[simp] theorem State.ceOpen_memOk (s : State) (d : DieId) (k : Nat) :
    (State.ceOpen s d k).memOk = s.memOk := by
  unfold State.ceOpen
  (repeat' split) <;> simp

@[simp] theorem State.ceStart_memOk (s0 : State) (t : TileId) (c : Cmd) :
    (State.ceStart s0 t c).memOk = s0.memOk := by
  unfold State.ceStart
  simp

@[simp] theorem State.logHome_memOk (s : State) (o : Owner) (r : LogRec) :
    (State.logHome s o r).memOk = s.memOk := by
  unfold State.logHome
  (try dsimp only); (repeat' split) <;> simp 

@[simp] theorem State.logCeReads_memOk (s : State) (d : DieId) (o : Owner) (asid : BitVec 12) (vas : List W64) :
    (s.logCeReads d o asid vas).memOk = s.memOk := by
  unfold State.logCeReads
  refine foldl_memOk_eq _ _ _ (fun st u => ?_)
  split
  · exact State.logHome_memOk _ _ _
  all_goals rfl

@[simp] theorem State.ceReads_memOk (s : State) (d : DieId) (o : Owner) (asid : BitVec 12) (t : Td) (is : List Nat) :
    (s.ceReads d o asid t is).1.memOk = s.memOk := by
  unfold State.ceReads
  dsimp only
  split
  · rw [State.logCeReads_memOk, State.engCodes_memOk]
  · exact State.engCodes_memOk _ _ _ _ _ _

@[simp] theorem State.ceWrite_memOk (s : State) (d : DieId) (r : CeRun) (va : W64) (bs : List Byte) (hk : s.memOk = true) :
    (State.ceWrite s d r va bs).1.memOk = true := by
  unfold State.ceWrite
  (try dsimp only); (repeat' split) <;> simp [hk]

@[simp] theorem State.ceResiduals_memOk (s : State) (d : DieId) (k : Nat) (r : CeRun) (t : Td) (l : List (Nat × Nat))
    (hk : s.memOk = true) : (s.ceResiduals d k r t l).1.memOk = true := by
  induction l generalizing s with
  | nil => exact hk
  | cons a l ih =>
    obtain ⟨i, v⟩ := a
    have h1 := State.ceWrite_memOk s d r (t.ea (t.tuple i)) (bytesOfNat 4 v) hk
    unfold State.ceResiduals
    dsimp only
    split
    · exact ih _ h1
    · exact ih _ (by rw [State.modCe_memOk]; exact h1)
    · exact h1

@[simp] theorem State.formData_memOk (s : State) (d : DieId) (k : Nat) (r : CeRun) (m : Msg) (p : Nat) (hk : s.memOk = true) :
    (s.formData d k r m p).1.memOk = true := by
  have h1 (is : List Nat) : (s.ceReads d r.home r.cmd.asid m.src is).1.memOk = true := by
    rw [State.ceReads_memOk]
    exact hk
  have h2 (is js : List Nat) (t : Td) :
      ((s.ceReads d r.home r.cmd.asid m.src is).1.ceReads d r.home r.cmd.asid t js).1.memOk = true := by
    rw [State.ceReads_memOk]
    exact h1 is
  unfold State.formData
  dsimp only
  split
  · split
    · split
      · split
        · exact State.ceResiduals_memOk _ _ _ _ _ _ (h2 _ _ _)
        · exact State.ceResiduals_memOk _ _ _ _ _ _ (h2 _ _ _)
        · exact hk
        · exact hk
      all_goals exact h2 _ _ _
    · exact h1 _
  all_goals exact h1 _

@[simp] theorem State.startPacket_memOk (s : State) (l : LinkId) (d : DieId) (k : Nat) (r : CeRun) (m : Msg) (x : Send) (hk : s.memOk = true) :
    (State.startPacket s l d k r m x).memOk = true := by
  unfold State.startPacket
  (try dsimp only); (repeat' split) <;> simp [hk]

@[simp] theorem State.landElems_memOk (s0 : State) (word : Nat) (s : State) (d : DieId) (k : Nat) (srank : W32)
    (l : List (Nat × Nat)) (h0 : s0.memOk = true) (hk : s.memOk = true) :
    (State.landElems s0 word s d k srank l).1.memOk = true := by
  induction l generalizing s0 word s with
  | nil => exact hk
  | cons a l ih =>
    obtain ⟨i, b⟩ := a
    unfold State.landElems
    split
    · exact hk
    · rename_i r _
      have hx : (s.ceReads d r.home r.cmd.asid (tdOf r.cmd.d1) [i]).1.memOk = true := by
        rw [State.ceReads_memOk]
        exact hk
      have hb (c : Prop) [Decidable c] : (if c then s0 else s).memOk = true := by
        split
        · exact h0
        · exact hk
      dsimp only
      (repeat' split) <;> first
        | exact hk
        | exact hb _
        | exact ih _ _ _ hk hk
        | exact ih _ _ _ h0 hk
        | (simp only [hk, h0, hb, hx, ih, State.ceFault_memOk, State.modCe_memOk, State.ceWrite_memOk]; done)
        | (refine ih _ _ _ ?_ ?_ <;> simp only [hk, h0, hb, hx, State.modCe_memOk, State.ceWrite_memOk]; done)

@[simp] theorem State.recvDone_memOk (s : State) (d : DieId) (k : Nat) :
    (State.recvDone s d k).memOk = s.memOk := by
  unfold State.recvDone
  (repeat' split) <;> simp

@[simp] theorem State.landPacket_memOk (s : State) (l : LinkId) (g : Nat) (p : Packet) (hk : s.memOk = true) :
    (s.landPacket l g p).memOk = true := by
  unfold State.landPacket
  dsimp only
  split
  · rw [State.modLink_memOk]; exact hk
  · split
    · exact hk
    · split
      · (repeat' split) <;> first
          | (rw [State.ceFault_memOk]; exact hk)
          | (rw [State.recvDone_memOk, State.modLink_memOk, State.modLink_memOk]
             exact State.landElems_memOk _ _ _ _ _ _ _ hk hk)
          | exact State.landElems_memOk _ _ _ _ _ _ _ hk hk
      · rw [State.modLink_memOk]; exact hk

@[simp] theorem State.ceMailbox_memOk (s : State) (o : Owner) (mb : MIx) (v : W64) (fleet : Bool) :
    (State.ceMailbox s o mb v fleet).1.memOk = s.memOk := by
  unfold State.ceMailbox
  ((repeat' split) <;> rfl)

@[simp] theorem State.slotImage_memOk (s : State) (d : DieId) (o : Owner) (c : Cmd) (n : Nat) :
    (State.slotImage s d o c n).1.memOk = s.memOk := by
  unfold State.slotImage
  (try dsimp only); (repeat' split) <;> simp 

@[simp] theorem State.ceStep_memOk (s : State) (d : DieId) (k : Nat) :
    (State.ceStep s d k).memOk = s.memOk := by
  unfold State.ceStep
  (try dsimp only); (repeat' split) <;> simp 

@[simp] theorem State.ceComplete_memOk (s : State) (d : DieId) (k : Nat) :
    (State.ceComplete s d k).memOk = s.memOk := by
  unfold State.ceComplete
  (repeat' split) <;> simp

@[simp] theorem State.vuComplete_memOk (s : State) (t : TileId) :
    (State.vuComplete s t).memOk = s.memOk := by
  unfold State.vuComplete
  (try dsimp only); (repeat' split) <;> simp

@[simp] theorem State.startHead_memOk (s : State) (t : TileId) (u : Site) (c : Cmd) :
    (State.startHead s t u c).memOk = s.memOk := by
  unfold State.startHead
  (try dsimp only); (repeat' split) <;> simp

@[simp] theorem State.retryStart_memOk (s : State) (t : TileId) (u : Site) :
    (State.retryStart s t u).memOk = s.memOk := by
  unfold State.retryStart
  (repeat' split) <;> simp

@[simp] theorem execCommandStart_memOk (t : TileId) (u : Site) (s : State) :
    ansMemOk (execCommandStart t u s) = s.memOk := by
  unfold execCommandStart
  (repeat' split) <;> simp

@[simp] theorem execCommandCompletion_memOk (t : TileId) (u : Site) (k : Nat) (s : State) (hk : s.memOk = true) :
    ansMemOk (execCommandCompletion t u k s) = true := by
  unfold execCommandCompletion
  (try dsimp only); (repeat' split) <;> simp [hk]

@[simp] theorem State.engineStep_memOk (s : State) (t : TileId) (u : Site) (k : Nat) (hk : s.memOk = true) :
    (State.engineStep s t u k).memOk = true := by
  unfold State.engineStep
  (try dsimp only); (repeat' split) <;> simp [hk]

@[simp] theorem execEngineAccessLands_memOk (t : TileId) (u : Site) (k : Nat) (s : State) (hk : s.memOk = true) :
    ansMemOk (execEngineAccessLands t u k s) = true := by
  unfold execEngineAccessLands
  simp [hk]

@[simp] theorem execRmwAtMemoryPoint_memOk (t : TileId) (c : Fin 5) (k : Nat) (s : State) (hk : s.memOk = true) :
    ansMemOk (execRmwAtMemoryPoint t c k s) = true := by
  unfold execRmwAtMemoryPoint
  simp [hk]

@[simp] theorem execWalkerRecordLoad_memOk (t : TileId) (w : Fin 4) (s : State) :
    ansMemOk (execWalkerRecordLoad t w s) = s.memOk := by
  unfold execWalkerRecordLoad
  simp

@[simp] theorem execRemoteStashAccess_memOk (r : Requester) (s : State) (hk : s.memOk = true) :
    ansMemOk (execRemoteStashAccess r s) = true := by
  unfold execRemoteStashAccess
  (try dsimp only); (repeat' split) <;> simp [hk]

@[simp] theorem execWindowGrant_memOk (l : LinkId) (tag : BitVec 8) (g : Granted) (credits : Nat) (s : State) :
    ansMemOk (execWindowGrant l tag g credits s) = s.memOk := by
  unfold execWindowGrant
  (repeat' split) <;> simp

@[simp] theorem execCePacketLand_memOk (l : LinkId) (s : State) (hk : s.memOk = true) :
    ansMemOk (execCePacketLand l s) = true := by
  unfold execCePacketLand
  (try dsimp only); (repeat' split) <;> simp [hk]

@[simp] theorem execLinkPacketStart_memOk (l : LinkId) (s : State) (hk : s.memOk = true) :
    ansMemOk (execLinkPacketStart l s) = true := by
  unfold execLinkPacketStart
  (try dsimp only); (repeat' split) <;> simp [hk]

@[simp] theorem State.arrive_memOk (s : State) (l : LinkId) (a : Arrival) (hk : s.memOk = true) :
    (State.arrive s l a).memOk = true := by
  unfold State.arrive
  (try dsimp only); (repeat' split) <;> simp [hk]

@[simp] theorem execPacketReceive_memOk (l : LinkId) (p : Incoming) (crcOk : Bool) (s : State) (hk : s.memOk = true) :
    ansMemOk (execPacketReceive l p crcOk s) = true := by
  unfold execPacketReceive
  (try dsimp only); (repeat' split) <;> simp [hk]

@[simp] theorem execLinkReplay_memOk (l : LinkId) (seq : Nat) (s : State) :
    ansMemOk (execLinkReplay l seq s) = s.memOk := by
  unfold execLinkReplay
  ((repeat' split) <;> rfl)

@[simp] theorem State.setLanes_memOk (s : State) (l : LinkId) (lanes : BitVec 2) (failed : Bool) :
    (s.setLanes l lanes failed).memOk = s.memOk := by
  unfold State.setLanes
  dsimp only
  have h2 (c1 c2 : Prop) [Decidable c1] [Decidable c2] (s1 : State) (a b : BitVec 128) :
      (if c2 then (if c1 then s1.logEvent 0x04 (srcLink l) a else s1).logEvent 0x05 (srcLink l) b
        else if c1 then s1.logEvent 0x04 (srcLink l) a else s1).memOk = s1.memOk := by
    split <;> split <;> simp only [State.logEvent_memOk]
  split
  · rw [foldl_memOk_eq _ _ _ (fun st k => ?_), h2, State.modLink_memOk]
    split
    · split
      · rw [State.ceFault_memOk]
      · rfl
    · rfl
  · rw [h2, State.modLink_memOk]

@[simp] theorem execLinkTrain_memOk (l : LinkId) (lanes : BitVec 2) (s : State) : ansMemOk (execLinkTrain l lanes s) = s.memOk :=
  State.setLanes_memOk _ _ _ _

@[simp] theorem execLaneFailure_memOk (l : LinkId) (eight : Bool) (s : State) : ansMemOk (execLaneFailure l eight s) = s.memOk :=
  State.setLanes_memOk _ _ _ _

@[simp] theorem execFleetTimeExchange_memOk (ahead : Bool) (err : W64) (s : State) :
    ansMemOk (execFleetTimeExchange ahead err s) = s.memOk := by
  unfold execFleetTimeExchange
  (try dsimp only); (repeat' split) <;> simp

@[simp] theorem execSlotTableCommit_memOk (l : LinkId) (s : State) :
    ansMemOk (execSlotTableCommit l s) = s.memOk := by
  unfold execSlotTableCommit
  simp

@[simp] theorem State.readVirt_memOk (s : State) (t : TileId) (e : EngCls) (asid : BitVec 12) (k : AccKind) (handler : Bool)
    (l : List (W64 × Nat)) : (s.readVirt t e asid k handler l).1.memOk = s.memOk := by
  induction l generalizing s with
  | nil => rfl
  | cons a l ih =>
    obtain ⟨va, n⟩ := a
    unfold State.readVirt
    dsimp only
    (repeat' split) <;> simp only [ih, State.readAt_memOk, State.translate_memOk]

@[simp] theorem State.dispRead_memOk (s : State) (t : TileId) (e : EngCls) (asid : BitVec 12) (k : AccKind) (handler : Bool)
    (va : W64) (n : Nat) : (s.dispRead t e asid k handler va n).1.memOk = s.memOk := State.readVirt_memOk _ _ _ _ _ _ _

@[simp] theorem State.loadTables_memOk (s : State) (t : TileId) (asid : BitVec 12) (l : LaunchRec) (ns : List (Fin 8))
    (org : Nat) : (s.loadTables t asid l ns org).1.memOk = s.memOk := by
  induction ns generalizing s org with
  | nil => rfl
  | cons n ns ih =>
    unfold State.loadTables
    dsimp only
    (repeat' split) <;> simp only [ih, State.dispRead_memOk]

@[simp] theorem State.loadCode_memOk (s : State) (t : TileId) (r : W512) (l : LaunchRec) (tbl : List (Fin 8 × Table)) (rows : List W32) :
    (State.loadCode s t r l tbl rows).1.memOk = s.memOk := by
  unfold State.loadCode
  (try dsimp only); (repeat' split) <;> simp

@[simp] theorem State.loadGang_memOk (s : State) (t : TileId) (r : W512) : (s.loadGang t r).1.memOk = s.memOk := by
  unfold State.loadGang
  dsimp only
  (repeat' split) <;> simp only [State.loadCode_memOk, State.loadTables_memOk, State.dispRead_memOk]

@[simp] theorem State.gangFails_memOk (s : State) (d : DieId) (id : Ident) (reason : Nat) (hk : s.memOk = true) :
    (s.gangFails d id reason).memOk = true := by
  have hf (l : List TileId) : (l.foldl (fun st t => st.modTile t Tile.vacate) s).memOk = s.memOk :=
    foldl_memOk_eq _ _ _ (fun st t => rfl)
  unfold State.gangFails
  dsimp only
  refine State.finishWhole_memOk _ _ _ (State.failRec_memOk _ _ ?_)
  rw [State.launchFail_memOk, State.memOk_mk, hf]
  exact hk

@[simp] theorem State.launchGang_memOk (s : State) (t : TileId) (hk : s.memOk = true) :
    (State.launchGang s t).memOk = true := by
  unfold State.launchGang
  (try dsimp only); (repeat' split) <;> simp [hk]

@[simp] theorem execMemberLaunch_memOk (t : TileId) (s : State) (hk : s.memOk = true) :
    ansMemOk (execMemberLaunch t s) = true := by
  unfold execMemberLaunch
  (try dsimp only); (repeat' split) <;> simp [hk]

@[simp] theorem execRestore_memOk (t : TileId) (s : State) :
    ansMemOk (execRestore t s) = s.memOk := by
  unfold execRestore
  (try dsimp only); (repeat' split) <;> simp

@[simp] theorem State.claim_memOk (s : State) (b : List TileId) (g : Gang) (r : W512) (addr : W64) (use : Nat → Bool) :
    (s.claim b g r addr use).memOk = s.memOk := by
  unfold State.claim
  refine foldl_memOk_eq _ _ _ (fun st j => ?_)
  split
  · split
    · rfl
    · rfl
  · rfl

@[simp] theorem State.claimRec_memOk (s : State) (b : List TileId) (r : W512) (addr orig : Nat) :
    (State.claimRec s b r addr orig).memOk = s.memOk := by
  unfold State.claimRec
  (repeat' split) <;> simp

@[simp] theorem State.logChoice_memOk (s : State) (d : DieId) (q : BitVec 12) (slot : Nat) (b : List TileId) :
    (State.logChoice s d q slot b).memOk = s.memOk := by
  unfold State.logChoice
  rfl

@[simp] theorem State.roundQueue_memOk (s : State) (d : DieId) (q : BitVec 12) (f : Nat) (x : Round) (hk : s.memOk = true) :
    (s.roundQueue d q f x).1.memOk = true := by
  induction f generalizing s x with
  | zero => exact hk
  | succ f ih =>
    unfold State.roundQueue
    split
    · exact hk
    · rename_i a _
      have hr : (s.readAt a 64).1.memOk = true := by
        rw [State.readAt_memOk]
        exact hk
      have hp : ((s.readAt a 64).1.popQueue q).memOk = true := by
        rw [State.popQueue_memOk]
        exact hr
      dsimp only
      split
      · exact ih _ _ (by rw [State.launchFail_memOk]; exact hp)
      · exact hr
      · exact hr
      · exact hr
      · split
        · split
          · exact hr
          · exact ih _ _ (State.finishWhole_memOk _ _ _ (State.failRec_memOk _ _ (by rw [State.launchFail_memOk]; exact hp)))
        · split
          · exact hr
          · split
            · split
              · exact hr
              · exact ih _ _ (State.discardRec_memOk _ _ _ hp)
            · exact ih _ _ (by rw [State.claimRec_memOk, State.logChoice_memOk]; exact hp)

@[simp] theorem State.placeFrozen_memOk (s : State) (d : DieId) (l : List Nat) : (s.placeFrozen d l).memOk = s.memOk := by
  induction l generalizing s with
  | nil => rfl
  | cons id l ih =>
    unfold State.placeFrozen
    split
    · rw [ih, State.memOk_mk]
    · dsimp only
      split
      · rw [ih, State.claim_memOk]
        rfl
      · rw [ih]

theorem roundQueues_memOk (d : DieId) (l : List (BitVec 12)) (a : State × Round) (h : a.1.memOk = true) :
    (l.foldl (fun (a : State × Round) q => a.1.roundQueue d q (qLen (a.1.qcbOf q)) a.2) a).1.memOk = true := by
  induction l generalizing a with
  | nil => exact h
  | cons q l ih =>
    rw [List.foldl_cons]
    exact ih _ (State.roundQueue_memOk _ _ _ _ _ h)

@[simp] theorem State.dispatch_memOk (s : State) (d : DieId) (hk : s.memOk = true) : (s.dispatch d).memOk = true := by
  have hp : (s.placeFrozen d s.contQ).memOk = true := by
    rw [State.placeFrozen_memOk]
    exact hk
  unfold State.dispatch
  revert hp
  generalize s.placeFrozen d s.contQ = s0
  intro hp
  dsimp only
  split
  · generalize s0.queueOrder = l
    exact roundQueues_memOk d l _ hp
  · exact hp

@[simp] theorem execDispatchRound_memOk (d : DieId) (s : State) (hk : s.memOk = true) :
    ansMemOk (execDispatchRound d s) = true := by
  unfold execDispatchRound
  (try dsimp only); (repeat' split) <;> simp [hk]

@[simp] theorem execTaskQueuePush_memOk (k : Nat) (s : State) (hk : s.memOk = true) :
    ansMemOk (execTaskQueuePush k s) = true := by
  unfold execTaskQueuePush
  (try dsimp only); (repeat' split) <;> simp [hk]

@[simp] theorem execPoolEnable_memOk (p : BitVec 8) (s : State) (hk : s.memOk = true) :
    ansMemOk (execPoolEnable p s) = true := by
  unfold execPoolEnable
  (try dsimp only); (repeat' split) <;> simp [hk]

@[simp] theorem execJoinPushRetry_memOk (q : BitVec 12) (s : State) (hk : s.memOk = true) :
    ansMemOk (execJoinPushRetry q s) = true := by
  unfold execJoinPushRetry
  (try dsimp only); (repeat' split) <;> simp [hk]

@[simp] theorem execMemberComplete_memOk (t : TileId) (s : State) (hk : s.memOk = true) :
    ansMemOk (execMemberComplete t s) = true := by
  unfold execMemberComplete
  rw [ansMemOk_next]
  split
  · split
    next x hx => exact State.releaseRanges_memOk s t hk (y := x) (by rw [hx]; rfl)
    next => exact hk
    next x hx =>
      split
      · exact hk
      · exact State.endMember_memOk _ _ (State.releaseRanges_memOk s t hk (y := x) (by rw [hx]; rfl))
  · exact hk

@[simp] theorem State.assignKey_memOk (s : State) (id : Nat) :
    (State.assignKey s id).memOk = s.memOk := by
  unfold State.assignKey
  ((repeat' split) <;> rfl)

@[simp] theorem State.continueGang_memOk (s : State) (id : Nat) (hk : s.memOk = true) :
    (State.continueGang s id).memOk = true := by
  unfold State.continueGang
  (try dsimp only); (repeat' split) <;> simp [hk]

@[simp] theorem State.savePreempted_memOk (s : State) (t : TileId) (hk : s.memOk = true) :
    (State.savePreempted s t).memOk = true := by
  unfold State.savePreempted
  (try dsimp only); (repeat' split) <;> simp [hk]

@[simp] theorem execPreempt_memOk (t : TileId) (s : State) (hk : s.memOk = true) :
    ansMemOk (execPreempt t s) = true := by
  unfold execPreempt
  (try dsimp only); (repeat' split) <;> simp [hk]

@[simp] theorem State.rotateLaunch_memOk (s : State) (job : BitVec 12) (launch w : Nat) :
    (s.rotateLaunch job launch w).memOk = s.memOk := by
  unfold State.rotateLaunch
  exact foldl_memOk_eq _ _ _ (fun st g => foldl_memOk_eq _ _ _ (fun a t => rfl))

@[simp] theorem execRotationQuantum_memOk (s : State) :
    ansMemOk (execRotationQuantum s) = s.memOk := by
  unfold execRotationQuantum
  (try dsimp only); (repeat' split) <;> simp

@[simp] theorem State.tideAdvance_memOk (s : State) (d : DieId) (h : W512) :
    (State.tideAdvance s d h).memOk = s.memOk := by
  unfold State.tideAdvance
  rfl

@[simp] theorem State.tideSlack_memOk (s : State) (d : DieId) (ts : Bool × Bool × Bool) :
    (State.tideSlack s d ts).memOk = s.memOk := by
  unfold State.tideSlack
  rfl

@[simp] theorem State.tideStep_memOk (s : State) (d : DieId) (hk : s.memOk = true) :
    (State.tideStep s d).memOk = true := by
  unfold State.tideStep
  (try dsimp only); (repeat' split) <;> simp [hk]

@[simp] theorem execTideDispatch_memOk (d : DieId) (s : State) (hk : s.memOk = true) :
    ansMemOk (execTideDispatch d s) = true := by
  unfold execTideDispatch
  (try dsimp only); (repeat' split) <;> simp [hk]

@[simp] theorem State.addCredits_memOk (s : State) (d : DieId) (n : Nat) : (s.addCredits d n).memOk = s.memOk := by
  unfold State.addCredits
  (try dsimp only); (repeat' split) <;> simp

@[simp] theorem execTideCreditArrival_memOk (l : LinkId) (n : BitVec 16) (s : State) :
    ansMemOk (execTideCreditArrival l n s) = s.memOk := by
  unfold execTideCreditArrival
  (try dsimp only); (repeat' split) <;> simp

@[simp] theorem execTimer_memOk (t : TileId) (s : State) :
    ansMemOk (execTimer t s) = s.memOk := by
  unfold execTimer
  (try dsimp only); (repeat' split) <;> simp

@[simp] theorem execSample_memOk (t : TileId) (s : State) :
    ansMemOk (execSample t s) = s.memOk := by
  unfold execSample
  (try dsimp only); (repeat' split) <;> simp

@[simp] theorem execClockResume_memOk (t : TileId) (s : State) :
    ansMemOk (execClockResume t s) = s.memOk := by
  unfold execClockResume
  (try dsimp only); (repeat' split) <;> simp

@[simp] theorem execRampVoltageStep_memOk (t : TileId) (s : State) :
    ansMemOk (execRampVoltageStep t s) = s.memOk := by
  unfold execRampVoltageStep
  (try dsimp only); (repeat' split) <;> simp

@[simp] theorem execRampSettleEnd_memOk (t : TileId) (s : State) :
    ansMemOk (execRampSettleEnd t s) = s.memOk := by
  unfold execRampSettleEnd
  (try dsimp only); (repeat' split) <;> simp

@[simp] theorem State.replanIsland_memOk (s : State) (t : TileId) (c : BitVec 128) :
    (State.replanIsland s t c).memOk = s.memOk := by
  unfold State.replanIsland
  (try dsimp only); (repeat' split) <;> simp

@[simp] theorem execReplan_memOk (r : Replan) (s : State) :
    ansMemOk (execReplan r s) = s.memOk := by
  unfold execReplan
  (repeat' split) <;> simp

@[simp] theorem State.reassign_memOk (s : State) (d : DieId) (l : List TileId) (n : Nat) :
    (s.reassign d l n).memOk = s.memOk := by
  induction l generalizing s n with
  | nil => rfl
  | cons t l ih =>
    unfold State.reassign
    split
    · rfl
    · split
      · rw [ih, State.modTile_memOk, State.logReplay_memOk]
      · rw [ih]

@[simp] theorem State.giveGrant_memOk (s : State) (d : DieId) (t : TileId) (c : BitVec 3) :
    (State.giveGrant s d t c).memOk = s.memOk := by
  unfold State.giveGrant
  ((repeat' split) <;> rfl)

@[simp] theorem execArbiterGrant_memOk (d : DieId) (s : State) : ansMemOk (execArbiterGrant d s) = s.memOk := by
  unfold execArbiterGrant
  rw [ansMemOk_next]
  dsimp only
  (repeat' split) <;> simp only [State.giveGrant_memOk, State.reassign_memOk, State.modDie_memOk]

@[simp] theorem execThermal_memOk (stack : Fin 8) (level : BitVec 2) (s : State) :
    ansMemOk (execThermal stack level s) = s.memOk := by
  unfold execThermal
  (try dsimp only); (repeat' split) <;> simp

@[simp] theorem State.noLock_memOk (s : State) (p : PortId) (off : Nat) :
    (State.noLock s p off).memOk = s.memOk := by
  unfold State.noLock
  simp

@[simp] theorem State.answer_memOk (s : State) (p : PortId) (bs : List Byte) (abort : Bool) :
    (State.answer s p bs abort).memOk = s.memOk := by
  unfold State.answer
  rfl

@[simp] theorem State.lockTurn_memOk (s : State) (p : PortId) (i : Fin 32) : (s.lockTurn p i).memOk = s.memOk := by
  unfold State.lockTurn
  split
  · exact State.inCycle_memOk _ _
  · rfl

@[simp] theorem State.takeLock_memOk (s0 : State) (p : PortId) (i : Fin 32) :
    (State.takeLock s0 p i).memOk = s0.memOk := by
  unfold State.takeLock
  (try dsimp only); (repeat' split) <;> simp 

@[simp] theorem execHlockRead_memOk (p : PortId) (n : BitVec 5) (s : State) :
    ansMemOk (execHlockRead p n s) = s.memOk := by
  unfold execHlockRead
  (try dsimp only); (repeat' split) <;> simp

@[simp] theorem execHlockWrite_memOk (p : PortId) (n : BitVec 5) (v : W64) (s : State) :
    ansMemOk (execHlockWrite p n v s) = s.memOk := by
  unfold execHlockWrite
  (try dsimp only); (repeat' split) <;> simp

@[simp] theorem execHostPortTrain_memOk (p : PortId) (lanes : BitVec 5) (s : State) :
    ansMemOk (execHostPortTrain p lanes s) = s.memOk := by
  unfold execHostPortTrain
  rw [ansMemOk_next]
  dsimp only
  split
  · rfl
  · rw [State.memOk_mk]
    split
    · rw [State.logEvent_memOk, State.memOk_mk, State.tickFree_memOk, State.modPort_memOk]
    · rw [State.modPort_memOk]

@[simp] theorem State.hostReads_memOk (s : State) (l : List (Nat × Nat)) : (s.hostReads l).1.memOk = s.memOk := by
  induction l generalizing s with
  | nil => rfl
  | cons a l ih =>
    obtain ⟨a, n⟩ := a
    unfold State.hostReads
    dsimp only
    split <;> simp only [ih, State.readAt_memOk]

@[simp] theorem State.hostWrites_memOk (s : State) (p : PortId) (ws : List (Nat × List Byte)) (hk : s.memOk = true) :
    (State.hostWrites s p ws).1.memOk = true := by
  unfold State.hostWrites
  (try dsimp only); (repeat' split) <;> simp [hk]

@[simp] theorem State.bar0Read_memOk (s : State) (p : PortId) (off : Nat) :
    (State.bar0Read s p off).memOk = s.memOk := by
  unfold State.bar0Read
  (try dsimp only); (repeat' split) <;> simp 

@[simp] theorem execHostApertureAccess_memOk (p : PortId) (a : HostAcc) (s : State) (hk : s.memOk = true) :
    ansMemOk (execHostApertureAccess p a s) = true := by
  have ha (bs : List Byte) (b : Bool) (st : State) (h : st.memOk = true) : (st.answer p bs b).memOk = true := by
    rw [State.answer_memOk]
    exact h
  have hr (l : List (Nat × Nat)) : (s.hostReads l).1.memOk = true := by
    rw [State.hostReads_memOk]
    exact hk
  unfold execHostApertureAccess
  rw [ansMemOk_next]
  dsimp only
  split
  · exact hk
  · split
    · split
      · rw [State.bar0Read_memOk]
        exact hk
      · exact hk
    · split
      · exact hk
      · split
        · rw [State.logEvent_memOk]
          exact ha _ _ _ hk
        · split
          · exact ha _ _ _ (hr _)
          · exact hr _
          · refine ha _ _ _ ?_
            rw [State.logPoison_memOk]
            exact hr _
    · split
      · exact hk
      · split
        · rw [State.logEvent_memOk]
          exact ha _ _ _ hk
        · split
          · rw [State.noLock_memOk]
            exact hk
          · exact State.hostWrites_memOk _ _ _ hk

@[simp] theorem execRegisterWrite_memOk (p : PortId) (r : RegTarget) (v : W64) (s : State) (hk : s.memOk = true) :
    ansMemOk (execRegisterWrite p r v s) = true := by
  have hu (off : Nat) (bs : List Byte) : State.memOk { s with upload := putBytes s.upload off bs } = true := by
    rw [State.memOk_iff] at *
    exact ⟨hk.1, hk.2.1, putBytes_wf bs off hk.2.2⟩
  have hn (o : Nat) : (s.noLock p o).memOk = true := by
    rw [State.noLock_memOk]
    exact hk
  unfold execRegisterWrite
  rw [ansMemOk_next]
  dsimp only
  split
  · exact hk
  · cases r with
    | upload off =>
      dsimp only
      split
      · split
        · exact hu _ _
        · exact hn _
      · exact hk
    | levelCfg l id =>
      dsimp only
      split
      · exact State.setLevel_memOk _ _ _ _ hk
      · exact hk
    | queueCb q d =>
      dsimp only
      (repeat' split) <;> first | exact hn _ | (rw [State.setQcb_memOk]; exact hk) | exact hk
    | poolCb q d =>
      dsimp only
      (repeat' split) <;> first | exact hn _ | (rw [State.putPcb_memOk]; exact hk) | exact hk
    | slot l e =>
      dsimp only
      (repeat' split) <;> first | exact hn _ | (rw [State.modLink_memOk]; exact hk) | exact hk
    | msga | msgb | apbase =>
      dsimp only
      split <;> first | (rw [State.modPort_memOk]; exact hk) | exact hk

@[simp] theorem State.messageTurn_memOk (s : State) (p : PortId) : (s.messageTurn p).memOk = s.memOk := by
  unfold State.messageTurn
  split
  · exact State.inCycle_memOk _ _
  · rfl

theorem State.message_memOk (s : State) (p : PortId) (ty : W64) (f : State → W64 → W64 → State) (hk : s.memOk = true)
    (hf : ∀ (st : State) (a b : W64), st.memOk = true → (f st a b).memOk = true) : (s.message p ty f).memOk = true := by
  unfold State.message
  dsimp only
  split
  · exact hk
  · split
    · split
      · split
        · exact hf _ _ _ (by rw [State.messageTurn_memOk]; exact hk)
        · exact hk
      · exact hk
    · split
      · exact hf _ _ _ (by rw [State.messageTurn_memOk, State.modPort_memOk]; exact hk)
      · rw [State.modPort_memOk]; exact hk

@[simp] theorem execPost_memOk (p : PortId) (s : State) (hk : s.memOk = true) : ansMemOk (execPost p s) = true := by
  unfold execPost
  rw [ansMemOk_next]
  refine State.message_memOk _ _ _ _ hk (fun st a b h => ?_)
  dsimp only
  (repeat' split) <;>
    simp only [h, State.msgDone_memOk, State.modSlot_memOk, State.post_memOk, State.modM_memOk, State.modLink_memOk]

@[simp] theorem execMail_memOk (p : PortId) (s : State) (hk : s.memOk = true) : ansMemOk (execMail p s) = true := by
  unfold execMail
  rw [ansMemOk_next]
  refine State.message_memOk _ _ _ _ hk (fun st a b h => ?_)
  dsimp only
  (repeat' split) <;>
    simp only [h, State.msgDone_memOk, State.modSlot_memOk, State.post_memOk, State.modM_memOk, State.modLink_memOk]

@[simp] theorem execIntr_memOk (p : PortId) (s : State) (hk : s.memOk = true) : ansMemOk (execIntr p s) = true := by
  unfold execIntr
  rw [ansMemOk_next]
  refine State.message_memOk _ _ _ _ hk (fun st a b h => ?_)
  dsimp only
  (repeat' split) <;>
    simp only [h, State.msgDone_memOk, State.modSlot_memOk, State.post_memOk, State.modM_memOk, State.modLink_memOk]

@[simp] theorem execSubmit_memOk (p : PortId) (s : State) (hk : s.memOk = true) : ansMemOk (execSubmit p s) = true := by
  unfold execSubmit
  rw [ansMemOk_next]
  refine State.message_memOk _ _ _ _ hk (fun st a b h => ?_)
  have hr (l : List (Nat × Nat)) : (st.hostReads l).1.memOk = true := by
    rw [State.hostReads_memOk]
    exact h
  have hc (l : List (Nat × Nat)) (r : W512) : ((st.hostReads l).1.countRec r).memOk = true := State.countRec_memOk _ _ (hr l)
  have hq (l : List (Nat × Nat)) (r : W512) (q : BitVec 12) :
      (((st.hostReads l).1.countRec r).pushQueue q r b.toNat true).1.memOk = true := State.pushQueue_memOk _ _ _ _ _ (hc l r)
  dsimp only
  split
  · rw [State.msgDone_memOk]
    exact h
  · split
    · exact hr _
    · rw [State.msgDone_memOk, State.logPoison_memOk]
      exact hr _
    · split
      · rw [State.msgDone_memOk]
        exact hr _
      · split
        · split
          · exact hr _
          · rw [State.msgDone_memOk]
            exact State.finishWhole_memOk _ _ _ (hc _ _)
        · split
          · exact hr _
          · split
            · rw [State.msgDone_memOk]
              exact hq _ _ _
            · rw [State.msgDone_memOk]
              exact State.uncountRec_memOk _ _ (hq _ _ _)

@[simp] theorem State.launchBytes_memOk (s : State) (g : Gang) : (s.launchBytes g).1.memOk = s.memOk := by
  have h := State.dispRead_memOk s (engineTile 0) .ce (recAsid g.record) .read false (recLrec g.record) 1024
  unfold State.launchBytes
  dsimp only
  generalize s.dispRead (engineTile 0) .ce (recAsid g.record) .read false (recLrec g.record) 1024 = r at h
  have hb := State.freeBytes_memOk r.1 1024
  generalize r.1.freeBytes 1024 = f at hb
  split
  · exact h
  · exact h
  · exact hb.trans h

@[simp] theorem State.residentLaunches_memOk (s : State) : s.residentLaunches.1.memOk = s.memOk := by
  have h (l : List Nat) (gs : List Gang) (a : State × Option (List Byte)) :
      (l.foldl (fun a k =>
        match a.2, gs.find? (fun g => recLevel g.record 0 == k) with
        | some l, some g => let r := a.1.launchBytes g; (r.1, r.2.map (fun bs => l ++ bs))
        | _, _ => a) a).1.memOk = a.1.memOk := by
    induction l generalizing a with
    | nil => rfl
    | cons k l ih =>
      rw [List.foldl_cons, ih]
      split
      · exact State.launchBytes_memOk _ _
      · rfl
  exact h _ _ _

@[simp] theorem execAttest_memOk (p : PortId) (s : State) (hk : s.memOk = true) : ansMemOk (execAttest p s) = true := by
  unfold execAttest
  rw [ansMemOk_next]
  refine State.message_memOk _ _ _ _ hk (fun st a b h => ?_)
  have hr (l : List (Nat × Nat)) : (st.hostReads l).1.memOk = true := by
    rw [State.hostReads_memOk]
    exact h
  have hl (l : List (Nat × Nat)) : (st.hostReads l).1.residentLaunches.1.memOk = true := by
    rw [State.residentLaunches_memOk]
    exact hr l
  dsimp only
  split
  · rw [State.msgDone_memOk]
    exact h
  · split
    · exact hr _
    · rw [State.msgDone_memOk, State.logPoison_memOk]
      exact hr _
    · split
      · exact hl _
      · split
        · rw [State.msgDone_memOk]
          exact State.hostWrites_memOk _ _ _ (hl _)
        · rw [State.modPort_memOk]
          exact State.hostWrites_memOk _ _ _ (hl _)

@[simp] theorem execLinkown_memOk (p : PortId) (s : State) (hk : s.memOk = true) : ansMemOk (execLinkown p s) = true := by
  unfold execLinkown
  rw [ansMemOk_next]
  refine State.message_memOk _ _ _ _ hk (fun st a b h => ?_)
  dsimp only
  (repeat' split) <;>
    simp only [h, State.msgDone_memOk, State.modSlot_memOk, State.post_memOk, State.modM_memOk, State.modLink_memOk]

/-- A map moved up whole keeps its form. -/
theorem SMap.wfFrom_shift (a b : Nat) : ∀ {lo : Nat} {m : SMap Byte}, SMap.wfFrom blankByte lo m = true → a ≤ lo →
    SMap.wfFrom blankByte (lo - a + b) (m.map (fun e => (e.1 - a + b, e.2))) = true
  | _, [], _, _ => rfl
  | lo, (k, v) :: m, w, h => by
    rw [SMap.wfFrom_cons] at w
    rw [List.map_cons, SMap.wfFrom_cons]
    have e : k - a + b + 1 = k + 1 - a + b := by omega
    exact ⟨by omega, w.2.1, by rw [e]; exact SMap.wfFrom_shift a b w.2.2 (by omega)⟩

theorem copyGranule_wf {src dst : SMap Byte} (a b : Nat) (hs : SMap.wf blankByte src = true)
    (hd : SMap.wf blankByte dst = true) : SMap.wf blankByte (copyGranule src dst a b) = true := by
  unfold copyGranule SMap.wf
  rw [List.append_assoc]
  refine SMap.wfFrom_append blankByte (mid := b) ?_ (Nat.zero_le _) (SMap.wfFrom_filter blankByte _ hd) ?_
  · refine SMap.wfFrom_append blankByte (mid := b + 65536) ?_ (by omega) ?_ ?_
    · exact SMap.wfFrom_filter_ge blankByte _ (fun e h => by simpa using h) hd
    · have h := SMap.wfFrom_shift a b (SMap.wfFrom_filter_ge blankByte (k := a)
        (fun e => decide (a ≤ e.1 ∧ e.1 < a + 65536)) (fun e h => (of_decide_eq_true h).1) hs) (Nat.le_refl a)
      rwa [Nat.sub_self, Nat.zero_add] at h
    · intro e he
      obtain ⟨x, hx, rfl⟩ := List.mem_map.1 he
      have := of_decide_eq_true (List.mem_filter.1 hx).2
      dsimp only
      omega
  · intro e he
    simpa using (List.mem_filter.1 he).2

@[simp] theorem State.shadowGranule_memOk (s : State) (g : Nat) (hk : s.memOk = true) :
    (s.shadowGranule g).memOk = true := by
  have h := (State.memOk_iff s).1 hk
  unfold State.shadowGranule
  rw [State.modPort_memOk]
  exact (State.memOk_iff _).2 ⟨h.1, copyGranule_wf _ _ h.1 h.2.1, h.2.2⟩

@[simp] theorem execGranuleShadowCopy_memOk (g : Nat) (s : State) (hk : s.memOk = true) :
    ansMemOk (execGranuleShadowCopy g s) = true := by
  unfold execGranuleShadowCopy
  (try dsimp only); (repeat' split) <;> simp [hk]

@[simp] theorem State.preemptAll_memOk (s : State) :
    (State.preemptAll s).memOk = s.memOk := by
  unfold State.preemptAll
  simp

@[simp] theorem execSeize_memOk (p : PortId) (s : State) (hk : s.memOk = true) : ansMemOk (execSeize p s) = true := by
  unfold execSeize
  rw [ansMemOk_next]
  refine State.message_memOk _ _ _ _ hk (fun st a b h => ?_)
  dsimp only
  (repeat' split) <;>
    simp only [h, State.msgDone_memOk, State.modPort_memOk, State.memOk_mk, State.preemptAll_memOk]

@[simp] theorem execSeizeAccessRecord_memOk (s : State) :
    ansMemOk (execSeizeAccessRecord s) = s.memOk := by
  unfold execSeizeAccessRecord
  (try dsimp only); (repeat' split) <;> simp 

@[simp] theorem State.dropGrants_memOk (s : State) :
    (State.dropGrants s).memOk = s.memOk := by
  unfold State.dropGrants
  simp

@[simp] theorem State.mirrorImage_memOk (s : State) (e : TileId × Stash × Nat) (hk : s.memOk = true) :
    (s.mirrorImage e).memOk = true := by
  have hp (st : State) (a : Nat) (bs : List Byte) (h : st.memOk = true) :
      ({ st with mirror := putBytes st.mirror a bs } : State).memOk = true := by
    have h' := (State.memOk_iff st).1 h
    exact (State.memOk_iff _).2 ⟨h'.1, putBytes_wf bs _ h'.2.1, h'.2.2⟩
  unfold State.mirrorImage
  refine foldl_memOk _ _ (foldl_memOk _ _ hk (fun st g h => ?_)) (fun st l h => ?_)
  · generalize (List.range 65536).map (Config.freeByte (e.2.2 + g)) = bs
    exact hp _ _ bs h
  · generalize bytesAt e.2.1.bytes (256 * l) 256 = bs
    exact hp _ _ bs h

@[simp] theorem State.mirrorImages_memOk (s : State) (hk : s.memOk = true) : s.mirrorImages.memOk = true := by
  unfold State.mirrorImages
  exact foldl_memOk _ _ hk (fun st e h => State.mirrorImage_memOk st e h)

@[simp] theorem State.writeImages_memOk (s : State) (hk : s.memOk = true) : s.writeImages.memOk = true := by
  unfold State.writeImages
  refine State.mirrorImages_memOk _ ?_
  rw [State.memOk_mk]
  exact (foldl_memOk_eq _ _ _ (fun st t => State.assignKey_memOk _ _)).trans hk

@[simp] theorem execSeizeWrite_memOk (s : State) (hk : s.memOk = true) :
    ansMemOk (execSeizeWrite s) = true := by
  unfold execSeizeWrite
  (try dsimp only); (repeat' split) <;> simp [hk]

@[simp] theorem execSeizeDone_memOk (s : State) : ansMemOk (execSeizeDone s) = s.memOk := by
  unfold execSeizeDone
  rw [ansMemOk_next]
  dsimp only
  split
  · rw [foldl_memOk_eq _ _ _ (fun st p => ?_), State.logEvent_memOk]
    · rfl
    · split
      · rw [State.msgDone_memOk]
      · rfl
  · rfl

@[simp] theorem State.reload_memOk (s : State) (hk : s.memOk = true) : s.reload.memOk = true := by
  unfold State.reload
  dsimp only
  rw [foldl_memOk_eq _ _ _ (fun st e => State.modM_memOk _ _ _)]
  refine foldl_memOk _ _ hk (fun st g h => ?_)
  have h' := (State.memOk_iff st).1 h
  exact State.memOk_mem h (copyGranule_wf _ _ h'.2.1 h'.1) rfl rfl

@[simp] theorem State.restorePkg_memOk (s : State) (i : PkgImage) :
    (State.restorePkg s i).memOk = s.memOk := by
  unfold State.restorePkg
  rfl

@[simp] theorem State.releaseCredits_memOk (s : State) : s.releaseCredits.memOk = s.memOk := by
  unfold State.releaseCredits
  refine foldl_memOk_eq _ _ _ (fun st d => ?_)
  dsimp only
  split
  · rfl
  · rw [State.addCredits_memOk, State.modDie_memOk]

@[simp] theorem State.liftFrozen_memOk (s : State) (hk : s.memOk = true) : s.liftFrozen.memOk = true := by
  unfold State.liftFrozen
  dsimp only
  rw [State.memOk_mk, foldl_memOk_eq _ _ _ (fun st t => State.modTile_memOk _ _ _)]
  refine foldl_memOk _ _ hk (fun st t h => ?_)
  refine State.saveMember_memOk _ _ _ ?_
  rw [State.assignKey_memOk, State.modTile_memOk]
  exact h

@[simp] theorem execResume_memOk (p : PortId) (s : State) (hk : s.memOk = true) : ansMemOk (execResume p s) = true := by
  unfold execResume
  rw [ansMemOk_next]
  refine State.message_memOk _ _ _ _ hk (fun st a b h => ?_)
  have hr : st.reload.memOk = true := State.reload_memOk st h
  dsimp only
  (repeat' split) <;>
    simp only [h, hr, State.msgDone_memOk, State.releaseCredits_memOk, State.memOk_mk, State.liftFrozen_memOk, State.restorePkg_memOk]

@[simp] theorem State.corrected_memOk (s : State) (e : ErrSite) :
    (State.corrected s e).memOk = s.memOk := by
  unfold State.corrected
  (repeat' split) <;> simp

@[simp] theorem execSramScrubPass_memOk (fixed : Option ErrSite) (s : State) :
    ansMemOk (execSramScrubPass fixed s) = s.memOk := by
  unfold execSramScrubPass
  (repeat' split) <;> simp

@[simp] theorem State.consumeSram_memOk (s : State) (t : TileId) :
    (State.consumeSram s t).memOk = s.memOk := by
  unfold State.consumeSram
  dsimp only
  split
  case h_4 => rw [State.tickFree_memOk, State.tickFree_memOk]
  all_goals
    rw [State.modM_memOk, State.logPoison_memOk, State.tickFree_memOk]
    rw [State.tickFree_memOk]

@[simp] theorem execUncorrectedError_memOk (e : ErrSite) (s : State) :
    ansMemOk (execUncorrectedError e s) = s.memOk := by
  unfold execUncorrectedError
  (try dsimp only); (repeat' split) <;> simp

@[simp] theorem execPackageReset_memOk (tfail : BitVec 128) (signed : Bool) (s : State) (hk : s.memOk = true) :
    ansMemOk (execPackageReset tfail signed s) = true := by
  have h := (State.memOk_iff s).1 hk
  have h1 (b : Bool) : SMap.wf blankByte (if b then s.mem else s.mem.filter (fun e => decide (regionOf e.1 ≠ .dram))) = true := by
    cases b
    · exact SMap.wf_filter blankByte _ h.1
    · exact h.1
  have hf (bad : BitVec 128) (l : List Nat) (st : State) : (l.foldl (fun st t =>
      if bad.getLsbD t then st.logEvent 0x06 srcFw (evData 0 t) else st) st).memOk = st.memOk := by
    refine foldl_memOk_eq _ _ _ (fun st t => ?_)
    split
    · rw [State.logEvent_memOk]
    · rfl
  have hg (l : List Nat) (st : State) :
      (l.foldl (fun st k => st.logEvent 0x11 srcFw (evData 0 k)) st).memOk = st.memOk :=
    foldl_memOk_eq _ _ _ (fun st t => State.logEvent_memOk _ _ _ _)
  unfold execPackageReset
  rw [ansMemOk_next]
  dsimp only
  split
  · rw [hg, hf, State.memOk_iff]
    exact ⟨h1 _, h.2⟩
  · rw [State.logEvent_memOk, hg, hf, State.memOk_iff]
    exact ⟨h1 _, h.2⟩

@[simp] theorem execLossOfPower_memOk (s : State) (hk : s.memOk = true) : ansMemOk (execLossOfPower s) = true := by
  have h := (State.memOk_iff s).1 hk
  unfold execLossOfPower
  rw [ansMemOk_next, State.memOk_iff]
  exact ⟨SMap.wf_filter blankByte _ h.1, h.2.1, rfl⟩

theorem State.debugWrite_memOk (s : State) (p : PortId) (t : TileId) (f : State) (hf : f.memOk = s.memOk) :
    (s.debugWrite p t f).memOk = s.memOk := by
  unfold State.debugWrite
  split
  · rfl
  · split
    · exact hf
    · rw [State.noLock_memOk]

@[simp] theorem State.modDbg_memOk (s : State) (t : TileId) (f : Dbg → Dbg) :
    (State.modDbg s t f).memOk = s.memOk := by
  unfold State.modDbg
  rfl

@[simp] theorem execDebugHaltRequest_memOk (p : PortId) (t : TileId) (on : Bool) (s : State) : ansMemOk (execDebugHaltRequest p t on s) = s.memOk := by
  unfold execDebugHaltRequest
  rw [ansMemOk_next]
  refine State.debugWrite_memOk _ _ _ _ ?_
  (repeat' split) <;> simp

@[simp] theorem State.askDbg_memOk (s : State) (t : TileId) (f : Dbg → Dbg) : (s.askDbg t f).memOk = s.memOk := by
  unfold State.askDbg
  (try dsimp only); (repeat' split) <;> rfl

@[simp] theorem execDebugModeSet_memOk (p : PortId) (t : TileId) (on : Bool) (s : State) : ansMemOk (execDebugModeSet p t on s) = s.memOk := by
  unfold execDebugModeSet
  rw [ansMemOk_next]
  refine State.debugWrite_memOk _ _ _ _ ?_
  exact State.askDbg_memOk _ _ _

@[simp] theorem execDebugRecordSet_memOk (p : PortId) (t : TileId) (on : Bool) (s : State) : ansMemOk (execDebugRecordSet p t on s) = s.memOk := by
  unfold execDebugRecordSet
  rw [ansMemOk_next]
  refine State.debugWrite_memOk _ _ _ _ ?_
  exact State.askDbg_memOk _ _ _

@[simp] theorem execProofTake_memOk (t : TileId) (s : State) :
    ansMemOk (execProofTake t s) = s.memOk := by
  unfold execProofTake
  (try dsimp only); (repeat' split) <;> simp

@[simp] theorem execDebugRegisterWrite_memOk (p : PortId) (t : TileId) (r : DbgReg) (hidden : Bool) (v : W4096) (s : State) : ansMemOk (execDebugRegisterWrite p t r hidden v s) = s.memOk := by
  unfold execDebugRegisterWrite
  rw [ansMemOk_next]
  refine State.debugWrite_memOk _ _ _ _ ?_
  (repeat' split) <;> simp

@[simp] theorem State.stopReq_memOk (s : State) (t : TileId) (n : W64) :
    (State.stopReq s t n).memOk = s.memOk := by
  unfold State.stopReq
  (try dsimp only); (repeat' split) <;> simp

@[simp] theorem execDebugStop_memOk (p : PortId) (t : TileId) (n : W64) (s : State) : ansMemOk (execDebugStop p t n s) = s.memOk := by
  unfold execDebugStop
  rw [ansMemOk_next]
  refine State.debugWrite_memOk _ _ _ _ ?_
  rw [State.stopReq_memOk]

@[simp] theorem execDebugReverseStep_memOk (p : PortId) (t : TileId) (s : State) : ansMemOk (execDebugReverseStep p t s) = s.memOk := by
  unfold execDebugReverseStep
  rw [ansMemOk_next]
  refine State.debugWrite_memOk _ _ _ _ ?_
  (repeat' split) <;> simp

@[simp] theorem execDebugForwardStep_memOk (p : PortId) (t : TileId) (s : State) : ansMemOk (execDebugForwardStep p t s) = s.memOk := by
  unfold execDebugForwardStep
  rw [ansMemOk_next]
  refine State.debugWrite_memOk _ _ _ _ ?_
  (repeat' split) <;> simp

@[simp] theorem State.runMessage_memOk (s : State) (p : PortId) (ty : W64) (hk : s.memOk = true) :
    (s.runMessage p ty).memOk = true := by
  have h (x : Ans) (hx : ansMemOk x = true) : (match x with | .next u => u | .fault _ | .refused _ => s : State).memOk = true := by
    cases x with
    | next u => exact hx
    | fault _ => exact hk
    | refused _ => exact hk
  unfold State.runMessage
  dsimp only
  split
  · exact h _ (execSeize_memOk p s hk)
  split
  · exact h _ (execResume_memOk p s hk)
  split
  · exact h _ (execPost_memOk p s hk)
  split
  · exact h _ (execMail_memOk p s hk)
  split
  · exact h _ (execIntr_memOk p s hk)
  split
  · exact h _ (execSubmit_memOk p s hk)
  split
  · exact h _ (execAttest_memOk p s hk)
  split
  · exact h _ (execLinkown_memOk p s hk)
  · exact hk

@[simp] theorem State.try__memOk (s : State) (k : Nat) :
    (State.try_ s k).memOk = s.memOk := by
  unfold State.try_
  simp 

theorem State.portDue_memOk {s : State} {p : PortId} {x : Plan} (hk : s.memOk = true) (h : s.portDue p = some x) :
    x.memOk = true := by
  unfold State.portDue at h
  dsimp only at h
  split at h
  · split at h
    · cases h
    · cases h
      exact State.landHost_memOk _ _ (by rw [State.try__memOk]; exact hk)
  · split at h
    · cases h
    · cases hw : (s.ports[p.val]).work with
      | none => rw [hw] at h; cases h
      | some w =>
        rw [hw] at h
        cases h
        exact State.runMessage_memOk _ _ _ (by rw [State.try__memOk]; exact hk)

theorem State.dueFabric_memOk {s : State} {x : Plan} (hk : s.memOk = true) (h : s.dueFabric = some x) : x.memOk = true := by
  unfold State.dueFabric at h
  split at h
  · cases h; exact hk
  split at h
  · cases h; exact hk
  split at h
  · cases h; exact hk
  split at h
  · cases h; exact hk
  cases hp : s.portDue 0 with
  | none => rw [hp] at h; exact State.portDue_memOk hk h
  | some y =>
    rw [hp] at h
    cases h
    exact State.portDue_memOk hk hp

theorem State.planTurn_memOk (s : State) (n : Turn) (hk : s.memOk = true) : (s.planTurn n).memOk = true := by
  cases n with
  | su t => exact State.planSu_memOk _ _ hk
  | vu t => exact State.planVu_memOk _ _ hk
  | tick t =>
    simp only [State.planTurn]
    split
    · rename_i u hu
      exact (State.haltedStep_memOk hu).trans hk
    · split
      · exact State.endPlan_memOk _ _ _ hk
      · exact hk
  | event i =>
    simp only [State.planTurn]
    split <;> exact hk
  | fleet ns =>
    simp only [State.planTurn]
    split
    · exact hk
    · exact (State.passTime_memOk _ _).trans hk
  | fabric =>
    simp only [State.planTurn]
    split
    · rename_i x hx
      exact State.dueFabric_memOk hk hx
    · exact hk
  | hostMem a b =>
    simp only [State.planTurn]
    split
    · exact State.memOk_mem hk (State.memOk_put hk a [b]) rfl rfl
    all_goals exact hk

@[simp] theorem State.nextTurn_memOk (s : State) : s.nextTurn.2.memOk = s.memOk := by
  unfold State.nextTurn
  split <;> rfl

theorem State.closePlan_memOk (s : State) (t : TileId) (hk : s.memOk = true) : (s.closePlan t).memOk = true := by
  unfold State.closePlan
  split
  · exact hk
  · exact (State.note_memOk _ _).trans hk
  · exact State.closeCycle_memOk _ _ hk

/-- The state that a step's plan runs on keeps the canonical form. -/
theorem State.plan_memOk (s : State) (hk : s.memOk = true) : s.plan.memOk = true := by
  have hn : s.nextTurn.2.memOk = true := (State.nextTurn_memOk s).trans hk
  unfold State.plan
  split
  · exact State.closePlan_memOk _ _ hk
  · dsimp only
    split
    · rfl
    · split
      · exact hn
      · exact State.planTurn_memOk _ _ hn

@[simp] theorem State.placeWord_memOk (s : State) (nbits w : Nat) :
    (State.placeWord s nbits w).memOk = s.memOk := by
  unfold State.placeWord
  ((repeat' split) <;> rfl)

end Sys2Proof.Machine
end

