-- ==== Sys2Proof/Laws/PerInstr.lean ====
section
/-! SUPPORT. The statements made for each constructor of the instruction type: that an instruction which a word encodes is
the one its own encoding decodes to. -/

namespace Sys2Proof.Laws

/-! ### Round trip: the bytes of a well-formed instruction's encoding decode to it -/

/-- An instruction that a word encodes has an encoding, whose bytes decode to it; a step that no word encodes has none. -/
def RoundTrip.Statement (i : Instr) : Prop :=
  i.wf = true → (i.hasWord = true → (encode i).decoded = some i) ∧ (i.hasWord = false → encode i = .none)

/-- The decoder on the bytes of steering words. -/
theorem decoded_su (w : W32) (ws : List W32) : (Encoding.su (w :: ws)).decoded = (decodeSuWords w ws).instr? := by
  simp only [Encoding.decoded, Encoding.bytes, decodeSu, wordsOfBytes_words]

/-- The decoder on the bytes of a vector word. -/
theorem decoded_vu (w : W64) : (Encoding.vu w).decoded = decodeVu w := by
  simp only [Encoding.decoded, Encoding.bytes, decodeVec, dword_of_bytes, dword_parts]
  cases decodeVu w <;> rfl

/-- One steering word. -/
theorem roundTrip_su1 {i : Instr} {w : W32} (he : encode i = .su [w]) (hw : i.hasWord = true)
    (hl : w.extractLsb' 30 2 = 0#2) (h : i.wf = true → decodeSu1 w = some i) : RoundTrip.Statement i := by
  refine fun wf => ⟨fun _ => ?_, fun h' => by simp [hw] at h'⟩
  rw [he, decoded_su]
  simp [decodeSuWords, hl, h wf, Decoded.instr?]

/-- Two steering words. -/
theorem roundTrip_sl {i : Instr} {w x : W32} (he : encode i = .su [w, x]) (hw : i.hasWord = true)
    (hl : w.extractLsb' 30 2 = 1#2) (h : i.wf = true → decodeSl w x = some i) : RoundTrip.Statement i := by
  refine fun wf => ⟨fun _ => ?_, fun h' => by simp [hw] at h'⟩
  rw [he, decoded_su]
  simp [decodeSuWords, hl, h wf, Decoded.instr?]

/-- A command. -/
theorem roundTrip_cmd {i : Instr} {maj min opa opb opc : BitVec 6} {hd : Head} {x y : SReg} {imm : W32}
    (he : encode i = encSc maj min opa opb opc hd x y imm) (hw : i.hasWord = true)
    (h : i.wf = true → pickCmd (candCmd (cmdFields maj min opa opb opc hd x y imm)) = .ok i 16) :
    RoundTrip.Statement i := by
  refine fun wf => ⟨fun _ => ?_, fun h' => by simp [hw] at h'⟩
  rw [he, encSc_eq, decoded_su]
  simp [decodeSuWords, decodeCmd_enc, h wf, Decoded.instr?]

/-- A vector word. -/
theorem roundTrip_vu {i : Instr} {w : W64} (he : encode i = .vu w) (hw : i.hasWord = true)
    (h : i.wf = true → decodeVuCand w = some i) : RoundTrip.Statement i := by
  refine fun wf => ⟨fun _ => ?_, fun h' => by simp [hw] at h'⟩
  rw [he, decoded_vu]
  simp [decodeVu, h wf, wf]

/-- A step that no word encodes. -/
theorem roundTrip_none {i : Instr} (he : encode i = .none) (hw : i.hasWord = false) : RoundTrip.Statement i :=
  fun _ => ⟨fun h' => by simp [hw] at h', fun _ => he⟩

/-! One lemma for each constructor. -/

theorem RoundTrip.add (d a b : SReg) : RoundTrip.Statement (.add d a b) :=
  roundTrip_su1 rfl rfl (by simp) (fun h => by simp [decodeSu1, decodeAlu])

theorem RoundTrip.sub (d a b : SReg) : RoundTrip.Statement (.sub d a b) :=
  roundTrip_su1 rfl rfl (by simp) (fun h => by simp [decodeSu1, decodeAlu])

theorem RoundTrip.mul (d a b : SReg) : RoundTrip.Statement (.mul d a b) :=
  roundTrip_su1 rfl rfl (by simp) (fun h => by simp [decodeSu1, decodeAlu])

theorem RoundTrip.mulh (d a b : SReg) : RoundTrip.Statement (.mulh d a b) :=
  roundTrip_su1 rfl rfl (by simp) (fun h => by simp [decodeSu1, decodeAlu])

theorem RoundTrip.mulhu (d a b : SReg) : RoundTrip.Statement (.mulhu d a b) :=
  roundTrip_su1 rfl rfl (by simp) (fun h => by simp [decodeSu1, decodeAlu])

theorem RoundTrip.div (d a b : SReg) : RoundTrip.Statement (.div d a b) :=
  roundTrip_su1 rfl rfl (by simp) (fun h => by simp [decodeSu1, decodeAlu])

theorem RoundTrip.divu (d a b : SReg) : RoundTrip.Statement (.divu d a b) :=
  roundTrip_su1 rfl rfl (by simp) (fun h => by simp [decodeSu1, decodeAlu])

theorem RoundTrip.rem (d a b : SReg) : RoundTrip.Statement (.rem d a b) :=
  roundTrip_su1 rfl rfl (by simp) (fun h => by simp [decodeSu1, decodeAlu])

theorem RoundTrip.remu (d a b : SReg) : RoundTrip.Statement (.remu d a b) :=
  roundTrip_su1 rfl rfl (by simp) (fun h => by simp [decodeSu1, decodeAlu])

theorem RoundTrip.and (d a b : SReg) : RoundTrip.Statement (.and d a b) :=
  roundTrip_su1 rfl rfl (by simp) (fun h => by simp [decodeSu1, decodeAlu])

theorem RoundTrip.or (d a b : SReg) : RoundTrip.Statement (.or d a b) :=
  roundTrip_su1 rfl rfl (by simp) (fun h => by simp [decodeSu1, decodeAlu])

theorem RoundTrip.xor (d a b : SReg) : RoundTrip.Statement (.xor d a b) :=
  roundTrip_su1 rfl rfl (by simp) (fun h => by simp [decodeSu1, decodeAlu])

theorem RoundTrip.andn (d a b : SReg) : RoundTrip.Statement (.andn d a b) :=
  roundTrip_su1 rfl rfl (by simp) (fun h => by simp [decodeSu1, decodeAlu])

theorem RoundTrip.shl (d a b : SReg) : RoundTrip.Statement (.shl d a b) :=
  roundTrip_su1 rfl rfl (by simp) (fun h => by simp [decodeSu1, decodeAlu])

theorem RoundTrip.shr (d a b : SReg) : RoundTrip.Statement (.shr d a b) :=
  roundTrip_su1 rfl rfl (by simp) (fun h => by simp [decodeSu1, decodeAlu])

theorem RoundTrip.sra (d a b : SReg) : RoundTrip.Statement (.sra d a b) :=
  roundTrip_su1 rfl rfl (by simp) (fun h => by simp [decodeSu1, decodeAlu])

theorem RoundTrip.min (d a b : SReg) : RoundTrip.Statement (.min d a b) :=
  roundTrip_su1 rfl rfl (by simp) (fun h => by simp [decodeSu1, decodeAlu])

theorem RoundTrip.max (d a b : SReg) : RoundTrip.Statement (.max d a b) :=
  roundTrip_su1 rfl rfl (by simp) (fun h => by simp [decodeSu1, decodeAlu])

theorem RoundTrip.minu (d a b : SReg) : RoundTrip.Statement (.minu d a b) :=
  roundTrip_su1 rfl rfl (by simp) (fun h => by simp [decodeSu1, decodeAlu])

theorem RoundTrip.maxu (d a b : SReg) : RoundTrip.Statement (.maxu d a b) :=
  roundTrip_su1 rfl rfl (by simp) (fun h => by simp [decodeSu1, decodeAlu])

theorem RoundTrip.seq (d a b : SReg) : RoundTrip.Statement (.seq d a b) :=
  roundTrip_su1 rfl rfl (by simp) (fun h => by simp [decodeSu1, decodeCmp])

theorem RoundTrip.sne (d a b : SReg) : RoundTrip.Statement (.sne d a b) :=
  roundTrip_su1 rfl rfl (by simp) (fun h => by simp [decodeSu1, decodeCmp])

theorem RoundTrip.slt (d a b : SReg) : RoundTrip.Statement (.slt d a b) :=
  roundTrip_su1 rfl rfl (by simp) (fun h => by simp [decodeSu1, decodeCmp])

theorem RoundTrip.sltu (d a b : SReg) : RoundTrip.Statement (.sltu d a b) :=
  roundTrip_su1 rfl rfl (by simp) (fun h => by simp [decodeSu1, decodeCmp])

theorem RoundTrip.sel (d a b : SReg) : RoundTrip.Statement (.sel d a b) :=
  roundTrip_su1 rfl rfl (by simp) (fun h => by simp [decodeSu1, decodeCmp])

theorem RoundTrip.clz (d a : SReg) : RoundTrip.Statement (.clz d a) :=
  roundTrip_su1 rfl rfl (by simp) (fun h => by simp [decodeSu1, decodeCmp])

theorem RoundTrip.ctz (d a : SReg) : RoundTrip.Statement (.ctz d a) :=
  roundTrip_su1 rfl rfl (by simp) (fun h => by simp [decodeSu1, decodeCmp])

theorem RoundTrip.popc (d a : SReg) : RoundTrip.Statement (.popc d a) :=
  roundTrip_su1 rfl rfl (by simp) (fun h => by simp [decodeSu1, decodeCmp])

theorem RoundTrip.mov (d : SReg) (m : MIx) : RoundTrip.Statement (.mov d m) :=
  roundTrip_su1 rfl rfl (by simp) (fun h => by simp [decodeSu1, decodeSys])

theorem RoundTrip.ctlRd (d : SReg) (c : Ctl) : RoundTrip.Statement (.ctlRd d c) :=
  roundTrip_su1 rfl rfl (by simp) (fun h => by simp [decodeSu1, decodeSys])

theorem RoundTrip.ctlWr (c : Ctl) (a : SReg) : RoundTrip.Statement (.ctlWr c a) :=
  roundTrip_su1 rfl rfl (by simp) (fun h => by simp [decodeSu1, decodeSys])

theorem RoundTrip.probe (d : SReg) (p : Prb) : RoundTrip.Statement (.probe d p) :=
  roundTrip_su1 rfl rfl (by simp) (fun h => by simp [decodeSu1, decodeSys])

theorem RoundTrip.flip : RoundTrip.Statement (.flip) :=
  roundTrip_su1 rfl rfl (by simp) (fun h => by simp [decodeSu1, decodeSys])

theorem RoundTrip.nop : RoundTrip.Statement (.nop) :=
  roundTrip_su1 rfl rfl (by simp) (fun h => by simp [decodeSu1, decodeSys])

theorem RoundTrip.retire : RoundTrip.Statement (.retire) :=
  roundTrip_su1 rfl rfl (by simp) (fun h => by simp [decodeSu1, decodeSys])

theorem RoundTrip.eret : RoundTrip.Statement (.eret) :=
  roundTrip_su1 rfl rfl (by simp) (fun h => by simp [decodeSu1, decodeSys])

theorem RoundTrip.eretAbort : RoundTrip.Statement (.eretAbort) :=
  roundTrip_su1 rfl rfl (by simp) (fun h => by simp [decodeSu1, decodeSys])

theorem RoundTrip.pwrRel : RoundTrip.Statement (.pwrRel) :=
  roundTrip_su1 rfl rfl (by simp) (fun h => by simp [decodeSu1, decodeSys])

theorem RoundTrip.jr (a : SReg) : RoundTrip.Statement (.jr a) :=
  roundTrip_su1 rfl rfl (by simp) (fun h => by simp [decodeSu1, decodeSys])

theorem RoundTrip.callr (d a : SReg) : RoundTrip.Statement (.callr d a) :=
  roundTrip_su1 rfl rfl (by simp) (fun h => by simp [decodeSu1, decodeSys])

theorem RoundTrip.tlbiAll : RoundTrip.Statement (.tlbiAll) :=
  roundTrip_su1 rfl rfl (by simp) (fun h => by simp [decodeSu1, decodeSys])

theorem RoundTrip.tlbiAsid (a : SReg) : RoundTrip.Statement (.tlbiAsid a) :=
  roundTrip_su1 rfl rfl (by simp) (fun h => by simp [decodeSu1, decodeSys])

theorem RoundTrip.tlbiVa (a b : SReg) : RoundTrip.Statement (.tlbiVa a b) :=
  roundTrip_su1 rfl rfl (by simp) (fun h => by simp [decodeSu1, decodeSys])

theorem RoundTrip.fenceT : RoundTrip.Statement (.fenceT) :=
  roundTrip_su1 rfl rfl (by simp) (fun h => by simp [decodeSu1, decodeSync])

theorem RoundTrip.fenceQ : RoundTrip.Statement (.fenceQ) :=
  roundTrip_su1 rfl rfl (by simp) (fun h => by simp [decodeSu1, decodeSync])

theorem RoundTrip.fenceD : RoundTrip.Statement (.fenceD) :=
  roundTrip_su1 rfl rfl (by simp) (fun h => by simp [decodeSu1, decodeSync])

theorem RoundTrip.fenceP : RoundTrip.Statement (.fenceP) :=
  roundTrip_su1 rfl rfl (by simp) (fun h => by simp [decodeSu1, decodeSync])

theorem RoundTrip.fenceS : RoundTrip.Statement (.fenceS) :=
  roundTrip_su1 rfl rfl (by simp) (fun h => by simp [decodeSu1, decodeSync])

theorem RoundTrip.barInit (a b : SReg) : RoundTrip.Statement (.barInit a b) :=
  roundTrip_su1 rfl rfl (by simp) (fun h => by simp [decodeSu1, decodeSync])

theorem RoundTrip.barWait (a b : SReg) : RoundTrip.Statement (.barWait a b) :=
  roundTrip_su1 rfl rfl (by simp) (fun h => by simp [decodeSu1, decodeSync])

theorem RoundTrip.barWaitSink (a b : SReg) : RoundTrip.Statement (.barWaitSink a b) :=
  roundTrip_su1 rfl rfl (by simp) (fun h => by simp [decodeSu1, decodeSync])

theorem RoundTrip.waita (d a b : SReg) : RoundTrip.Statement (.waita d a b) :=
  roundTrip_su1 rfl rfl (by simp) (fun h => by simp [decodeSu1, decodeSync])

theorem RoundTrip.addi (d a : SReg) (imm : BitVec 12) : RoundTrip.Statement (.addi d a imm) :=
  roundTrip_su1 rfl rfl (by simp) (fun h => by simp [decodeSu1])

theorem RoundTrip.andi (d a : SReg) (imm : BitVec 12) : RoundTrip.Statement (.andi d a imm) :=
  roundTrip_su1 rfl rfl (by simp) (fun h => by simp [decodeSu1])

theorem RoundTrip.ori (d a : SReg) (imm : BitVec 12) : RoundTrip.Statement (.ori d a imm) :=
  roundTrip_su1 rfl rfl (by simp) (fun h => by simp [decodeSu1])

theorem RoundTrip.xori (d a : SReg) (imm : BitVec 12) : RoundTrip.Statement (.xori d a imm) :=
  roundTrip_su1 rfl rfl (by simp) (fun h => by simp [decodeSu1])

theorem RoundTrip.shli (d a : SReg) (n : BitVec 6) : RoundTrip.Statement (.shli d a n) :=
  roundTrip_su1 rfl rfl (by simp) (fun h => by simp [decodeSu1])

theorem RoundTrip.shri (d a : SReg) (n : BitVec 6) : RoundTrip.Statement (.shri d a n) :=
  roundTrip_su1 rfl rfl (by simp) (fun h => by simp [decodeSu1])

theorem RoundTrip.srai (d a : SReg) (n : BitVec 6) : RoundTrip.Statement (.srai d a n) :=
  roundTrip_su1 rfl rfl (by simp) (fun h => by simp [decodeSu1])

theorem RoundTrip.slti (d a : SReg) (imm : BitVec 12) : RoundTrip.Statement (.slti d a imm) :=
  roundTrip_su1 rfl rfl (by simp) (fun h => by simp [decodeSu1])

theorem RoundTrip.sltui (d a : SReg) (imm : BitVec 12) : RoundTrip.Statement (.sltui d a imm) :=
  roundTrip_su1 rfl rfl (by simp) (fun h => by simp [decodeSu1])

theorem RoundTrip.bfx (d a : SReg) (lo wd1 : BitVec 6) : RoundTrip.Statement (.bfx d a lo wd1) :=
  roundTrip_su1 rfl rfl (by simp) (fun h => by simpa [decodeSu1, need, Instr.wf] using h)

theorem RoundTrip.bfxs (d a : SReg) (lo wd1 : BitVec 6) : RoundTrip.Statement (.bfxs d a lo wd1) :=
  roundTrip_su1 rfl rfl (by simp) (fun h => by simpa [decodeSu1, need, Instr.wf] using h)

theorem RoundTrip.bfi (d a : SReg) (lo wd1 : BitVec 6) : RoundTrip.Statement (.bfi d a lo wd1) :=
  roundTrip_su1 rfl rfl (by simp) (fun h => by simpa [decodeSu1, need, Instr.wf] using h)

theorem RoundTrip.trap (imm : BitVec 12) : RoundTrip.Statement (.trap imm) :=
  roundTrip_su1 rfl rfl (by simp) (fun h => by simp [decodeSu1])

theorem RoundTrip.gearLo : RoundTrip.Statement (.gearLo) :=
  roundTrip_su1 rfl rfl (by simp) (fun h => by simp [decodeSu1])

theorem RoundTrip.gearHi : RoundTrip.Statement (.gearHi) :=
  roundTrip_su1 rfl rfl (by simp) (fun h => by simp [decodeSu1])

theorem RoundTrip.pwrAcq (c : BitVec 3) : RoundTrip.Statement (.pwrAcq c) :=
  roundTrip_su1 rfl rfl (by simp) (fun h => by simp [decodeSu1, ↓mkSi_low, ↓BitVec.extractLsb'_append_eq_of_le,
    ↓BitVec.extractLsb'_append_eq_of_add_le])

theorem RoundTrip.pwrReq (d a : SReg) (pv : Bool) (n : BitVec 6) : RoundTrip.Statement (.pwrReq d a pv n) :=
  roundTrip_su1 rfl rfl (by simp) (fun h => by simp [decodeSu1, ↓mkSi_low, ↓mkSi_bit,
    ↓BitVec.extractLsb'_append_eq_of_le,
    ↓BitVec.extractLsb'_append_eq_of_add_le, ↓BitVec.getLsbD_append])

theorem RoundTrip.ldB (d a : SReg) (off : BitVec 12) : RoundTrip.Statement (.ldB d a off) :=
  roundTrip_su1 rfl rfl (by simp) (fun h => by simp [decodeSu1])

theorem RoundTrip.ldBu (d a : SReg) (off : BitVec 12) : RoundTrip.Statement (.ldBu d a off) :=
  roundTrip_su1 rfl rfl (by simp) (fun h => by simp [decodeSu1])

theorem RoundTrip.ldH (d a : SReg) (off : BitVec 12) : RoundTrip.Statement (.ldH d a off) :=
  roundTrip_su1 rfl rfl (by simp) (fun h => by simp [decodeSu1])

theorem RoundTrip.ldHu (d a : SReg) (off : BitVec 12) : RoundTrip.Statement (.ldHu d a off) :=
  roundTrip_su1 rfl rfl (by simp) (fun h => by simp [decodeSu1])

theorem RoundTrip.ldW (d a : SReg) (off : BitVec 12) : RoundTrip.Statement (.ldW d a off) :=
  roundTrip_su1 rfl rfl (by simp) (fun h => by simp [decodeSu1])

theorem RoundTrip.ldWu (d a : SReg) (off : BitVec 12) : RoundTrip.Statement (.ldWu d a off) :=
  roundTrip_su1 rfl rfl (by simp) (fun h => by simp [decodeSu1])

theorem RoundTrip.ldD (d a : SReg) (off : BitVec 12) : RoundTrip.Statement (.ldD d a off) :=
  roundTrip_su1 rfl rfl (by simp) (fun h => by simp [decodeSu1])

theorem RoundTrip.tdLoad (n : TdIx) (a : SReg) (off : BitVec 12) : RoundTrip.Statement (.tdLoad n a off) :=
  roundTrip_su1 rfl rfl (by simp) (fun h => by simp [decodeSu1])

theorem RoundTrip.stB (src a : SReg) (off : BitVec 12) : RoundTrip.Statement (.stB src a off) :=
  roundTrip_su1 rfl rfl (by simp) (fun h => by simp [decodeSu1])

theorem RoundTrip.stH (src a : SReg) (off : BitVec 12) : RoundTrip.Statement (.stH src a off) :=
  roundTrip_su1 rfl rfl (by simp) (fun h => by simp [decodeSu1])

theorem RoundTrip.stW (src a : SReg) (off : BitVec 12) : RoundTrip.Statement (.stW src a off) :=
  roundTrip_su1 rfl rfl (by simp) (fun h => by simp [decodeSu1])

theorem RoundTrip.stD (src a : SReg) (off : BitVec 12) : RoundTrip.Statement (.stD src a off) :=
  roundTrip_su1 rfl rfl (by simp) (fun h => by simp [decodeSu1])

theorem RoundTrip.qdrop (d a : SReg) (q : BitVec 4) : RoundTrip.Statement (.qdrop d a q) :=
  roundTrip_su1 rfl rfl (by simp) (fun h => by simp [decodeSu1, ↓mkSi_low, ↓BitVec.extractLsb'_append_eq_of_le,
    ↓BitVec.extractLsb'_append_eq_of_add_le])

theorem RoundTrip.beq (a b : SReg) (off : BitVec 12) : RoundTrip.Statement (.beq a b off) :=
  roundTrip_su1 rfl rfl (by simp) (fun h => by simp [decodeSu1])

theorem RoundTrip.bne (a b : SReg) (off : BitVec 12) : RoundTrip.Statement (.bne a b off) :=
  roundTrip_su1 rfl rfl (by simp) (fun h => by simp [decodeSu1])

theorem RoundTrip.blt (a b : SReg) (off : BitVec 12) : RoundTrip.Statement (.blt a b off) :=
  roundTrip_su1 rfl rfl (by simp) (fun h => by simp [decodeSu1])

theorem RoundTrip.bge (a b : SReg) (off : BitVec 12) : RoundTrip.Statement (.bge a b off) :=
  roundTrip_su1 rfl rfl (by simp) (fun h => by simp [decodeSu1])

theorem RoundTrip.bltu (a b : SReg) (off : BitVec 12) : RoundTrip.Statement (.bltu a b off) :=
  roundTrip_su1 rfl rfl (by simp) (fun h => by simp [decodeSu1])

theorem RoundTrip.bgeu (a b : SReg) (off : BitVec 12) : RoundTrip.Statement (.bgeu a b off) :=
  roundTrip_su1 rfl rfl (by simp) (fun h => by simp [decodeSu1])

theorem RoundTrip.li (d : SReg) (imm : W32) : RoundTrip.Statement (.li d imm) :=
  roundTrip_sl rfl rfl (by simp) (fun h => by simp [decodeSl])

theorem RoundTrip.lhi (d a : SReg) (imm : W32) : RoundTrip.Statement (.lhi d a imm) :=
  roundTrip_sl rfl rfl (by simp) (fun h => by simp [decodeSl])

theorem RoundTrip.jal (d : SReg) (imm : W32) : RoundTrip.Statement (.jal d imm) :=
  roundTrip_sl rfl rfl (by simp) (fun h => by simp [decodeSl])

theorem RoundTrip.semPost (n : BitVec 8) (v : BitVec 24) : RoundTrip.Statement (.semPost n v) :=
  roundTrip_sl rfl rfl (by simp) (fun h => by simp [decodeSl, decodeSem, ↓BitVec.extractLsb'_append_eq_of_le,
    ↓BitVec.extractLsb'_append_eq_of_add_le])

theorem RoundTrip.semPostTile (a : SReg) (n : BitVec 8) (v : BitVec 24) : RoundTrip.Statement (.semPostTile a n v) :=
  roundTrip_sl rfl rfl (by simp) (fun h => by
    simp [Instr.wf] at h
    simp [decodeSl, decodeSem, h, ↓BitVec.extractLsb'_append_eq_of_le,
    ↓BitVec.extractLsb'_append_eq_of_add_le])

theorem RoundTrip.semSet (n : BitVec 8) (v : BitVec 24) : RoundTrip.Statement (.semSet n v) :=
  roundTrip_sl rfl rfl (by simp) (fun h => by simp [decodeSl, decodeSem, ↓BitVec.extractLsb'_append_eq_of_le,
    ↓BitVec.extractLsb'_append_eq_of_add_le])

theorem RoundTrip.semRd (d : SReg) (n : BitVec 8) : RoundTrip.Statement (.semRd d n) :=
  roundTrip_sl rfl rfl (by simp) (fun h => by simp [decodeSl, decodeSem, ↓BitVec.extractLsb'_append_eq_of_le,
    ↓BitVec.extractLsb'_append_eq_of_add_le])

theorem RoundTrip.spawn (d a : SReg) (pool : BitVec 8) : RoundTrip.Statement (.spawn d a pool) :=
  roundTrip_sl rfl rfl (by simp) (fun h => by simp [decodeSl, decodeTask, ↓BitVec.extractLsb'_append_eq_of_le,
    ↓BitVec.extractLsb'_append_eq_of_add_le])

theorem RoundTrip.publish (c a : SReg) : RoundTrip.Statement (.publish c a) :=
  roundTrip_sl rfl rfl (by simp) (fun h => by simp [decodeSl, decodeTask])

theorem RoundTrip.yield (d : SReg) : RoundTrip.Statement (.yield d) :=
  roundTrip_sl rfl rfl (by simp) (fun h => by simp [decodeSl, decodeTask])

theorem RoundTrip.cancelTask (a : SReg) : RoundTrip.Statement (.cancelTask a) :=
  roundTrip_sl rfl rfl (by simp) (fun h => by simp [decodeSl, decodeTask])

theorem RoundTrip.cancel (l : Level) (a : SReg) : RoundTrip.Statement (.cancel l a) := by
  cases l <;> exact roundTrip_sl rfl rfl (by simp) (fun h => by simp [decodeSl, decodeTask, Level.code])

theorem RoundTrip.poolGet (d : SReg) (pool : BitVec 8) : RoundTrip.Statement (.poolGet d pool) :=
  roundTrip_sl rfl rfl (by simp) (fun h => by simp [decodeSl, decodeTask, ↓BitVec.extractLsb'_append_eq_of_le,
    ↓BitVec.extractLsb'_append_eq_of_add_le])

theorem RoundTrip.poolPut (a : SReg) (pool : BitVec 8) : RoundTrip.Statement (.poolPut a pool) :=
  roundTrip_sl rfl rfl (by simp) (fun h => by simp [decodeSl, decodeTask, ↓BitVec.extractLsb'_append_eq_of_le,
    ↓BitVec.extractLsb'_append_eq_of_add_le])

theorem RoundTrip.tideLoad (a : SReg) (n1 : BitVec 8) : RoundTrip.Statement (.tideLoad a n1) :=
  roundTrip_sl rfl rfl (by simp) (fun h => by simp [decodeSl, decodeTide, ↓BitVec.extractLsb'_append_eq_of_le,
    ↓BitVec.extractLsb'_append_eq_of_add_le])

theorem RoundTrip.tideGo (a : SReg) (post : Option (BitVec 8)) : RoundTrip.Statement (.tideGo a post) := by
  cases post with
  | none => exact roundTrip_sl rfl rfl (by simp) (fun h => by simp [decodeSl, decodeTide])
  | some n => exact roundTrip_sl rfl rfl (by simp) (fun h => by
      simp [Instr.wf] at h
      simp [decodeSl, decodeTide, h, ↓BitVec.extractLsb'_append_eq_of_le,
    ↓BitVec.extractLsb'_append_eq_of_add_le, ↓BitVec.getLsbD_append])

theorem RoundTrip.tideRd (d : SReg) (sel : Bool) : RoundTrip.Statement (.tideRd d sel) :=
  roundTrip_sl rfl rfl (by simp) (fun h => by simp [decodeSl, decodeTide, ↓BitVec.extractLsb'_append_eq_of_le,
    ↓BitVec.getLsbD_append])

theorem RoundTrip.mma (h : Head) (acc : BitVec 3) (tda tdb : TdIx) (sat ta z : Bool) :
    RoundTrip.Statement (.mma h acc tda tdb sat ta z) :=
  roundTrip_cmd rfl rfl (fun h => by simp [candCmd, candMu, pickCmd, ↓encImm_low])

theorem RoundTrip.mmaSp (h : Head) (acc : BitVec 3) (tda tdb : TdIx) (sat ta z : Bool) :
    RoundTrip.Statement (.mmaSp h acc tda tdb sat ta z) :=
  roundTrip_cmd rfl rfl (fun h => by simp [candCmd, candMu, pickCmd, ↓encImm_low])

theorem RoundTrip.wload (h : Head) (wb : BitVec 3) (tdb : TdIx) : RoundTrip.Statement (.wload h wb tdb) :=
  roundTrip_cmd rfl rfl (fun h => by simp [candCmd, candMu, pickCmd, ↓encImm_low])

theorem RoundTrip.wloadT (h : Head) (wb : BitVec 3) (tdb : TdIx) (sparse : Bool) :
    RoundTrip.Statement (.wloadT h wb tdb sparse) :=
  roundTrip_cmd rfl rfl (fun h => by simp [candCmd, candMu, pickCmd, ↓encImm_low])

theorem RoundTrip.aclr (h : Head) (acc : BitVec 3) : RoundTrip.Statement (.aclr h acc) :=
  roundTrip_cmd rfl rfl (fun h => by simp [candCmd, candMu, pickCmd, ↓encImm_low])

theorem RoundTrip.ainit (h : Head) (acc : BitVec 3) (tds : TdIx) : RoundTrip.Statement (.ainit h acc tds) :=
  roundTrip_cmd rfl rfl (fun h => by simp [candCmd, candMu, pickCmd, ↓encImm_low])

theorem RoundTrip.adrain (h : Head) (acc : BitVec 3) (tdd : TdIx) (trans clear : Bool) :
    RoundTrip.Statement (.adrain h acc tdd trans clear) :=
  roundTrip_cmd rfl rfl (fun h => by simp [candCmd, candMu, pickCmd, ↓encImm_low])

theorem RoundTrip.adrainMx (h : Head) (acc : BitVec 3) (tdd : TdIx) (trans clear : Bool) :
    RoundTrip.Statement (.adrainMx h acc tdd trans clear) :=
  roundTrip_cmd rfl rfl (fun h => by simp [candCmd, candMu, pickCmd, ↓encImm_low])

theorem RoundTrip.fenceOc (h : Head) : RoundTrip.Statement (.fenceOc h) :=
  roundTrip_cmd rfl rfl (fun h => by simp [candCmd, candMu, pickCmd, ↓encImm_low])

theorem RoundTrip.cp (h : Head) (tdd tds : TdIx) (slot : Option (BitVec 3)) :
    RoundTrip.Statement (.cp h tdd tds slot) :=
  roundTrip_cmd rfl rfl (fun h => by simp [candCmd, candCu, pickCmd])

theorem RoundTrip.cpAccF32 (h : Head) (tdd tds : TdIx) (slot : Option (BitVec 3)) :
    RoundTrip.Statement (.cpAccF32 h tdd tds slot) :=
  roundTrip_cmd rfl rfl (fun h => by simp [candCmd, candCu, pickCmd])

theorem RoundTrip.cpAccBf16 (h : Head) (tdd tds : TdIx) : RoundTrip.Statement (.cpAccBf16 h tdd tds) :=
  roundTrip_cmd rfl rfl (fun h => by simp [candCmd, candCu, pickCmd, ↓encImm_low, noSlotResv])

theorem RoundTrip.cpAccI32 (h : Head) (tdd tds : TdIx) : RoundTrip.Statement (.cpAccI32 h tdd tds) :=
  roundTrip_cmd rfl rfl (fun h => by simp [candCmd, candCu, pickCmd, ↓encImm_low, noSlotResv])

theorem RoundTrip.cpMc (h : Head) (tdd tds : TdIx) (x : SReg) (mask : BitVec 16) :
    RoundTrip.Statement (.cpMc h tdd tds x mask) :=
  roundTrip_cmd rfl rfl (fun h => by simp [Instr.wf] at h; simp [candCmd, candCu, pickCmd, ↓encImm_low, h])

theorem RoundTrip.gather (h : Head) (tdd tdt tdl : TdIx) (strict : Bool) :
    RoundTrip.Statement (.gather h tdd tdt tdl strict) :=
  roundTrip_cmd rfl rfl (fun h => by simp [candCmd, candCu, pickCmd, ↓encImm_low])

theorem RoundTrip.scatter (h : Head) (tdt tds tdl : TdIx) (strict : Bool) :
    RoundTrip.Statement (.scatter h tdt tds tdl strict) :=
  roundTrip_cmd rfl rfl (fun h => by simp [candCmd, candCu, pickCmd, ↓encImm_low])

theorem RoundTrip.scatterAccF32 (h : Head) (tdt tds tdl : TdIx) (strict : Bool) :
    RoundTrip.Statement (.scatterAccF32 h tdt tds tdl strict) :=
  roundTrip_cmd rfl rfl (fun h => by simp [candCmd, candCu, pickCmd, ↓encImm_low])

theorem RoundTrip.scatterAccBf16 (h : Head) (tdt tds tdl : TdIx) (strict : Bool) :
    RoundTrip.Statement (.scatterAccBf16 h tdt tds tdl strict) :=
  roundTrip_cmd rfl rfl (fun h => by simp [candCmd, candCu, pickCmd, ↓encImm_low])

theorem RoundTrip.scatterAccI32 (h : Head) (tdt tds tdl : TdIx) (strict : Bool) :
    RoundTrip.Statement (.scatterAccI32 h tdt tds tdl strict) :=
  roundTrip_cmd rfl rfl (fun h => by simp [candCmd, candCu, pickCmd, ↓encImm_low])

theorem RoundTrip.fill (h : Head) (tdd : TdIx) (x : SReg) : RoundTrip.Statement (.fill h tdd x) :=
  roundTrip_cmd rfl rfl (fun h => by simp [candCmd, candCu, pickCmd, ↓encImm_low])

theorem RoundTrip.atomAdd (h : Head) (ret : Option MIx) (x y : SReg) : RoundTrip.Statement (.atomAdd h ret x y) :=
  roundTrip_cmd rfl rfl (fun h => by simp [candCmd, candCu, pickCmd, ↓encImm_low, candAtom])

theorem RoundTrip.atomAddthr (h : Head) (ret : Option MIx) (x y z : SReg) :
    RoundTrip.Statement (.atomAddthr h ret x y z) :=
  roundTrip_cmd rfl rfl (fun h => by simp [candCmd, candCu, pickCmd, ↓encImm_low, candAtom])

theorem RoundTrip.atomSwap (h : Head) (ret : Option MIx) (x y : SReg) : RoundTrip.Statement (.atomSwap h ret x y) :=
  roundTrip_cmd rfl rfl (fun h => by simp [candCmd, candCu, pickCmd, ↓encImm_low, candAtom])

theorem RoundTrip.atomCas (h : Head) (ret : Option MIx) (x y z : SReg) : RoundTrip.Statement (.atomCas h ret x y z) :=
  roundTrip_cmd rfl rfl (fun h => by simp [candCmd, candCu, pickCmd, ↓encImm_low, candAtom])

theorem RoundTrip.atomMin (h : Head) (ret : Option MIx) (x y : SReg) : RoundTrip.Statement (.atomMin h ret x y) :=
  roundTrip_cmd rfl rfl (fun h => by simp [candCmd, candCu, pickCmd, ↓encImm_low, candAtom])

theorem RoundTrip.atomMax (h : Head) (ret : Option MIx) (x y : SReg) : RoundTrip.Statement (.atomMax h ret x y) :=
  roundTrip_cmd rfl rfl (fun h => by simp [candCmd, candCu, pickCmd, ↓encImm_low, candAtom])

theorem RoundTrip.atomArrive (h : Head) (ret : Option MIx) (x : SReg) : RoundTrip.Statement (.atomArrive h ret x) :=
  roundTrip_cmd rfl rfl (fun h => by simp [candCmd, candCu, pickCmd, ↓encImm_low, candAtom])

theorem RoundTrip.note (h : Head) (x y : SReg) : RoundTrip.Statement (.note h x y) :=
  roundTrip_cmd rfl rfl (fun h => by simp [candCmd, candCu, pickCmd, ↓encImm_low])

theorem RoundTrip.chain (h : Head) (w : BitVec 2) (x : SReg) : RoundTrip.Statement (.chain h w x) :=
  roundTrip_cmd rfl rfl (fun h => by simp [candCmd, candCu, pickCmd, ↓encImm_low])

theorem RoundTrip.stashMap (h : Head) (td : TdIx) (zero : Bool) (soff : BitVec 10) :
    RoundTrip.Statement (.stashMap h td zero soff) :=
  roundTrip_cmd rfl rfl (fun h => by simp [candCmd, candCu, pickCmd, ↓encImm_low])

theorem RoundTrip.stashUnmap (h : Head) (td : TdIx) : RoundTrip.Statement (.stashUnmap h td) :=
  roundTrip_cmd rfl rfl (fun h => by simp [candCmd, candCu, pickCmd, ↓encImm_low])

theorem RoundTrip.stashWb (h : Head) (td : TdIx) : RoundTrip.Statement (.stashWb h td) :=
  roundTrip_cmd rfl rfl (fun h => by simp [candCmd, candCu, pickCmd, ↓encImm_low])

theorem RoundTrip.offload (h : Head) (tdd tds : TdIx) (x : SReg) : RoundTrip.Statement (.offload h tdd tds x) :=
  roundTrip_cmd rfl rfl (fun h => by simp [candCmd, candCu, pickCmd, ↓encImm_low])

theorem RoundTrip.csend (h : Head) (c : CeClass) (link : LinkId) (tag : BitVec 8) (tds : TdIx) :
    RoundTrip.Statement (.csend h c link tag tds) :=
  roundTrip_cmd rfl rfl (fun h => by cases c <;> simp [candCmd, candCe, pickCmd, ↓encImm_low, CmdFields.link, CmdFields.ceClassResv, CmdFields.ceClassOk, CmdFields.ceClass, encCeImm, CeClass.selx])

theorem RoundTrip.crecv (h : Head) (link : LinkId) (tag : BitVec 8) (tdd : TdIx) (rc : BitVec 6) :
    RoundTrip.Statement (.crecv h link tag tdd rc) :=
  roundTrip_cmd rfl rfl (fun h => by simp [candCmd, candCe, pickCmd, ↓encImm_low, CmdFields.link])

theorem RoundTrip.cstep (h : Head) (c : CeClass) (link : LinkId) (tag : BitVec 8) (tdd tdk tds : TdIx) (rc : BitVec 6) :
    RoundTrip.Statement (.cstep h c link tag tdd tdk tds rc) :=
  roundTrip_cmd rfl rfl (fun h => by cases c <;> simp [candCmd, candCe, pickCmd, ↓encImm_low, CmdFields.link, CmdFields.ceClassResv, CmdFields.ceClassOk, CmdFields.ceClass, encCeImm, CeClass.selx])

theorem RoundTrip.carm (h : Head) (c : CeClass) (link : LinkId) (tag : BitVec 8) (tds : TdIx) (rc : BitVec 6) (y : SReg) :
    RoundTrip.Statement (.carm h c link tag tds rc y) :=
  roundTrip_cmd rfl rfl (fun h => by cases c <;> simp [candCmd, candCe, pickCmd, ↓encImm_low, CmdFields.link, CmdFields.ceClassResv, CmdFields.ceClassOk, CmdFields.ceClass, encCeImm, CeClass.selx])

theorem RoundTrip.crcSet (h : Head) (rc : BitVec 6) (x : SReg) (die : DieId) :
    RoundTrip.Statement (.crcSet h rc x die) :=
  roundTrip_cmd rfl rfl (fun h => by simp [candCmd, candCe, pickCmd, ↓encImm_low])

theorem RoundTrip.crcRd (h : Head) (m : MIx) (rc : BitVec 6) (die : DieId) (fleet : Bool) :
    RoundTrip.Statement (.crcRd h m rc die fleet) :=
  roundTrip_cmd rfl rfl (fun w => by
    simp [Instr.wf] at w
    simp [candCmd, candCe, pickCmd, ↓encImm_low]
    exact fun hf => by simpa [hf] using w)

theorem RoundTrip.cslot (h : Head) (link : LinkId) (x : SReg) (first count1 : BitVec 10) (commit : Bool) :
    RoundTrip.Statement (.cslot h link x first count1 commit) :=
  roundTrip_cmd rfl rfl (fun h => by simp [Instr.wf] at h; simp [candCmd, candCe, pickCmd, ↓encImm_low, CmdFields.link, h])

theorem RoundTrip.cef (h : Head) (c : CeClass) (link : LinkId) (tag : BitVec 8) (tds tdr tdw : TdIx) :
    RoundTrip.Statement (.cef h c link tag tds tdr tdw) :=
  roundTrip_cmd rfl rfl (fun h => by cases c <;> simp [candCmd, candCe, pickCmd, ↓encImm_low, CmdFields.link, CmdFields.ceClassResv, CmdFields.ceClassOk, CmdFields.ceClass, encCeImm, CeClass.selx])

theorem RoundTrip.vrun (h : Head) (imm : W32) : RoundTrip.Statement (.vrun h imm) := by
  obtain ⟨w, p, sc⟩ := h
  exact roundTrip_cmd rfl rfl (fun wf => by
    simp [Instr.wf] at wf
    simp [candCmd, candVu, pickCmd, wf])

theorem RoundTrip.vadd (ty : VTy) (rm : RMode) (sat : Bool) (d a b : VReg) (pm : PReg) :
    RoundTrip.Statement (.vadd ty rm sat d a b pm) :=
  roundTrip_vu (mkVa_eq _ _ _ _ _ _ _ _ _) rfl (fun h => by simp [decodeVuCand, decodeVa])

theorem RoundTrip.vsub (ty : VTy) (rm : RMode) (sat : Bool) (d a b : VReg) (pm : PReg) :
    RoundTrip.Statement (.vsub ty rm sat d a b pm) :=
  roundTrip_vu (mkVa_eq _ _ _ _ _ _ _ _ _) rfl (fun h => by simp [decodeVuCand, decodeVa])

theorem RoundTrip.vmul (ty : VTy) (rm : RMode) (sat : Bool) (d a b : VReg) (pm : PReg) :
    RoundTrip.Statement (.vmul ty rm sat d a b pm) :=
  roundTrip_vu (mkVa_eq _ _ _ _ _ _ _ _ _) rfl (fun h => by simp [decodeVuCand, decodeVa])

theorem RoundTrip.vfma (ty : VTy) (rm : RMode) (sat : Bool) (d a b c : VReg) (pm : PReg) :
    RoundTrip.Statement (.vfma ty rm sat d a b c pm) :=
  roundTrip_vu (mkVa_eq _ _ _ _ _ _ _ _ _) rfl (fun h => by simp [decodeVuCand, decodeVa])

theorem RoundTrip.vmin (ty : VTy) (d a b : VReg) (pm : PReg) : RoundTrip.Statement (.vmin ty d a b pm) :=
  roundTrip_vu (mkVa_eq _ _ _ _ _ _ _ _ _) rfl (fun h => by simp [decodeVuCand, decodeVa])

theorem RoundTrip.vmax (ty : VTy) (d a b : VReg) (pm : PReg) : RoundTrip.Statement (.vmax ty d a b pm) :=
  roundTrip_vu (mkVa_eq _ _ _ _ _ _ _ _ _) rfl (fun h => by simp [decodeVuCand, decodeVa])

theorem RoundTrip.vand (ty : VTy) (d a b : VReg) (pm : PReg) : RoundTrip.Statement (.vand ty d a b pm) :=
  roundTrip_vu (mkVa_eq _ _ _ _ _ _ _ _ _) rfl (fun h => by simp [decodeVuCand, decodeVa])

theorem RoundTrip.vor (ty : VTy) (d a b : VReg) (pm : PReg) : RoundTrip.Statement (.vor ty d a b pm) :=
  roundTrip_vu (mkVa_eq _ _ _ _ _ _ _ _ _) rfl (fun h => by simp [decodeVuCand, decodeVa])

theorem RoundTrip.vxor (ty : VTy) (d a b : VReg) (pm : PReg) : RoundTrip.Statement (.vxor ty d a b pm) :=
  roundTrip_vu (mkVa_eq _ _ _ _ _ _ _ _ _) rfl (fun h => by simp [decodeVuCand, decodeVa])

theorem RoundTrip.vshl (ty : VTy) (d a b : VReg) (pm : PReg) : RoundTrip.Statement (.vshl ty d a b pm) :=
  roundTrip_vu (mkVa_eq _ _ _ _ _ _ _ _ _) rfl (fun h => by simp [decodeVuCand, decodeVa])

theorem RoundTrip.vshr (ty : VTy) (d a b : VReg) (pm : PReg) : RoundTrip.Statement (.vshr ty d a b pm) :=
  roundTrip_vu (mkVa_eq _ _ _ _ _ _ _ _ _) rfl (fun h => by simp [decodeVuCand, decodeVa])

theorem RoundTrip.vsra (ty : VTy) (d a b : VReg) (pm : PReg) : RoundTrip.Statement (.vsra ty d a b pm) :=
  roundTrip_vu (mkVa_eq _ _ _ _ _ _ _ _ _) rfl (fun h => by simp [decodeVuCand, decodeVa])

theorem RoundTrip.vcmpEq (ty : VTy) (d : PReg) (a b : VReg) (pm : PReg) : RoundTrip.Statement (.vcmpEq ty d a b pm) :=
  roundTrip_vu (mkVa_eq _ _ _ _ _ _ _ _ _) rfl (fun h => by simp [decodeVuCand, decodeVa])

theorem RoundTrip.vcmpLt (ty : VTy) (d : PReg) (a b : VReg) (pm : PReg) : RoundTrip.Statement (.vcmpLt ty d a b pm) :=
  roundTrip_vu (mkVa_eq _ _ _ _ _ _ _ _ _) rfl (fun h => by simp [decodeVuCand, decodeVa])

theorem RoundTrip.vcmpLe (ty : VTy) (d : PReg) (a b : VReg) (pm : PReg) : RoundTrip.Statement (.vcmpLe ty d a b pm) :=
  roundTrip_vu (mkVa_eq _ _ _ _ _ _ _ _ _) rfl (fun h => by simp [decodeVuCand, decodeVa])

theorem RoundTrip.vsel (ty : VTy) (d a b : VReg) (pc pm : PReg) : RoundTrip.Statement (.vsel ty d a b pc pm) :=
  roundTrip_vu (mkVa_eq _ _ _ _ _ _ _ _ _) rfl (fun h => by simp [decodeVuCand, decodeVa])

theorem RoundTrip.vcvt (ty src : VTy) (rm : RMode) (sat : Bool) (d a : VReg) (pm : PReg) :
    RoundTrip.Statement (.vcvt ty src rm sat d a pm) :=
  roundTrip_vu (mkVa_eq _ _ _ _ _ _ _ _ _) rfl (fun h => by simp [decodeVuCand, decodeVa])

theorem RoundTrip.vpack (ty : VTy) (rm : RMode) (sat : Bool) (d a b : VReg) (pm : PReg) :
    RoundTrip.Statement (.vpack ty rm sat d a b pm) :=
  roundTrip_vu (mkVa_eq _ _ _ _ _ _ _ _ _) rfl (fun h => by simp [decodeVuCand, decodeVa])

theorem RoundTrip.vperm (ty : VTy) (d a b : VReg) (pm : PReg) : RoundTrip.Statement (.vperm ty d a b pm) :=
  roundTrip_vu (mkVa_eq _ _ _ _ _ _ _ _ _) rfl (fun h => by simp [decodeVuCand, decodeVa])

theorem RoundTrip.vredSum (ty : VTy) (rm : RMode) (d a : VReg) (pm : PReg) :
    RoundTrip.Statement (.vredSum ty rm d a pm) :=
  roundTrip_vu (mkVa_eq _ _ _ _ _ _ _ _ _) rfl (fun h => by simp [decodeVuCand, decodeVa])

theorem RoundTrip.vredMax (ty : VTy) (d a : VReg) (pm : PReg) : RoundTrip.Statement (.vredMax ty d a pm) :=
  roundTrip_vu (mkVa_eq _ _ _ _ _ _ _ _ _) rfl (fun h => by simp [decodeVuCand, decodeVa])

theorem RoundTrip.vredMin (ty : VTy) (d a : VReg) (pm : PReg) : RoundTrip.Statement (.vredMin ty d a pm) :=
  roundTrip_vu (mkVa_eq _ _ _ _ _ _ _ _ _) rfl (fun h => by simp [decodeVuCand, decodeVa])

theorem RoundTrip.vbcast (ty : VTy) (d : VReg) (pm : PReg) (imm : W32) : RoundTrip.Statement (.vbcast ty d pm imm) :=
  roundTrip_vu (mkVi_eq _ _ _ _ _ _) rfl (fun h => by simp [decodeVuCand, decodeVi])

theorem RoundTrip.vslideUp (ty : VTy) (d a : VReg) (pm : PReg) (n : W32) :
    RoundTrip.Statement (.vslideUp ty d a pm n) :=
  roundTrip_vu (mkVi_eq _ _ _ _ _ _) rfl (fun h => by simp [decodeVuCand, decodeVi])

theorem RoundTrip.vslideDn (ty : VTy) (d a : VReg) (pm : PReg) (n : W32) :
    RoundTrip.Statement (.vslideDn ty d a pm n) :=
  roundTrip_vu (mkVi_eq _ _ _ _ _ _) rfl (fun h => by simp [decodeVuCand, decodeVi])

theorem RoundTrip.vld (conv : Conv) (v : VReg) (kb pm : PReg) (off : W32) :
    RoundTrip.Statement (.vld conv v kb pm off) :=
  roundTrip_vu (mkVm_eq _ _ _ _ _ _) rfl (fun h => by simp [decodeVuCand, decodeVm])

theorem RoundTrip.vst (conv : Conv) (v : VReg) (kb pm : PReg) (off : W32) :
    RoundTrip.Statement (.vst conv v kb pm off) :=
  roundTrip_vu (mkVm_eq _ _ _ _ _ _) rfl (fun h => by simp [decodeVuCand, decodeVm])

theorem RoundTrip.vqmark : RoundTrip.Statement (.vqmark) :=
  roundTrip_vu (mkVm_eq _ _ _ _ _ _) rfl (fun h => by simp [decodeVuCand, decodeVm])

theorem RoundTrip.vloop (src : VSrc) (dist count : BitVec 16) : RoundTrip.Statement (.vloop src dist count) := by
  cases src <;> exact roundTrip_vu (mkVl_eq _ _ _ _ _ _ _) rfl (fun h => by
    simp [Instr.wf, immOk] at h; simp [decodeVuCand, decodeVl, VSrc.ofFields, h])

theorem RoundTrip.vend : RoundTrip.Statement (.vend) :=
  roundTrip_vu (mkVl_eq _ _ _ _ _ _ _) rfl (fun h => by simp [decodeVuCand, decodeVl, VSrc.ofFields])

theorem RoundTrip.vflip : RoundTrip.Statement (.vflip) :=
  roundTrip_vu (mkVl_eq _ _ _ _ _ _ _) rfl (fun h => by simp [decodeVuCand, decodeVl, VSrc.ofFields])

theorem RoundTrip.kli (d : PReg) (imm : W32) : RoundTrip.Statement (.kli d imm) :=
  roundTrip_vu (mkVl_eq _ _ _ _ _ _ _) rfl (fun h => by simp [decodeVuCand, decodeVl, VSrc.ofFields])

theorem RoundTrip.kadd (d a : PReg) (src : VSrc) (n : BitVec 6) (imm : BitVec 24) :
    RoundTrip.Statement (.kadd d a src n imm) := by
  cases src <;> exact roundTrip_vu (mkVl_eq _ _ _ _ _ _ _) rfl (fun h => by
    simp [Instr.wf, immOk] at h; simp [decodeVuCand, decodeVl, VSrc.ofFields, h])

theorem RoundTrip.kld (d a : PReg) (off : W32) : RoundTrip.Statement (.kld d a off) :=
  roundTrip_vu (mkVl_eq _ _ _ _ _ _ _) rfl (fun h => by simp [decodeVuCand, decodeVl, VSrc.ofFields])

theorem RoundTrip.kmov (d : PReg) (src : VSrc) : RoundTrip.Statement (.kmov d src) := by
  cases src with
  | imm => exact fun h => by simp [Instr.wf] at h
  | k r => exact roundTrip_vu (mkVl_eq _ _ _ _ _ _ _) rfl (fun h => by simp [decodeVuCand, decodeVl, VSrc.ofFields])
  | m i => exact roundTrip_vu (mkVl_eq _ _ _ _ _ _ _) rfl (fun h => by simp [decodeVuCand, decodeVl, VSrc.ofFields])

theorem RoundTrip.plen (d : PReg) (src : VSrc) (imm : W32) : RoundTrip.Statement (.plen d src imm) := by
  cases src <;> exact roundTrip_vu (mkVl_eq _ _ _ _ _ _ _) rfl (fun h => by
    simp [Instr.wf, immOk] at h; simp [decodeVuCand, decodeVl, VSrc.ofFields, h])

theorem RoundTrip.plenS (d : PReg) (src : VSrc) (imm : W32) : RoundTrip.Statement (.plenS d src imm) := by
  cases src <;> exact roundTrip_vu (mkVl_eq _ _ _ _ _ _ _) rfl (fun h => by
    simp [Instr.wf, immOk] at h; simp [decodeVuCand, decodeVl, VSrc.ofFields, h])

theorem RoundTrip.pand (d a b : PReg) : RoundTrip.Statement (.pand d a b) :=
  roundTrip_vu (mkVl_eq _ _ _ _ _ _ _) rfl (fun h => by simp [decodeVuCand, decodeVl, VSrc.ofFields])

theorem RoundTrip.por (d a b : PReg) : RoundTrip.Statement (.por d a b) :=
  roundTrip_vu (mkVl_eq _ _ _ _ _ _ _) rfl (fun h => by simp [decodeVuCand, decodeVl, VSrc.ofFields])

theorem RoundTrip.pnot (d a : PReg) : RoundTrip.Statement (.pnot d a) :=
  roundTrip_vu (mkVl_eq _ _ _ _ _ _ _) rfl (fun h => by simp [decodeVuCand, decodeVl, VSrc.ofFields])

theorem RoundTrip.vnop : RoundTrip.Statement (.vnop) :=
  roundTrip_vu (mkVl_eq _ _ _ _ _ _ _) rfl (fun h => by simp [decodeVuCand, decodeVl, VSrc.ofFields])

theorem RoundTrip.vtip (d a : VReg) (tbl pm : PReg) : RoundTrip.Statement (.vtip d a tbl pm) :=
  roundTrip_vu (mkVx_eq _ _ _ _ _ _ _) rfl (fun h => by simp [decodeVuCand, decodeVx])

theorem RoundTrip.vtipX (d a : VReg) (tbl pm : PReg) : RoundTrip.Statement (.vtipX d a tbl pm) :=
  roundTrip_vu (mkVx_eq _ _ _ _ _ _ _) rfl (fun h => by simp [decodeVuCand, decodeVx])

theorem RoundTrip.vupd (d a b : VReg) (kc pm : PReg) : RoundTrip.Statement (.vupd d a b kc pm) :=
  roundTrip_vu (mkVx_eq _ _ _ _ _ _ _) rfl (fun h => by simp [decodeVuCand, decodeVx])

theorem RoundTrip.vldx (conv : Conv) (v a : VReg) (kc pm : PReg) : RoundTrip.Statement (.vldx conv v a kc pm) := by
  cases conv <;> exact roundTrip_vu (mkVx_eq _ _ _ _ _ _ _) rfl (fun h => by
    simp [decodeVuCand, decodeVx, encElem, Conv.code, Conv.ofCode])

theorem RoundTrip.vstx (conv : Conv) (v a : VReg) (kc pm : PReg) : RoundTrip.Statement (.vstx conv v a kc pm) := by
  cases conv <;> exact roundTrip_vu (mkVx_eq _ _ _ _ _ _ _) rfl (fun h => by
    simp [decodeVuCand, decodeVx, encElem, Conv.code, Conv.ofCode])

theorem RoundTrip.debugHaltRequest (p : PortId) (t : TileId) (on : Bool) :
    RoundTrip.Statement (.debugHaltRequest p t on) :=
  roundTrip_none rfl rfl

theorem RoundTrip.wordEncodingNothing (w : BadWord) : RoundTrip.Statement (.wordEncodingNothing w) :=
  roundTrip_none rfl rfl

theorem RoundTrip.engineAccessLands (t : TileId) (u : Site) (k : Nat) :
    RoundTrip.Statement (.engineAccessLands t u k) :=
  roundTrip_none rfl rfl

theorem RoundTrip.semPostTileLands (k : Nat) : RoundTrip.Statement (.semPostTileLands k) :=
  roundTrip_none rfl rfl

theorem RoundTrip.queuedPush (t : TileId) : RoundTrip.Statement (.queuedPush t) :=
  roundTrip_none rfl rfl

theorem RoundTrip.commandStart (t : TileId) (u : Site) : RoundTrip.Statement (.commandStart t u) :=
  roundTrip_none rfl rfl

theorem RoundTrip.commandCompletion (t : TileId) (u : Site) (k : Nat) :
    RoundTrip.Statement (.commandCompletion t u k) :=
  roundTrip_none rfl rfl

theorem RoundTrip.flipExchange (t : TileId) (d : Dom) : RoundTrip.Statement (.flipExchange t d) :=
  roundTrip_none rfl rfl

theorem RoundTrip.slowWriteLands (t : TileId) : RoundTrip.Statement (.slowWriteLands t) :=
  roundTrip_none rfl rfl

theorem RoundTrip.suLoadLands (t : TileId) (k : Nat) : RoundTrip.Statement (.suLoadLands t k) :=
  roundTrip_none rfl rfl

theorem RoundTrip.suStoreLands (t : TileId) (k : Nat) : RoundTrip.Statement (.suStoreLands t k) :=
  roundTrip_none rfl rfl

theorem RoundTrip.vectorQueueSend (t : TileId) (store : Bool) : RoundTrip.Statement (.vectorQueueSend t store) :=
  roundTrip_none rfl rfl

theorem RoundTrip.vuLoadLands (t : TileId) (k : Nat) : RoundTrip.Statement (.vuLoadLands t k) :=
  roundTrip_none rfl rfl

theorem RoundTrip.vuStoreLands (t : TileId) (k : Nat) : RoundTrip.Statement (.vuStoreLands t k) :=
  roundTrip_none rfl rfl

theorem RoundTrip.mailboxOutsideWrite (t : TileId) (ks : List Nat) : RoundTrip.Statement (.mailboxOutsideWrite t ks) :=
  roundTrip_none rfl rfl

theorem RoundTrip.stashFillComplete (t : TileId) (line : BitVec 14) : RoundTrip.Statement (.stashFillComplete t line) :=
  roundTrip_none rfl rfl

theorem RoundTrip.stashShadowing (t : TileId) (line : BitVec 14) : RoundTrip.Statement (.stashShadowing t line) :=
  roundTrip_none rfl rfl

theorem RoundTrip.granuleShadowCopy (g : Nat) : RoundTrip.Statement (.granuleShadowCopy g) :=
  roundTrip_none rfl rfl

theorem RoundTrip.remoteStashAccess (r : Requester) : RoundTrip.Statement (.remoteStashAccess r) :=
  roundTrip_none rfl rfl

theorem RoundTrip.rmwAtMemoryPoint (t : TileId) (c : Fin 5) (k : Nat) : RoundTrip.Statement (.rmwAtMemoryPoint t c k) :=
  roundTrip_none rfl rfl

theorem RoundTrip.lineMove (line : Nat) : RoundTrip.Statement (.lineMove line) :=
  roundTrip_none rfl rfl

theorem RoundTrip.walkerRecordLoad (t : TileId) (w : Fin 4) : RoundTrip.Statement (.walkerRecordLoad t w) :=
  roundTrip_none rfl rfl

theorem RoundTrip.trapEntry (t : TileId) : RoundTrip.Statement (.trapEntry t) :=
  roundTrip_none rfl rfl

theorem RoundTrip.cePacketLand (l : LinkId) : RoundTrip.Statement (.cePacketLand l) :=
  roundTrip_none rfl rfl

theorem RoundTrip.windowGrant (l : LinkId) (tag : BitVec 8) (g : Granted) (credits : Nat) :
    RoundTrip.Statement (.windowGrant l tag g credits) :=
  roundTrip_none rfl rfl

theorem RoundTrip.linkPacketStart (l : LinkId) : RoundTrip.Statement (.linkPacketStart l) :=
  roundTrip_none rfl rfl

theorem RoundTrip.packetReceive (l : LinkId) (p : Incoming) (crcOk : Bool) :
    RoundTrip.Statement (.packetReceive l p crcOk) :=
  roundTrip_none rfl rfl

theorem RoundTrip.linkReplay (l : LinkId) (seq : Nat) : RoundTrip.Statement (.linkReplay l seq) :=
  roundTrip_none rfl rfl

theorem RoundTrip.linkTrain (l : LinkId) (lanes : BitVec 2) : RoundTrip.Statement (.linkTrain l lanes) :=
  roundTrip_none rfl rfl

theorem RoundTrip.laneFailure (l : LinkId) (eight : Bool) : RoundTrip.Statement (.laneFailure l eight) :=
  roundTrip_none rfl rfl

theorem RoundTrip.fleetTimeExchange (ahead : Bool) (err : W64) : RoundTrip.Statement (.fleetTimeExchange ahead err) :=
  roundTrip_none rfl rfl

theorem RoundTrip.slotTableCommit (l : LinkId) : RoundTrip.Statement (.slotTableCommit l) :=
  roundTrip_none rfl rfl

theorem RoundTrip.dispatchRound (d : DieId) : RoundTrip.Statement (.dispatchRound d) :=
  roundTrip_none rfl rfl

theorem RoundTrip.taskQueuePush (k : Nat) : RoundTrip.Statement (.taskQueuePush k) :=
  roundTrip_none rfl rfl

theorem RoundTrip.poolEnable (p : BitVec 8) : RoundTrip.Statement (.poolEnable p) :=
  roundTrip_none rfl rfl

theorem RoundTrip.memberLaunch (t : TileId) : RoundTrip.Statement (.memberLaunch t) :=
  roundTrip_none rfl rfl

theorem RoundTrip.restore (t : TileId) : RoundTrip.Statement (.restore t) :=
  roundTrip_none rfl rfl

theorem RoundTrip.memberComplete (t : TileId) : RoundTrip.Statement (.memberComplete t) :=
  roundTrip_none rfl rfl

theorem RoundTrip.joinPushRetry (q : BitVec 12) : RoundTrip.Statement (.joinPushRetry q) :=
  roundTrip_none rfl rfl

theorem RoundTrip.tideDispatch (d : DieId) : RoundTrip.Statement (.tideDispatch d) :=
  roundTrip_none rfl rfl

theorem RoundTrip.tideCreditArrival (l : LinkId) (n : BitVec 16) : RoundTrip.Statement (.tideCreditArrival l n) :=
  roundTrip_none rfl rfl

theorem RoundTrip.preempt (t : TileId) : RoundTrip.Statement (.preempt t) :=
  roundTrip_none rfl rfl

theorem RoundTrip.timer (t : TileId) : RoundTrip.Statement (.timer t) :=
  roundTrip_none rfl rfl

theorem RoundTrip.sample (t : TileId) : RoundTrip.Statement (.sample t) :=
  roundTrip_none rfl rfl

theorem RoundTrip.waitaWake (t : TileId) : RoundTrip.Statement (.waitaWake t) :=
  roundTrip_none rfl rfl

theorem RoundTrip.waitaPeriodicReread (t : TileId) : RoundTrip.Statement (.waitaPeriodicReread t) :=
  roundTrip_none rfl rfl

theorem RoundTrip.barWaitSinkRelease (t : TileId) : RoundTrip.Statement (.barWaitSinkRelease t) :=
  roundTrip_none rfl rfl

theorem RoundTrip.clockResume (t : TileId) : RoundTrip.Statement (.clockResume t) :=
  roundTrip_none rfl rfl

theorem RoundTrip.rampVoltageStep (t : TileId) : RoundTrip.Statement (.rampVoltageStep t) :=
  roundTrip_none rfl rfl

theorem RoundTrip.rampSettleEnd (t : TileId) : RoundTrip.Statement (.rampSettleEnd t) :=
  roundTrip_none rfl rfl

theorem RoundTrip.replan (r : Replan) : RoundTrip.Statement (.replan r) :=
  roundTrip_none rfl rfl

theorem RoundTrip.arbiterGrant (d : DieId) : RoundTrip.Statement (.arbiterGrant d) :=
  roundTrip_none rfl rfl

theorem RoundTrip.thermal (stack : Fin 8) (level : BitVec 2) : RoundTrip.Statement (.thermal stack level) :=
  roundTrip_none rfl rfl

theorem RoundTrip.sramScrubPass (fixed : Option ErrSite) : RoundTrip.Statement (.sramScrubPass fixed) :=
  roundTrip_none rfl rfl

theorem RoundTrip.packageReset (tfail : BitVec 128) (imageOk : Bool) :
    RoundTrip.Statement (.packageReset tfail imageOk) :=
  roundTrip_none rfl rfl

theorem RoundTrip.hostPortTrain (p : PortId) (lanes : BitVec 5) : RoundTrip.Statement (.hostPortTrain p lanes) :=
  roundTrip_none rfl rfl

theorem RoundTrip.hostApertureAccess (p : PortId) (a : HostAcc) : RoundTrip.Statement (.hostApertureAccess p a) :=
  roundTrip_none rfl rfl

theorem RoundTrip.hlockRead (p : PortId) (n : BitVec 5) : RoundTrip.Statement (.hlockRead p n) :=
  roundTrip_none rfl rfl

theorem RoundTrip.hlockWrite (p : PortId) (n : BitVec 5) (v : W64) : RoundTrip.Statement (.hlockWrite p n v) :=
  roundTrip_none rfl rfl

theorem RoundTrip.seize (p : PortId) : RoundTrip.Statement (.seize p) :=
  roundTrip_none rfl rfl

theorem RoundTrip.resume (p : PortId) : RoundTrip.Statement (.resume p) :=
  roundTrip_none rfl rfl

theorem RoundTrip.post (p : PortId) : RoundTrip.Statement (.post p) :=
  roundTrip_none rfl rfl

theorem RoundTrip.mail (p : PortId) : RoundTrip.Statement (.mail p) :=
  roundTrip_none rfl rfl

theorem RoundTrip.intr (p : PortId) : RoundTrip.Statement (.intr p) :=
  roundTrip_none rfl rfl

theorem RoundTrip.submit (p : PortId) : RoundTrip.Statement (.submit p) :=
  roundTrip_none rfl rfl

theorem RoundTrip.attest (p : PortId) : RoundTrip.Statement (.attest p) :=
  roundTrip_none rfl rfl

theorem RoundTrip.linkown (p : PortId) : RoundTrip.Statement (.linkown p) :=
  roundTrip_none rfl rfl

theorem RoundTrip.debugModeSet (p : PortId) (t : TileId) (on : Bool) : RoundTrip.Statement (.debugModeSet p t on) :=
  roundTrip_none rfl rfl

theorem RoundTrip.debugRecordSet (p : PortId) (t : TileId) (on : Bool) : RoundTrip.Statement (.debugRecordSet p t on) :=
  roundTrip_none rfl rfl

theorem RoundTrip.debugRegisterWrite (p : PortId) (t : TileId) (r : DbgReg) (hidden : Bool) (v : W4096) :
    RoundTrip.Statement (.debugRegisterWrite p t r hidden v) :=
  roundTrip_none rfl rfl

theorem RoundTrip.debugStop (p : PortId) (t : TileId) (n : W64) : RoundTrip.Statement (.debugStop p t n) :=
  roundTrip_none rfl rfl

theorem RoundTrip.debugReverseStep (p : PortId) (t : TileId) : RoundTrip.Statement (.debugReverseStep p t) :=
  roundTrip_none rfl rfl

theorem RoundTrip.debugForwardStep (p : PortId) (t : TileId) : RoundTrip.Statement (.debugForwardStep p t) :=
  roundTrip_none rfl rfl

theorem RoundTrip.proofTake (t : TileId) : RoundTrip.Statement (.proofTake t) :=
  roundTrip_none rfl rfl

theorem RoundTrip.registerWrite (p : PortId) (r : RegTarget) (v : W64) : RoundTrip.Statement (.registerWrite p r v) :=
  roundTrip_none rfl rfl

theorem RoundTrip.rotationQuantum : RoundTrip.Statement (.rotationQuantum) :=
  roundTrip_none rfl rfl

theorem RoundTrip.seizeAccessRecord : RoundTrip.Statement (.seizeAccessRecord) :=
  roundTrip_none rfl rfl

theorem RoundTrip.seizeWrite : RoundTrip.Statement (.seizeWrite) :=
  roundTrip_none rfl rfl

theorem RoundTrip.seizeDone : RoundTrip.Statement (.seizeDone) :=
  roundTrip_none rfl rfl

theorem RoundTrip.lossOfPower : RoundTrip.Statement (.lossOfPower) :=
  roundTrip_none rfl rfl

theorem RoundTrip.uncorrectedError (e : ErrSite) : RoundTrip.Statement (.uncorrectedError e) :=
  roundTrip_none rfl rfl

end Sys2Proof.Laws
end

