-- ==== Sys2Proof/Tests/Slice0.lean ====
section
/-! SUPPORT. Tests: ill-formed terms refused, words of the spec decoded, states that meet the hypotheses of the statements, and
single steps whose results come from the spec's examples and tables. -/

set_option Elab.async false

namespace Sys2Proof.Tests
open Sys2Proof Sys2Proof.Machine

/-! ### States and lists of words -/

/-- Steering instructions, each with its words, are what the decoder reads. -/
def readsSu (l : List (List Nat × Instr)) : Bool :=
  l.all (fun e => match e.1 with
    | [] => false
    | w :: ws => decodeSuWords (BitVec.ofNat 32 w) (ws.map (BitVec.ofNat 32)) == .ok e.2 (4 * e.1.length))

/-- Vector words are what the decoder reads. -/
def readsVu (l : List (Nat × Instr)) : Bool := l.all (fun e => decodeVu (BitVec.ofNat 64 e.1) == some e.2)

/-- Tile 0 is current and runs a member. -/
def on (f : Member → Member) : State := State.reset.modTile 0 (fun x => { x with st := .running, m := f x.m })

/-- The same over memory in which the pages of ASID 0 map 512 MiB to equal physical addresses, the next 512 MiB from 0x20000000 to a
reserved region, and the next to the top of DRAM, with every permission (R95, R96). -/
def mapped (f : Member → Member) : State :=
  { on f with mem := [(0x10000, 1#8), (0x10002, 2#8), (0x20000, 1#8), (0x20002, 3#8), (0x30000, 0x1F#8), (0x30008, 0x1F#8), (0x3000C, 0x80#8),
      (0x30010, 0x1F#8), (0x30013, 0xE0#8), (0x30014, 0x7F#8)] }

/-- A scalar register's visible value. -/
def sreg (i : Fin 64) (v : W64) (m : Member) : Member := { m with f := { m.f with s := m.f.s.set i.val ⟨v, 0, false⟩ } }

/-- The member is in a handler. -/
def inTrap (m : Member) : Member := { m with su := { m.su with inHandler := true } }

/-- The steering unit's window holds a weight of the current cycle. -/
def busy (w : Nat) (m : Member) : Member := { m with su := { m.su with win := [(m.ctr.cycle, w)] } }

/-! ### Ill-formed terms -/

/-- One ill-formed term for each check of WellFormed (R184, R229, R237, R246, R297, R305, R314, R343). -/
theorem test_illformed_refused : ([
    .bfx 1 2 8 56, .bfxs 1 2 63 1, .bfi 1 2 1 63, .semPostTile 1 191 1, .tideGo 1 (some 191), .cpMc ⟨none, none, .tile⟩ 1 2 3 0,
    .crcRd ⟨none, none, .tile⟩ 1 1 0 true, .cslot ⟨none, none, .tile⟩ 1 2 1000 24 false, .vrun ⟨none, none, .package⟩ 1,
    .vadd .i32 .rz false 1 2 3 1, .vsub .u16 .sr false 1 2 3 1, .vmul .i16 .ru false 1 2 3 1, .vfma .i32 .rne false 1 2 3 4 1,
    .vand .f32 1 2 3 1, .vor .bf16 1 2 3 1, .vxor .f16 1 2 3 1, .vshl .f32 1 2 3 1, .vshr .f32 1 2 3 1, .vsra .f32 1 2 3 1,
    .vcvt .f32 .f32 .rne false 1 2 1, .vcvt .i32 .i16 .rz false 1 2 1, .vpack .f32 .rne false 1 2 3 1, .vpack .i16 .rz false 1 2 3 1,
    .vredSum .f32 .sr 1 2 1, .vredSum .i32 .rz 1 2 1, .vbcast .bf16 1 1 65536, .vslideUp .f32 1 2 1 128, .vslideDn .bf16 1 2 1 256,
    .vloop (.k 1) 8 1, .kadd 1 2 (.m 1) 0 1, .kmov 1 .imm, .plen 1 (.k 1) 1, .plenS 1 (.m 1) 1
    ] : List Instr).all (fun i => !i.wf) = true := by decide

/-- Terms at the edge of the same checks are well-formed. -/
theorem test_wellformed_accepted : ([
    .bfx 1 2 8 55, .bfxs 1 2 63 0, .bfi 1 2 0 63, .semPostTile 1 192 1, .tideGo 1 (some 192), .cslot ⟨none, none, .tile⟩ 1 2 1000 23 false,
    .vadd .f32 .sr true 1 2 3 1, .vcvt .f32 .i32 .sr false 1 2 1, .vpack .u16 .rne true 1 2 3 1, .vredSum .f32 .rd 1 2 1,
    .vbcast .bf16 1 1 65535, .vslideUp .f32 1 2 1 127, .vloop .imm 8 1, .kmov 1 (.k 0), .plenS 1 .imm 256
    ] : List Instr).all (fun i => i.wf) = true := by decide

/-- Words outside the encodings are refused: two bits of length at 11, a reserved field, a field past bit 63, an unassigned control
register, TYPE 7, and a command whose wait fields stand without WE (R54, R60, R68, R184, R229). -/
theorem test_words_refused : (decodeSuWords 0xC0000000 [] == .noWord && decodeSuWords 0x020C4045 [] == .noWord
    && decodeSuWords 0x111C6238 [] == .noWord && decodeSuWords 0x03207001 [] == .noWord && decodeVu 0x0062084078000000 == none
    && decodeSuWords 0x90001000 [0x00000400, 0, 0] == .badCmd 3) = true := by decide

/-! ### Words of the spec's encodings -/

/-- Source: the arithmetic words (R60, R180). -/
theorem test_decode_alu_1 : readsSu [
    ([0x010C4140], .add 3 4 5),
    ([0x010C4141], .sub 3 4 5),
    ([0x010C4142], .mul 3 4 5),
    ([0x010C4143], .mulh 3 4 5),
    ([0x010C4144], .mulhu 3 4 5),
    ([0x010C4145], .div 3 4 5),
    ([0x010C4146], .divu 3 4 5),
    ([0x010C4147], .rem 3 4 5),
    ([0x010C4148], .remu 3 4 5),
    ([0x010C4149], .and 3 4 5),
    ([0x010C414A], .or 3 4 5),
    ([0x010C414B], .xor 3 4 5)] = true := by decide

/-- Source: the arithmetic words (R60, R180). -/
theorem test_decode_alu_2 : readsSu [
    ([0x010C414C], .andn 3 4 5),
    ([0x010C414D], .shl 3 4 5),
    ([0x010C414E], .shr 3 4 5),
    ([0x010C414F], .sra 3 4 5),
    ([0x010C4150], .min 3 4 5),
    ([0x010C4151], .max 3 4 5),
    ([0x010C4152], .minu 3 4 5),
    ([0x010C4153], .maxu 3 4 5)] = true := by decide

/-- Source: the compare words (R60, R182). -/
theorem test_decode_cmp : readsSu [
    ([0x02FC1800], .seq 63 1 32),
    ([0x02FC1801], .sne 63 1 32),
    ([0x02FC1802], .slt 63 1 32),
    ([0x02FC1803], .sltu 63 1 32),
    ([0x02FC1804], .sel 63 1 32),
    ([0x020C4005], .clz 3 4),
    ([0x020C4006], .ctz 3 4),
    ([0x020C4007], .popc 3 4)] = true := by decide

/-- Source: the system and synchronization words (R58 to R60). -/
theorem test_decode_sys_1 : readsSu [
    ([0x03143000], .mov 5 3),
    ([0x03226001], .ctlRd 8 .srseed),
    ([0x03803002], .ctlWr .asid 3),
    ([0x0324D003], .probe 9 .pseq),
    ([0x03000004], .flip),
    ([0x03000005], .nop),
    ([0x03000006], .retire),
    ([0x03000007], .eret),
    ([0x03040007], .eretAbort),
    ([0x03000008], .pwrRel),
    ([0x0300000B], .tlbiAll),
    ([0x04000000], .fenceT)] = true := by decide

/-- Source: the system and synchronization words (R58 to R60). -/
theorem test_decode_sys_2 : readsSu [
    ([0x04000001], .fenceQ),
    ([0x04000002], .fenceD),
    ([0x04000003], .fenceP),
    ([0x04000004], .fenceS),
    ([0x15000000], .gearLo),
    ([0x15000001], .gearHi),
    ([0x03007009], .jr 7),
    ([0x03FC700A], .callr 63 7),
    ([0x0304600B], .tlbiAsid 6),
    ([0x030861CB], .tlbiVa 6 7),
    ([0x040061C5], .barInit 6 7),
    ([0x040061C6], .barWait 6 7)] = true := by decide

/-- Source: the system and synchronization words (R58 to R60). -/
theorem test_decode_sys_3 : readsSu [
    ([0x040061C7], .barWaitSink 6 7),
    ([0x041461C8], .waita 5 6 7),
    ([0x1400082A], .trap 0x82A),
    ([0x16000005], .pwrAcq 5),
    ([0x17146808], .pwrReq 5 6 true 8)] = true := by decide

/-- Source: the immediates and bit fields (R59, R183, R184). -/
theorem test_decode_imm : readsSu [
    ([0x080C4FFE], .addi 3 4 0xFFE),
    ([0x090C4FFE], .andi 3 4 0xFFE),
    ([0x0A0C4FFE], .ori 3 4 0xFFE),
    ([0x0B0C4FFE], .xori 3 4 0xFFE),
    ([0x0F0C4FFE], .slti 3 4 0xFFE),
    ([0x100C4FFE], .sltui 3 4 0xFFE),
    ([0x0C0C4028], .shli 3 4 40),
    ([0x0D0C4028], .shri 3 4 40),
    ([0x0E0C4028], .srai 3 4 40),
    ([0x111C6237], .bfx 7 6 8 55),
    ([0x121C6237], .bfxs 7 6 8 55),
    ([0x131C6237], .bfi 7 6 8 55)] = true := by decide

/-- Source: loads, stores, `qdrop` and branches (R59, R187, R209, R310, R320). -/
theorem test_decode_mem_1 : readsSu [
    ([0x180C4801], .ldB 3 4 0x801),
    ([0x190C4801], .ldBu 3 4 0x801),
    ([0x1A0C4801], .ldH 3 4 0x801),
    ([0x1B0C4801], .ldHu 3 4 0x801),
    ([0x1C0C4801], .ldW 3 4 0x801),
    ([0x1D0C4801], .ldWu 3 4 0x801),
    ([0x1E0C4801], .ldD 3 4 0x801),
    ([0x1FA04040], .tdLoad 40 4 0x040),
    ([0x200C4801], .stB 3 4 0x801),
    ([0x210C4801], .stH 3 4 0x801),
    ([0x220C4801], .stW 3 4 0x801),
    ([0x230C4801], .stD 3 4 0x801)] = true := by decide

/-- Source: loads, stores, `qdrop` and branches (R59, R187, R209, R310, R320). -/
theorem test_decode_mem_2 : readsSu [
    ([0x2414600A], .qdrop 5 6 10),
    ([0x28042FFF], .beq 1 2 0xFFF),
    ([0x29042FFF], .bne 1 2 0xFFF),
    ([0x2A042FFF], .blt 1 2 0xFFF),
    ([0x2B042FFF], .bge 1 2 0xFFF),
    ([0x2C042FFF], .bltu 1 2 0xFFF),
    ([0x2D042FFF], .bgeu 1 2 0xFFF)] = true := by decide

/-- Source: the two-word instructions (R61, R185, R311, R314, R343). -/
theorem test_decode_sl_1 : readsSu [
    ([0x40140000, 0x80000001], .li 5 0x80000001),
    ([0x41146000, 0xDEADBEEF], .lhi 5 6 0xDEADBEEF),
    ([0x42FC0000, 0xFFFFFFFF], .jal 63 0xFFFFFFFF),
    ([0x43000000, 0xC8000001], .semPost 200 1),
    ([0x43046000, 0xC8000001], .semPostTile 6 200 1),
    ([0x43000040, 0x0A000000], .semSet 10 0),
    ([0x43140080, 0x07000000], .semRd 5 7),
    ([0x44146000, 0x00000003], .spawn 5 6 3),
    ([0x441C6040, 0x00000000], .publish 7 6),
    ([0x44140080, 0x00000000], .yield 5),
    ([0x440060C0, 0x00000004], .cancel .job 6),
    ([0x440060C0, 0x00000000], .cancelTask 6)] = true := by decide

/-- Source: the two-word instructions (R61, R185, R311, R314, R343). -/
theorem test_decode_sl_2 : readsSu [
    ([0x44140100, 0x00000003], .poolGet 5 3),
    ([0x44006140, 0x00000003], .poolPut 6 3),
    ([0x45004000, 0x00000007], .tideLoad 4 7),
    ([0x45005040, 0xC8800000], .tideGo 5 (some 200)),
    ([0x45180080, 0x00000000], .tideRd 6 false)] = true := by decide

/-- Source: the commands (R62, R63, R136, R137, R211, R250, R297). -/
theorem test_decode_cmd_1 : readsSu [
    ([0x80002001, 0x00000000, 0x00000000, 0x00000005], .mma ⟨none, none, .tile⟩ 2 0 1 true false true),
    ([0x81007FC1, 0xC1400C00, 0x83008000, 0x60000002], .mmaSp ⟨some ⟨5, 3, true⟩, some ⟨6, 1⟩, .package⟩ 7 63 1 false true false),
    ([0x82003240, 0xB23FFC00, 0x00000000, 0x40000000], .wload ⟨some ⟨200, 4095, false⟩, none, .die⟩ 3 9),
    ([0x83003240, 0x00000000, 0xFFFF8000, 0x80000001], .wloadT ⟨none, some ⟨255, 255⟩, .system⟩ 3 9 true),
    ([0x84004000, 0x00000000, 0x00000000, 0x00000000], .aclr ⟨none, none, .tile⟩ 4),
    ([0x85004240, 0xC1400C00, 0x83008000, 0x60000000], .ainit ⟨some ⟨5, 3, true⟩, some ⟨6, 1⟩, .package⟩ 4 9),
    ([0x86004240, 0xB23FFC00, 0x00000000, 0x40000002], .adrain ⟨some ⟨200, 4095, false⟩, none, .die⟩ 4 9 true false),
    ([0x87004240, 0x00000000, 0xFFFF8000, 0x80000001], .adrainMx ⟨none, some ⟨255, 255⟩, .system⟩ 4 9 false true),
    ([0x88000000, 0x00000000, 0x00000000, 0x00000000], .fenceOc ⟨none, none, .tile⟩),
    ([0x90001080, 0xC1400C00, 0x83008000, 0x6000000B], .cp ⟨some ⟨5, 3, true⟩, some ⟨6, 1⟩, .package⟩ 1 2 (some 3)),
    ([0x91001080, 0xB23FFC00, 0x00000000, 0x40000000], .cpAccF32 ⟨some ⟨200, 4095, false⟩, none, .die⟩ 1 2 none),
    ([0x91041080, 0x00000000, 0xFFFF8000, 0x80000000], .cpAccBf16 ⟨none, some ⟨255, 255⟩, .system⟩ 1 2)] = true := by decide

/-- Source: the commands (R62, R63, R136, R137, R211, R250, R297). -/
theorem test_decode_cmd_2 : readsSu [
    ([0x91081080, 0x00000000, 0x00000000, 0x00000000], .cpAccI32 ⟨none, none, .tile⟩ 1 2),
    ([0x92001080, 0xC1400C00, 0x83008E00, 0x60008001], .cpMc ⟨some ⟨5, 3, true⟩, some ⟨6, 1⟩, .package⟩ 1 2 7 0x8001),
    ([0x93001083, 0xB23FFC00, 0x00000000, 0x40000001], .gather ⟨some ⟨200, 4095, false⟩, none, .die⟩ 1 2 3 true),
    ([0x94001083, 0x00000000, 0xFFFF8000, 0x80000000], .scatter ⟨none, some ⟨255, 255⟩, .system⟩ 1 2 3 false),
    ([0x9500824A, 0x00000000, 0x00000000, 0x00000001], .scatterAccF32 ⟨none, none, .tile⟩ 8 9 10 true),
    ([0x9504824A, 0xC1400C00, 0x83008000, 0x60000000], .scatterAccBf16 ⟨some ⟨5, 3, true⟩, some ⟨6, 1⟩, .package⟩ 8 9 10 false),
    ([0x9508824A, 0xB23FFC00, 0x00000000, 0x40000001], .scatterAccI32 ⟨some ⟨200, 4095, false⟩, none, .die⟩ 8 9 10 true),
    ([0x96001000, 0x00000000, 0xFFFF8E00, 0x80000000], .fill ⟨none, some ⟨255, 255⟩, .system⟩ 1 7),
    ([0x97013000, 0x00000000, 0x00000A30, 0x00000000], .atomAdd ⟨none, none, .tile⟩ (some 3) 5 6),
    ([0x970401C0, 0xC1400C00, 0x83008A30, 0x60000000], .atomAddthr ⟨some ⟨5, 3, true⟩, some ⟨6, 1⟩, .package⟩ none 5 6 7),
    ([0x97090000, 0xB23FFC00, 0x00000A30, 0x40000000], .atomSwap ⟨some ⟨200, 4095, false⟩, none, .die⟩ (some 0) 5 6),
    ([0x970D31C0, 0x00000000, 0xFFFF8A30, 0x80000000], .atomCas ⟨none, some ⟨255, 255⟩, .system⟩ (some 3) 5 6 7)] = true := by decide

/-- Source: the commands (R62, R63, R136, R137, R211, R250, R297). -/
theorem test_decode_cmd_3 : readsSu [
    ([0x97100000, 0x00000000, 0x00000A30, 0x00000000], .atomMin ⟨none, none, .tile⟩ none 5 6),
    ([0x9715F000, 0xC1400C00, 0x83008A30, 0x60000000], .atomMax ⟨some ⟨5, 3, true⟩, some ⟨6, 1⟩, .package⟩ (some 15) 5 6),
    ([0x97193000, 0xB23FFC00, 0x00000A00, 0x40000000], .atomArrive ⟨some ⟨200, 4095, false⟩, none, .die⟩ (some 3) 5),
    ([0x98000000, 0x00000000, 0xFFFF8A30, 0x80000000], .note ⟨none, some ⟨255, 255⟩, .system⟩ 5 6),
    ([0x99003000, 0x00000000, 0x00000A00, 0x00000000], .chain ⟨none, none, .tile⟩ 3 5),
    ([0x9A009000, 0xC1400C00, 0x83008000, 0x600007FF], .stashMap ⟨some ⟨5, 3, true⟩, some ⟨6, 1⟩, .package⟩ 9 true 0x3FF),
    ([0x9B009000, 0xB23FFC00, 0x00000000, 0x40000000], .stashUnmap ⟨some ⟨200, 4095, false⟩, none, .die⟩ 9),
    ([0x9C009000, 0x00000000, 0xFFFF8000, 0x80000000], .stashWb ⟨none, some ⟨255, 255⟩, .system⟩ 9),
    ([0x9D001080, 0x00000000, 0x00000E00, 0x00000000], .offload ⟨none, none, .tile⟩ 1 2 7),
    ([0xA0004000, 0xC1400C00, 0x83008E00, 0x6A408000], .csend ⟨some ⟨5, 3, true⟩, some ⟨6, 1⟩, .package⟩ (.off 7) 9 2 4),
    ([0xA1004000, 0xB23FFC00, 0x00000000, 0x42408300], .crecv ⟨some ⟨200, 4095, false⟩, none, .die⟩ 9 2 4 3),
    ([0xA2004146, 0x00000000, 0xFFFF8000, 0x82408307], .cstep ⟨none, some ⟨255, 255⟩, .system⟩ (.sch 7) 9 2 4 5 6 3)] = true := by decide

/-- Source: the commands (R62, R63, R136, R137, R211, R250, R297). -/
theorem test_decode_cmd_4 : readsSu [
    ([0xA3004000, 0x00000000, 0x00000040, 0x12408300], .carm ⟨none, none, .tile⟩ .blk 9 2 4 3 8),
    ([0xA4003000, 0xC1400C00, 0x83008E00, 0x60400000], .crcSet ⟨some ⟨5, 3, true⟩, some ⟨6, 1⟩, .package⟩ 3 7 1),
    ([0xA50150C0, 0xB23FFC00, 0x00000000, 0x40400000], .crcRd ⟨some ⟨200, 4095, false⟩, none, .die⟩ 5 3 1 false),
    ([0xA6000000, 0x00000000, 0xFFFF8E00, 0x82703A7E], .cslot ⟨none, some ⟨255, 255⟩, .system⟩ 9 7 0x207 0x13F true),
    ([0xA7004146, 0x00000000, 0x00000E00, 0x0C7FC000], .cef ⟨none, none, .tile⟩ (.off 7) 17 255 4 5 6),
    ([0xB0000000, 0xC1000400, 0x00000000, 0x00012345], .vrun ⟨some ⟨4, 1, true⟩, none, .tile⟩ 0x12345)] = true := by decide

/-- Source: the vector words (R64 to R66, R229, R237, R239, R241, R243, R246). -/
theorem test_decode_vec_1 : readsVu [
    (0x002208C144800000, .vadd .f32 .sr true 2 1 3 5),
    (0x004208C168800000, .vsub .i16 .rne true 2 1 3 5),
    (0x0062084040000000, .vmul .f32 .rne false 2 1 1 1),
    (0x008208C94B000000, .vfma .bf16 .rd false 2 1 3 4 5),
    (0x00BF08C160000000, .vmin .u32 31 1 3 5),
    (0x00DF08C150000000, .vmax .f16 31 1 3 5),
    (0x00E208C170000000, .vand .u16 2 1 3 5),
    (0x010208C170000000, .vor .u16 2 1 3 5),
    (0x012208C170000000, .vxor .u16 2 1 3 5),
    (0x014208C170000000, .vshl .u16 2 1 3 5),
    (0x016208C170000000, .vshr .u16 2 1 3 5),
    (0x018208C170000000, .vsra .u16 2 1 3 5)] = true := by decide

/-- Source: the vector words (R64 to R66, R229, R237, R239, R241, R243, R246). -/
theorem test_decode_vec_2 : readsVu [
    (0x0202214040000000, .vcmpEq .f32 2 4 5 1),
    (0x0222214040000000, .vcmpLt .f32 2 4 5 1),
    (0x0242214040000000, .vcmpLe .f32 2 4 5 1),
    (0x026208C958000000, .vsel .i32 2 1 3 4 5),
    (0x030208014C000000, .vcvt .bf16 .f32 .sr false 2 1 5),
    (0x032208C14A800000, .vpack .bf16 .ru true 2 1 3 5),
    (0x034208C140000000, .vperm .f32 2 1 3 5),
    (0x0402080141000000, .vredSum .f32 .rz 2 1 5),
    (0x0422080168000000, .vredMax .i16 2 1 5),
    (0x0442080170000000, .vredMin .u16 2 1 5),
    (0x202500003F800000, .vbcast .f32 5 0 0x3F800000),
    (0x20453320000000FF, .vslideUp .bf16 5 6 3 255)] = true := by decide

/-- Source: the vector words (R64 to R66, R229, R237, R239, R241, R243, R246). -/
theorem test_decode_vec_3 : readsVu [
    (0x206533800000007F, .vslideDn .u32 5 6 3 127),
    (0x4021450000000000, .vld .bf16 1 2 1 0),
    (0x405F5E00FFFFFFFC, .vst .f16 31 2 7 0xFFFFFFFC),
    (0x4060000000000000, .vqmark),
    (0x6020100000080000, .vloop (.k 1) 8 0),
    (0x6040000000000000, .vend),
    (0x6060000000000000, .vflip),
    (0x6084080000000003, .kli 1 3),
    (0x60A9080000000100, .kadd 2 2 .imm 0 0x100),
    (0x60CE8000FFFFFFF8, .kld 3 5 0xFFFFFFF8),
    (0x60E8044000000000, .kmov 2 (.m 1)),
    (0x6104300000000000, .plen 1 (.k 3) 0)] = true := by decide

/-- Source: the vector words (R64 to R66, R229, R237, R239, R241, R243, R246). -/
theorem test_decode_vec_4 : readsVu [
    (0x6104880000000100, .plenS 1 .imm 256),
    (0x6125300000000000, .pand 1 2 3),
    (0x6145300000000000, .por 1 2 3),
    (0x617D000000000000, .pnot 7 2),
    (0x6180000000000000, .vnop),
    (0x8022080170000000, .vtip 2 1 6 5),
    (0x8022080370000000, .vtipX 2 1 6 5),
    (0x8043088240000000, .vupd 3 1 2 1 1),
    (0x8062080948000000, .vldx .bf16 2 1 4 5),
    (0x8082080950000000, .vstx .f16 2 1 4 5)] = true := by decide

/-! ### States that meet the hypotheses of the statements, clause by clause -/

theorem test_meets_DecodeOfEncode : (Instr.vrun ⟨none, none, .tile⟩ 0xFFFFFFFF).wf = true
    ∧ (Instr.vrun ⟨none, none, .tile⟩ 0xFFFFFFFF).hasWord = true := by decide

theorem test_meets_UnassignedWordsEncodeNothing : (0xC0000000 : W32).extractLsb' 30 2 = 3 ∧ (0x25000000 : W32).extractLsb' 24 6 = 0x25
    ∧ (0x25000000 : W32).extractLsb' 30 2 = 0 ∧ (0x01000014 : W32).extractLsb' 24 6 = 1 ∧ (0x14 : Nat) ≤ ((0x01000014 : W32).extractLsb' 0 6).toNat
    ∧ (0x46000000 : W32).extractLsb' 30 2 = 1 ∧ (0x45FFF0FF : W32).extractLsb' 24 6 = 5 ∧ 3 ≤ ((0x45FFF0FF : W32).extractLsb' 6 6).toNat
    ∧ (0xA8000000 : W32).extractLsb' 30 2 = 2 ∧ (0xA8000000 : W32).extractLsb' 24 6 = 0x28 ∧ (0x97FFFFFF : W32).extractLsb' 24 6 = 0x17
    ∧ 7 ≤ ((0x97FFFFFF : W32).extractLsb' 18 6).toNat ∧ 5 ≤ ((0xA000000000000000 : W64).extractLsb' 61 3).toNat ∧ (0x001FFFFFFFFFFFFF : W64).extractLsb' 53 8 = 0 := by decide

/-- `add s3, s1, s2` stands at the steering counter of tile 0. -/
def atAdd : State :=
  { on (fun m => { m with code := { m.code with scb := 0, scl := 4, bytes := [(0, 0x80#8), (1, 0x10#8), (2, 0x0C#8), (3, 1#8)] } }) with
    sched := [.su 0] }

theorem test_meets_StepRunsWords_steering :
    let x := atAdd.tile 0
    let m := x.m
    let w := m.suWord m.su.pc
    atAdd.powered = true ∧ atAdd.frozen = false ∧ atAdd.closing = none ∧ m.reissues = false ∧ Instr.actsLast (.add 3 1 2) = false ∧ x.st = .running ∧ x.gated = false ∧ x.dbg.hst = .running ∧ x.dbg.hreq = false
      ∧ x.dbgFirst = false ∧ m.su.ready ≤ m.ctr.cycle
      ∧ m.su.flip = false ∧ m.su.wait = .no ∧ m.rep.preempt = false ∧ (m.nextReport.isNone = true) ∧ m.inSection m.su.pc = true
      ∧ moreWords w = 0 ∧ x.dbg.recording = false ∧ decodeSuWords w [] = .ok (.add 3 1 2) 4 := by decide

/-- `vflip` stands at the vector counter of a running block. -/
def atVflip : State :=
  { on (fun m => { m with
      code := { m.code with vcb := 0, vend := 8, bytes := [(6, 0x60#8), (7, 0x60#8)] }
      vu := { m.vu with cmd := some (m.capture (.vrun ⟨none, none, .tile⟩ 0) ⟨none, none, .tile⟩) } }) with
    sched := [.vu 0] }

theorem test_meets_StepRunsWords_vector :
    let x := atVflip.tile 0
    let m := x.m
    atVflip.powered = true ∧ atVflip.frozen = false ∧ atVflip.closing = none ∧ x.dbg.hreq = false ∧ x.owesProof = false ∧ x.st = .running ∧ x.gated = false ∧ x.dbg.hst = .running ∧ m.vu.ready ≤ m.ctr.cycle ∧ m.vu.flip = false
      ∧ m.vu.vending = false ∧ m.vu.halted.isNone = true ∧ m.vu.cmd.isSome = true ∧ m.code.vcb.toNat ≤ m.vu.vpc.toNat
      ∧ m.vu.vpc.toNat + 8 ≤ m.code.vend ∧ decodeVu (BitVec.ofNat 64 (numAt m.code.bytes m.vu.vpc.toNat 8)) = some .vflip := by decide

theorem test_meets_ScheduleAndPower : State.reset.sched = []
    ∧ ({ State.reset with powered := false, sched := [.su 0] } : State).powered = false ∧ powersUp (.su 0) = false
    ∧ State.reset.closing = none ∧ ({ State.reset with closing := some 0 } : State).closing = some 0
    ∧ ({ State.reset with seize := { State.reset.seize with st := .done } } : State).frozen = true := by decide

theorem test_meets_StepKeepsMemoryForm : atAdd.memOk = true ∧ (match step atAdd with | .next _ => true | _ => false) = true := by decide

theorem test_meets_ByteMaps : Memory.wf (putBytes [] 0xFFFF [1#8, 0#8, 2#8]) := by decide

theorem test_meets_SteeringArithmetic : (on id).issues 1 = true ∧ (on (busy 23)).issues 1 = true := by decide

theorem test_meets_Immediates : (on id).issues 1 = true ∧ (8 : BitVec 6).toNat + ((55 : BitVec 6).toNat + 1) ≤ 64
    ∧ (0x0C0C4068 : W32).extractLsb' 24 8 = 0x0C#8 ∧ (0x0C0C4068 : W32).extractLsb' 6 6 ≠ 0
    ∧ 64 < ((0x111C6238 : W32).extractLsb' 6 6).toNat + (((0x111C6238 : W32).extractLsb' 0 6).toNat + 1) := by decide

theorem test_meets_raisesIllegal :
    let s := on (fun m => { m with code := { m.code with scb := 0, scl := 4, bytes := [(0, 0x45#8), (1, 0x40#8), (2, 0x0C#8), (3, 2#8)] } })
    (s.tile s.cur).beforeWord = true ∧ (s.tile s.cur).m.inSection (s.tile s.cur).m.su.pc = true
      ∧ (s.tile s.cur).m.suWord (s.tile s.cur).m.su.pc = 0x020C4045 := by decide

theorem test_meets_MovesAndProbes : (on inTrap).issues 1 = true ∧ ((on inTrap).tile 0).m.su.inHandler = true
    ∧ ((on (sreg 4 1)).tile 0).grant = none ∧ (((on id).modTile 0 (fun x => { x with grant := some 5 })).tile 0).grant ≠ none
    ∧ ((on id).dies[(dieOfTile 0).val]).tide.st = .idle := by decide

theorem test_meets_RegisterWritesLand : isConst (.s 1) = false
    ∧ ((on (fun m => m.outside 3 7)).tile 0).m.rep.waw = [] ∧ (((on (fun m => m.outside 3 7)).tile 0).m.f.mb[3]).w = true := by decide

theorem test_meets_RegisterWritesLand_mask : (1 : W4096) ≠ 0 ∧ (1 : W4096) &&& fullMask (.s 1) = 1 := by decide +kernel

theorem test_meets_FlipsExchange : isConst (.s 1) = false ∧ (on id).issues 1 = true ∧ (on id).issuesV .vflip = true := by decide

theorem test_meets_BranchesJumpsCalls : (on (sreg 4 0x1000)).issues 1 = true ∧ (((on (sreg 4 0x1000)).tile 0).m.sreg 4).toNat % 4 = 0
    ∧ (((on (sreg 4 0x1002)).tile 0).m.sreg 4).toNat % 4 ≠ 0 := by decide

/-- Stores of 8 bytes wait in the forwarding table. -/
def holding (n : Nat) (tgt : Target) (m : Member) : Member :=
  { m with su := { m.su with stores := (List.range n).map (fun k => ⟨k, 0, 0x8000, 8, 0xFF, tgt, none, false⟩), nextId := n } }

/-- A slow write of a steering register is pending. -/
def undrained (m : Member) : Member := { m with su := { m.su with slow := [⟨0, .s 3, fullMask (.s 3), 0, m.ctr.cycle + 2⟩] } }

theorem test_meets_ExceptionEntry : ((on id).tile 0).m.drained = true ∧ ((on undrained).tile 0).m.drained = false
    ∧ ((on inTrap).tile 0).m.su.inHandler = true ∧ (on inTrap).issues 1 = true ∧ (on inTrap).eretReady 0 = true
    ∧ (on (fun m => inTrap (holding 1 (.pa 0x8000 0) m))).eretReady 0 = false := by decide

theorem test_meets_ReturnFromException : (on inTrap).issues 1 = true ∧ (on inTrap).eretReady 0 = true
    ∧ ((on id).tile 0).m.su.inHandler = false := by decide

theorem test_meets_ControlRegisterPrivilege : (on id).issues 1 = true ∧ ((on id).tile (on id).cur).m.su.inHandler = false := by decide

/-- The vector unit's window holds a weight of the current cycle. -/
def busyV (w : Nat) (m : Member) : Member := { m with su := { m.su with vwin := [(m.ctr.cycle, w)] } }

theorem test_meets_IssueWindow :
    (on (busy 10000)).suOver 0 (suWeight .nop) = true ∧ (on (busyV 10000)).issuesV .vnop = false
      ∧ (∃ ws, encode .nop = .su ws) ∧ (∃ w, encode .vnop = .vu w) :=
  ⟨by decide, by decide, ⟨_, rfl⟩, ⟨_, rfl⟩⟩

theorem test_meets_ScalarWriteFrame : scalarDest (.add 3 1 2) = some 3 ∧ (on id).issues 1 = true
    ∧ (match exec (.add 3 1 2) (on id) with | .next _ => true | _ => false) = true := by decide

/-- A command captured from a member. -/
def cmdOf (m : Member) (i : Instr) : Cmd := m.capture i ⟨none, none, .tile⟩

/-- The page at 0 is in the tile's own stash, and its first line is READY. -/
def ownPage (m : Member) : Member :=
  { m with stash := { m.stash with map := m.stash.map.set 0 ⟨0, .live, false, 0, 0, 0, [0x300000], 0⟩, lines := [(0, ⟨.ready, false, false, 0⟩)] } }

/-- A load of one byte is in flight to `s3`. -/
def loading (a : Nat) (m : Member) : Member :=
  { m with su := { m.su with loads := [⟨0, .s 3, true, BitVec.ofNat 64 a, 1, .signed, [none], .pa a 0, none, none⟩], nextId := 1 } }

/-- An access found a target with a property. -/
def finds (x : Except Report Target) (p : Target → Bool) : Bool := match x with | .ok t => p t | .error _ => false

/-- A word was read. -/
def reads (x : WordRead) (p : W64 → Bool) : Bool := match x with | .val v => p v | _ => false

theorem test_meets_RetireAndAbort :
    let s := on (fun m => { m with q := ⟨List.replicate 15 (cmdOf m .nop), List.replicate 31 (cmdOf m .nop), List.replicate 7 (cmdOf m .nop),
      List.replicate 7 (cmdOf m .nop)⟩ })
    let m := (s.tile s.cur).m
    s.issues 1 = true ∧ m.su.inHandler = false ∧ m.q.mu.length < 16 ∧ m.q.cu.length < 32 ∧ m.q.vu.length < 8 ∧ m.q.ce.length < 8
      ∧ (on inTrap).issues 1 = true ∧ (on inTrap).eretReady 0 = true := by decide +kernel

/-- Tile 0 holds class 5, with `GEAR` at a value. -/
def geared (v : W64) : State :=
  (on (fun m => { m with f := { m.f with ctl := m.f.ctl.set Ctl.gear.index.val ⟨v, 0, false⟩ } })).modTile 0 (fun x => { x with grant := some 5 })

theorem test_meets_GearsAndGrants :
    (on (sreg 4 (2 ^ 63))).issues 1 = true ∧ ((on id).tile 0).grant = none ∧ ((geared 0).tile 0).grant ≠ none ∧ (geared 1).issues 1 = true
      ∧ (((geared 1).tile 0).m.f.ctl[Ctl.gear.index.val]).vis.getLsbD 0 = true
      ∧ (((geared 0).tile 0).m.f.ctl[Ctl.gear.index.val]).vis.getLsbD 0 = false
      ∧ (((geared 0).tile 0).m.f.ctl[Ctl.gear.index.val]).w = false
      ∧ (((on (sreg 4 (2 ^ 63))).tile 0).m.sreg 4).toInt < 0 ∧ 0 ≤ (((on (sreg 4 13)).tile 0).m.sreg 4).toInt := by decide +kernel

theorem test_meets_FencesAndInvalidation :
    let s := on (fun m => inTrap (holding 1 (.pa 0x8000 0) m))
    let marks : State → List Nat := fun s => s.tiles.toList.map (fun x => x.m.su.nextId)
    (tlbiKeeps (s.tile 0).m (.tlbiVa 4 5)).isSome = true ∧ s.issues 1 = true ∧ s.reached (marks s) = false
      ∧ (on inTrap).reached (marks (on inTrap)) = true ∧ ((on id).tile 0).m.su.inHandler = false
      ∧ fenceForm .fenceD = some .die ∧ fenceForm .fenceP = some .package ∧ (s.tile 0).m.su.loads = []
      ∧ scopeRank .die < scopeRank (s.scopeOf 0 (.pa 0x8000 0)) ∧ ¬ scopeRank .package < scopeRank (s.scopeOf 0 (.pa 0x8000 0)) := by decide +kernel

theorem test_meets_AccessChecks :
    let s := mapped ownPage
    let m := (s.tile 0).m
    let pa : Trans → Bool := fun x => match x with | .pa _ _ => true | .bad _ | .range => false
    let tr := fun (x : State) (va : W64) => (x.translate 0 .su 0 va .read false).2
    (0x1001 : W64).toNat % 8 ≠ 0 ∧ m.stash.route m.asid 0xFF8 = some 0xFF8 ∧ m.stash.route m.asid 0x1000 = none
      ∧ pa (tr (on id) 0x1000) = false ∧ pa (tr s 0x1000) = true ∧ (match tr s 0x5FFFFFF8 with | .pa a _ => a == 0x7FFFFFFFF8 | .bad _ | .range => false) = true
      ∧ (match tr s 0x20000000 with | .pa a _ => regionOf a == .reserved | .bad _ | .range => false) = true
      ∧ leafShelf 0x1000000001F 16 = true ∧ leafShelf 0x1F 16 = false ∧ regionOf 0x7FFFFFFFF8 = .dram
      ∧ regionOf 0x8000000000 = .reserved ∧ (0x3F : W64).getLsbD 5 = true ∧ (0x1B : W64).getLsbD 2 = false
      ∧ (0x1F : W64).getLsbD 5 = false ∧ fld (0x80000000000000 : W64) 55 9 ≠ 0 := by decide +kernel

theorem test_meets_LoadsAndStoresIssue :
    let s := on (fun m => sreg 4 0xFF8 (ownPage m))
    let t := on (fun m => sreg 4 0xFF8 (ownPage (holding 15 (.own 0) m)))
    loadForm (s.tile 0).m (.ldD 3 4 0) = some ((s.tile 0).m.sref 3, 4, 0, 8, .unsigned) ∧ s.issues 1 = true
      ∧ finds (s.suCheck 0 0xFF8 8 .read).2 (fun _ => true) = true
      ∧ (s.tile 0).m.pendWord (s.tile 0).dbg.dm (.own 0xFF8) [none] = none
      ∧ storeForm (.stD 3 4 0) = some (3, 4, 0, 8) ∧ t.issues 1 = true ∧ (t.tile 0).m.su.stores.length < 16
      ∧ finds (t.suCheck 0 0xFF8 8 .write).2 (fun _ => true) = true
      ∧ 16 ≤ ((on (holding 16 (.own 0))).tile 0).m.su.stores.length := by decide +kernel

theorem test_meets_FailedAccessTraps :
    let s := on (sreg 4 0x1001)
    s.issues 1 = true ∧ (loadForm (s.tile 0).m (.ldD 3 4 0)).isSome = true ∧ (storeForm (.stD 3 4 0)).isSome = true
      ∧ finds (s.suCheck 0 0x1001 8 .read).2 (fun _ => true) = false ∧ finds (s.suCheck 0 0x1001 8 .write).2 (fun _ => true) = false := by
  decide +kernel

theorem test_meets_LoadsAndStoresLand :
    let own := on (fun m => ownPage (holding 1 (.own 0xF8) m))
    let far := mapped (holding 1 (.pa 0x7FFFFFFFF8 0))
    let bar : State := { far with ms := { far.ms with bars := [(0x7FFFFFFFF0, 4)] } }
    let m := (own.tile 0).m
    let ld := mapped (loading 0x7FFFFFFFFF)
    own.homeOf 0 (.own 0xF8) = .own 0xF8 ∧ ((ld.tile 0).m.su.loads[0]?).all (fun x => !ld.loadBlocked 0 x && x.got.isNone) = true
      ∧ (m.su.stores[0]?.map (fun x => x.due)) = some none ∧ ((m.su.stores[0]?).all (fun x => !own.storeBlocked 0 x)) = true ∧ ((far.tile 0).m.su.stores[0]?).all (fun x => !far.storeBlocked 0 x) = true
      ∧ (m.stash.line (0xF8 / 256)).fill = .ready ∧ far.memOk = true ∧ regionOf 0x7FFFFFFFF8 = .dram ∧ far.ownerOf 0x7FFFFFFFF8 = none
      ∧ far.inBarrier 0x7FFFFFFFF8 = false ∧ far.ceilHolds 0x7FFFFFFFF8 = false ∧ bar.inBarrier 0x7FFFFFFFF8 = true
      ∧ ((ld.tile 0).m.su.loads[0]?.map (fun x => x.port)) = some none ∧ ld.poisoned 0x7FFFFFFFFF 1 = false
      ∧ ({ ld with ms := { ld.ms with poison := [0x1FFFFFFFF] } } : State).poisoned 0x7FFFFFFFFF 1 = true ∧ isConst (.s 3) = false := by decide +kernel

/-- The steering unit waits on the first word of its own page. -/
def waiting (w : SuWait) (m : Member) : Member := { ownPage m with su := { m.su with wait := w } }

theorem test_meets_WaitaWaitsForItsWord :
    let s := on (fun m => sreg 4 0 (sreg 5 1 (ownPage m)))
    let w := on (waiting (.waita 3 1 0 (.own 0) true))
    let p := mapped (fun m => { m with su := { m.su with wait := .waita 3 0 0x8000 (.pa 0x8000 1) false } })
    s.issues 1 = true ∧ finds (s.suCheck 0 0 8 .read).2 (fun g => g == .own 0) = true
      ∧ reads ((s.suCheck 0 0 8 .read).1.readWord 0 (.own 0) 0).2 (fun x => x == 0) = true
      ∧ (0 : W64).toInt ≤ (0 : W64).toInt ∧ (0 : W64).toInt < (1 : W64).toInt ∧ s.watched (.own 0) = true
      ∧ (w.tile 0).mayGo = true ∧ (p.tile 0).mayGo = true
      ∧ finds (w.suCheck 0 0 8 .read).2 (fun g => g == .own 0) = true ∧ finds (p.suCheck 0 0x8000 8 .read).2 (fun g => g == .pa 0x8000 0) = true
      ∧ reads (w.readWord 0 (.own 0) 0).2 (fun x => x == 0) = true ∧ p.fleet.toNat % 1000 = 0 ∧ p.watched (.pa 0x8000 1) = false ∧ reads ((p.suCheck 0 0x8000 8 .read).1.readWord 0 (.pa 0x8000 0) 0x8000).2 (fun x => x == 0) = true := by
  decide +kernel

theorem test_meets_Barriers :
    let s := on (fun m => sreg 5 1 (ownPage m))
    let w := on (waiting (.barWait 0 0 (.own 8) true true))
    let g := mapped (fun m => sreg 4 0x8000 (sreg 5 1 m))
    let e : Nat := 1
    s.issues 1 = true ∧ (s.tile 0).sunk = false ∧ finds (s.suCheck 0 0 16 .read).2 (fun g => g == .own 0) = true
      ∧ reads ((s.suCheck 0 0 16 .read).1.readWord 0 ((Target.own 0).shift 8) 0).2 (fun x => x == 0) = true
      ∧ (0 : W64) ≠ (1 : W64) ∧ (w.tile 0).mayGo = true ∧ finds (w.suCheck 0 0 16 .read).2 (fun g => g == .own 0) = true ∧ reads (w.readWord 0 (.own 8) 0).2 (fun x => x == 0) = true
      ∧ g.memOk = true ∧ g.issues 1 = true ∧ finds (g.suCheck 0 0x8000 16 .rmw).2 (fun x => x == .pa 0x8000 0) = true
      ∧ regionOf 0x8000 = .dram ∧ g.ownerOf 0x8000 = none ∧ e < 2 ^ 24 ∧ g.inBarrier 0x8000 = false
      ∧ ¬ 256 ≤ (g.ms.bars.filter (fun x => sliceOf x.1 == sliceOf 0x8000 && dieOfPa x.1 == dieOfPa 0x8000)).length ∧ g.ceilHolds 0x8000 = false
      ∧ ¬ (2 ^ 24 : Nat) < 2 ^ 24 ∧ ({ g with ms := { g.ms with bars := [(0x8000, 1)] } } : State).inBarrier 0x8000 = true := by decide +kernel

/-- A slot that holds a member saved from a tile, with no post and no mailbox write. -/
def saved (t : TileId) : Slot := ⟨Member.reset, t, [], [], 0, false, Trace.reset⟩

/-- P of local semaphore 3. -/
def promised (p : Nat) (m : Member) : Member := { m with sems := { m.sems with p := m.sems.p.set 3 (BitVec.ofNat 24 p) } }

theorem test_meets_Semaphores :
    let s := on (promised 0xFFFFFE)
    let m := (s.tile 0).m
    let job : State := { on id with tposts := [⟨1, 0, 0, 200, 1⟩] }
    s.issues 1 = true ∧ isLocal 191 = true ∧ isLocal 192 = false ∧ m.semP 3 + (1 : BitVec 24).toNat < 2 ^ 24
      ∧ 2 ^ 24 ≤ m.semP 3 + (2 : BitVec 24).toNat ∧ m.waits = []
      ∧ (m.sreg 4).toNat % 128 = 0 ∧ (((on (sreg 4 127)).tile 0).m.sreg 4).toNat % 128 ≠ 0
      ∧ job.tposts[0]?.isSome = true ∧ job.residentOf 0 0 = true ∧ job.residentOf 1 0 = false ∧ job.savedFrom 1 0 = none
      ∧ { job with slots := [(5, saved 1)] }.savedFrom 1 0 = some 5 := by decide +kernel

/-- A queued command waits for local semaphore 3 to reach 1. -/
def waitQueued (m : Member) : Member :=
  { m with q := { m.q with mu := [m.capture .nop ⟨some ⟨3, 1, false⟩, none, .tile⟩] } }

theorem test_meets_Semaphores_covered :
    (((on waitQueued).tile 0).m.waits.all (fun w => waitCovered 0 0 w)) = false
      ∧ (((on waitQueued).tile 0).m.waits.all (fun w => waitCovered 1 0 w)) = true := by decide +kernel

theorem test_meets_QdropRemovesCommands :
    let s := on (fun m => sreg 4 (-1) (waitQueued m))
    let m := (s.tile 0).m
    let bare := fun (m : Member) => m.waits.find? (fun w => isLocal w.sem && !waitCovered (m.semP w.sem) (m.semQ w.sem) w)
    s.issues 1 = true ∧ (m.q.selected 1 (m.sreg 4)).length = 1 ∧ (m.sreg 4).toInt < 0
      ∧ (bare { m with q := m.q.without 1 (m.sreg 4) }).isNone = true ∧ (bare { m with q := m.q.without 2 (m.sreg 4) }).isSome = true := by
  decide +kernel

/-- Eight bytes of memory. -/
def put8 (a v : Nat) (s : State) : State := { s with mem := putBytes s.mem a (bytesOfNat 8 v) }

/-- Pool 3 in service: blocks of 64 bytes from 0x100000, its stack at 0x110000, with one block of two free. -/
def pooled (s : State) : State :=
  { s with ms := { s.ms with pcb := [(3, BitVec.ofNat 512 (8 + 2 * 2 ^ 24 + 16 * 2 ^ 48 + 17 * 2 ^ 80 + 1 * 2 ^ 128))] } }

/-- Queue 0 in service with a ring of 64 records at 0x120000. -/
def queued (n : Nat) (s : State) : State :=
  { s with ms := { s.ms with qcb := [(0, BitVec.ofNat 512 (8 + 18 * 2 ^ 16 + n * 2 ^ 64))] } }

/-- A record was read. -/
def recs (x : RecRead) (p : W512 → Target → Bool) : Bool := match x with | .ok r g => p r g | _ => false

theorem test_meets_TaskInstructionsWaitForTheirFence :
    let s := on (holding 1 (.pa 0x8000 0))
    s.issues 1 = true ∧ ¬ 3 < scopeRank (s.scopeOf 0 (.pa 0x8000 0)) ∧ (s.tile 0).m.su.stores.length = 1 := by decide +kernel

theorem test_meets_Pools :
    let s := pooled (on (sreg 4 0x100040))
    let c := s.pcbOf 3
    let used := put8 0x110008 2 s
    let off := { s with ms := { s.ms with setup := [3] } }
    s.getHeld 3 = false ∧ s.putHeld 3 0x100040 = false ∧ off.setupHeld 3 = false
      ∧ s.memOk = true ∧ s.issues 1 = true ∧ s.fenceOk 0 .package = true ∧ s.ms.setup.contains 3 = false ∧ poolOn (s.pcbOf 4) = false
      ∧ poolOn c = true ∧ fld c 128 24 = 1 ∧ poolBitmap c = 0x110008 ∧ poolBase c = 0x100000 ∧ poolBlock c = 64 ∧ fld c 24 24 = 2
      ∧ used.poolBit c 1 = true ∧ regionOf 0x110008 = .dram ∧ regionOf 0x110000 = .dram ∧ s.ms.dir = [] ∧ (1 : Nat) < 2 ^ 24 - 1
      ∧ s.poolBit c 1 = false ∧ fld c 160 32 + 1 < 2 ^ 32 ∧ off.ms.setup.contains 3 = true ∧ off.frozen = false := by
  decide +kernel

theorem test_meets_SpawnAnswers :
    let s0 := queued 63 (pooled (mapped (sreg 4 0x8000)))
    let s : State := { s0 with cfg := { s0.cfg with levelBase := 0x1000000 } }
    let full := queued 64 s
    let bad := put8 0x8038 (2 ^ 24) s
    let empty := mapped (sreg 4 0x8000)
    let g := s.poolGet 3
    let r : W512 := setFld (setFld (setFld (0 : W512) 457 1 1) 456 1 1) 448 8 3
    let wrote := fun (s : State) => s.recWrite 0 (.pa (s.poolGet 3).2.toNat 0) (s.poolGet 3).2 (bytesOfNat 64 r.toNat)
    let counted : State → State := fun s => ((wrote s).1.poolGet 3).1.countRec r
    let spans : List (Nat × Nat) := [((s.poolGet 3).2.toNat, 64), (0x110008, 1), (0x110000, 4), (qSlot (s.qcbOf 0) 63, 64)]
      ++ (s.levelAddrs r).map (fun x => (x, 32))
    s.shelfHolds (s.spawnWrites 3 r (s.poolGet 3).2.toNat) = false ∧ (wrote s).2 = true ∧ s.ms.bars = [] ∧ s.ms.dir = []
      ∧ spans.Pairwise (fun x y => x.1 + x.2 ≤ y.1 ∨ y.1 + y.2 ≤ x.1) ∧ (spans.all (fun x => decide (x.1 + x.2 ≤ 0x8000000000))) = true
      ∧ (counted s).recCancelled r (s.poolGet 3).2.toNat = false
      ∧ (counted s).recCancelled (setFld r 458 1 1) (s.poolGet 3).2.toNat = true
      ∧ s.issues 1 = true ∧ s.fenceOk 0 .package = true ∧ recs (s.readRec 0 0x8000 .read).2 (fun r _ => recSpawnCheck r true == none) = true
      ∧ recs (bad.readRec 0 0x8000 .read).2 (fun r _ => recSpawnCheck r true == some 2) = true ∧ fld (s.pcbOf 3) 4 4 = 0
      ∧ s.ms.setup.contains 3 = false ∧ g.2 ≠ 0 ∧ (empty.poolGet 3).2 = 0 ∧ qRoom ((counted s).qcbOf 0) = true
      ∧ qRoom ((counted full).qcbOf 0) = false ∧ recJoin (0 : W512) = 0 := by decide +kernel

/-- A record at 0x8000 whose join word is at 0x9000. -/
def joined (v : Nat) : State := put8 0x9000 v (put8 0x8018 0x9000 (mapped (sreg 4 0x8000)))

/-- The registration of `publish` finds its word in DRAM and counts its record. -/
def publishes (s : State) : Bool :=
  let r := s.readRec 0 0x8000 .read
  recs r.2 (fun rec tgt =>
    let j := recJoin rec
    let c := r.1.mayCount 0 rec 0x8000
    let x := c.1.routeT 0 .su 0 j .rmw false
    c.2.isNone && recSpawnCheck rec false == none && j == 0x9000 && (match x.2 with
      | .to (.pa p _) => regionOf p == .dram && (x.1.ownerOf p).isNone && !x.1.poisoned p 8 && !x.1.inBarrier p
          && !joinPub (BitVec.ofNat 64 (x.1.peek p 8)) && !x.1.ms.joins.any (fun e => e.1 == p / 8)
          && !x.1.readyHeldWith rec (x.1.paOfTarget 0 tgt) (p :: (x.1.levelAddrs rec ++ [x.1.paOfTarget 0 tgt + 57]))
          && (let y := x.1.countOnce 0 rec tgt 0x8000
            y.2.2 && !y.1.ceilHolds p && y.1.memOk)
      | _ => false))

theorem test_meets_PublishJoins : publishes (joined 0) = true ∧ publishes (joined (2 ^ 64 - 1)) = true
    ∧ (2 ^ 61 - 1 : W64).toNat < 2 ^ 61 ∧ (joined 0).issues 1 = true ∧ (joined 0).fenceOk 0 .package = true
    ∧ (BitVec.ofNat 64 ((joined (2 ^ 64 - 1)).peek 0x9000 8)) + 1 + 0x4000000000000000 = (0x4000000000000000 : W64) := by decide +kernel

/-- Tile 0's member belongs to gang 7 of `n` members. -/
def ganged (n : Nat) (s : State) : State :=
  { s.modM 0 (fun m => { m with id := { m.id with gang := 7 } }) with gangs := [⟨7, 0, 0, 0x8000, n, 0, none, 0⟩] }

theorem test_meets_YieldAndCancel :
    let s := ganged 1 (queued 0 (mapped (sreg 4 0x8000)))
    let reg : State := { s with ms := { s.ms with joins := [(0x1200, 0x8000, 0)] } }
    let own := on (fun m => sreg 4 0 (ownPage m))
    (reg.finishHeldWith (setFld 0 458 1 1) 0x8000 [0x8039] = false ∧ reg.ms.dir = []
      ∧ (∀ x ∈ reg.finishAddrs (setFld 0 458 1 1) 0x8000, x + 32 ≤ 0x8039 ∨ 0x8039 < x))
      ∧ recs (own.readRec 0 0 .rmw).2 (fun _ g => g == .own 0) = true ∧ own.homeOf 0 (.own 57) = .own 57
      ∧ ((own.tile 0).m.stash.line 0).fill = .ready ∧ ((own.readRec 0 0 .rmw).1.recWrite 0 (.own 57) 57 [4]).2 = true
      ∧ s.issues 1 = true ∧ s.fenceOk 0 .package = true ∧ (s.gangs.find? (fun g => g.id == (s.tile 0).m.id.gang)).map (fun g => g.size) = some 1
      ∧ ((ganged 2 s).gangs.find? (fun g => g.id == (s.tile 0).m.id.gang)).map (fun g => g.size) = some 2
      ∧ qRoom (s.qcbOf (recQueue (s.tile 0).m.id.record)) = true ∧ s.memOk = true
      ∧ ((on inTrap).tile 0).m.su.inHandler = true ∧ ((on (sreg 4 0xFFF)).tile 0).m.job ≠ BitVec.ofNat 12 (0xFFF % 4096)
      ∧ recs (s.readRec 0 0x8000 .rmw).2 (fun _ g => g == .pa 0x8000 0) = true ∧ (s.readRec 0 0x8000 .rmw).1.ownerOf 0x8000 = none
      ∧ (s.readRec 0 0x8000 .rmw).1.ownerOf 0x8039 = none ∧ (s.readRec 0 0x8000 .rmw).1.inBarrier 0x8039 = false
      ∧ (s.readRec 0 0x8000 .rmw).1.ceilHolds 0x8039 = false ∧ s.ceilHolds (s.levelAddr 3 0xFFF) = false
      ∧ ((s.readRec 0 0x8000 .rmw).1.recWrite 0 (.pa 0x8039 0) 0x8039 [4]).2 = true ∧ s.ms.joins = [] := by decide +kernel

/-- The tide table of die 0. -/
def tide (f : Tide → Tide) (s : State) : State := s.modDie 0 (fun d => { d with tide := f d.tide })

theorem test_meets_TideTables :
    let s := mapped (sreg 4 0x8000)
    let ld := tide (fun t => { t with st := .loaded, entries := [0x8000] }) s
    let run := tide (fun t => { t with st := .running, entries := [0x8000] }) s
    let poor := tide (fun t => { t with st := .running, entries := [BitVec.ofNat 512 (2 ^ 96 + 0x8000)] }) s
    s.issues 1 = true ∧ s.fenceOk 0 .package = true
      ∧ (match (s.tideRead 0 0x8000 1).2 with | .ok es => es.all (fun e => tideCheck e == none) | .error _ => false) = true
      ∧ ((ld.dies[(dieOfTile 0).val]).tide.st = .loaded ∧ (ld.dies[(dieOfTile 0).val]).tide.job = (ld.tile 0).m.job)
      ∧ tideCfgOk 0x0000FFFF001F8000 = false ∧ tideCfgOk 0x0000FFFF00110000 = true ∧ s.seize.st = .none
      ∧ ({ s with seize := { s.seize with st := .stopping } } : State).seize.st ≠ .none
      ∧ (run.dies[0]).tide.st = .running ∧ run.tideDue 0 = true ∧ run.links[0].up = true ∧ (run.dies[0]).tide.entries[0]?.isSome = true
      ∧ run.tideTests 0 0x8000 = (true, true, true) ∧ poor.tideTests 0 (BitVec.ofNat 512 (2 ^ 96 + 0x8000)) = (true, true, false)
      ∧ (match ((run.modDie 0 (fun z => { z with tide := { z.tide with cyc := z.tide.cyc + 1 } })).dispRead (engineTile 0) .ce 0 .read false
            0x8000 64).2 with | .ok _ => true | _ => false) = true
      ∧ qRoom ((queued 0 run).qcbOf 0) = true ∧ qRoom (run.qcbOf 0) = false ∧ run.recCancelled 0 0x8000 = false
      ∧ (queued 0 run).submitHeld 0 0 [] = false ∧ (queued 0 run).ms.dir = []
      ∧ ((queued 0 run).levelAddrs 0).all (fun a => decide (a + 32 ≤ 0x120000 ∨ 0x120040 ≤ a)) = true := by decide +kernel

/-- Tile 0 runs a block whose words begin at `a`, with loops open. -/
def inBlock (a : Nat) (ls : List Loop) (m : Member) : Member :=
  { m with vu := { m.vu with cmd := some (m.capture .nop ⟨none, none, .tile⟩), vpc := BitVec.ofNat 64 a, loops := ls } }

/-- Table 2 is installed. -/
def installed (m : Member) : Member := { m with tbl := m.tbl.set 2 ⟨0, 0x40000000, 4, 0, 0x40000000, true⟩ }

/-- Entries stand in the vector queues. -/
def ventry (kind : VKind) (x : VEntry → VEntry) : VEntry := x ⟨0, kind, .v 1, 0, [], [], [], 0, [], 0, 1, none, false, none, false, 0, 0⟩

theorem test_meets_vector_words :
    let s := on id
    s.issuesV (.vand .i32 1 2 3 0) = true ∧ s.issuesV (.vmin .f32 1 2 3 0) = true ∧ s.issuesV (.vadd .i16 .rne true 1 2 3 0) = true
      ∧ s.issuesV (.vfma .f32 .sr false 1 2 3 4 0) = true ∧ s.issuesV (.vpack .bf16 .rne false 1 2 3 0) = true
      ∧ s.issuesV (.vcmpLe .u16 1 2 3 0) = true ∧ s.issuesV (.vredSum .f32 .rne 1 2 0) = true ∧ s.issuesV (.vredMin .i32 1 2 0) = true
      ∧ active .i32 ((s.tile 0).m.preg 0) 127 = true ∧ active .u16 ((s.tile 0).m.preg 0) 255 = true
      ∧ active .f32 ((s.tile 0).m.preg 1) 127 = false ∧ VTy.isInt .f16 = false ∧ VTy.isInt .u16 = true ∧ VTy.count .u16 = 256 := by
  decide +kernel

theorem test_meets_TableWords :
    let s := on installed
    s.issuesV (.vtip 1 2 2 0) = true ∧ s.issuesV (.vtipX 1 2 3 0) = true ∧ (s.tile 0).m.tbl[(r3 2).val].v = true
      ∧ (s.tile 0).m.tbl[(r3 3).val].v = false := by decide +kernel

theorem test_meets_BlocksAndLoops :
    let s := on (inBlock 0x100 [⟨3, 0x80, 0x110⟩])
    let m := (s.tile 0).m
    let stop := fun (d : BitVec 16) => m.vu.vpc + BitVec.ofNat 64 (8 * d.toNat)
    s.issuesV (.vloop .imm 3 2) = true ∧ m.loopCount .imm 2 ≠ 0 ∧ m.loopCount .imm 0 = 0
      ∧ m.vu.loops.length < 3 ∧ (∀ l ∈ m.vu.loops, (stop 3).toNat ≤ l.last.toNat + 8) ∧ ¬ (∀ l ∈ m.vu.loops, (stop 4).toNat ≤ l.last.toNat + 8)
      ∧ s.issuesV .vend = true ∧ s.issuesV .vqmark = true ∧ s.issuesV .vnop = true ∧ s.issuesV (.kli 1 5) = true
      ∧ s.issuesV (.plen 1 .imm 5) = true := by decide +kernel

/-- The checks of the lanes of a vector access pass, or stop as they should. -/
def lanesOk (x : State × Except VStop (List LaneAcc)) (s : State) : Bool :=
  match x.2 with | .ok l => (x.1.pendLane s.cur l).isNone | .error _ => false

theorem test_meets_VectorMemory :
    let s := on ownPage
    let m := (s.tile 0).m
    let bare := on id
    s.issuesV (.vld .b32 1 0 0 0) = true ∧ m.vu.loadsHeld < 16 ∧ m.vu.storesHeld < 16
      ∧ lanesOk (s.vecCheck 0 .read 4 (lineAddrs m 0 0 0 4)) s = true ∧ lanesOk (s.vecCheck 0 .read 2 (indexAddrs m 0 0 2)) s = true
      ∧ lanesOk (s.vecCheck 0 .read 8 [(0, 0xFF8)]) s = true ∧ lanesOk (s.vecCheck 0 .write 2 (lineAddrs m 0 0 0 2)) s = true
      ∧ ((lineAddrs m 0 0 2 4).find? (fun a => decide (a.2.toNat % 4 ≠ 0))).isSome = true
      ∧ (match (bare.vecCheck 0 .read 4 (lineAddrs m 0 0 0 4)).2 with | .error (.fault _) => true | _ => false) = true
      ∧ (m.kreg 1).toNat % 64 = 0 ∧ lanesOk (s.vecCheck 0 .read 4 (updAddrs m 1 0)) s = true
      ∧ lanesOk ((s.vecCheck 0 .read 4 (updAddrs m 1 0)).1.vecCheck 0 .write 4 (updAddrs m 1 0)) s = true
      ∧ (vloadForm m (.vld .b32 1 0 0 0)).isSome = true ∧ (vloadForm m (.kld 1 0 0)).isSome = true
      ∧ (vstoreForm m (.vstx .f16 1 2 0 0)).isSome = true := by decide +kernel

theorem test_meets_full_queues :
    let v := on (fun m => { m with vu := { m.vu with
      lq := List.replicate 16 (ventry (.load .b32) id), sq := List.replicate 16 (ventry (.store .b32) id) } })
    16 ≤ (v.tile 0).m.vu.loadsHeld ∧ 16 ≤ (v.tile 0).m.vu.storesHeld ∧ v.issuesV (.vld .b32 1 0 0 0) = true
      ∧ ((on (holding 16 (.own 0))).tile 0).m.su.room = some 0 ∧ ((on (holding 15 (.own 0))).tile 0).m.su.room = none
      ∧ ((on (holding 16 (.own 0))).tile 0).m.su.full = none ∧ (on (busy 10000)).qUsed 0 .cu < qCap .cu := by decide +kernel

/-- A push of its own. -/
def noteHead : Head := ⟨some ⟨3, 1, true⟩, some ⟨4, 1⟩, .die⟩

theorem test_meets_PushesQueue :
    let s := on (promised 0xFFFFFE)
    let m := (s.tile 0).m
    let i := Instr.note noteHead 5 0
    let c := m.capture i noteHead
    let full := on (fun m => { m with q := { m.q with cu := List.replicate 32 c } })
    let td := setFld (0 : W512) 411 1 1
    let bad := on (fun m => { m with f := { m.f with td := m.f.td.set 1 ⟨td, 0, false⟩ } })
    let badc := ((bad.tile 0).m).capture (.aclr noteHead 0) noteHead
    cmdHead i = some (noteHead, .cu) ∧ s.issues 2 = true ∧ s.pushChecks 0 c = none ∧ s.qUsed 0 .cu < qCap .cu
      ∧ m.semQ 3 + 1 ≤ m.semP 3 ∧ m.semP 4 + 1 < 2 ^ 24 ∧ isLocal 3 = true ∧ qCap .cu ≤ full.qUsed 0 .cu
      ∧ full.pushChecks 0 c = none ∧ ((on id).tile 0).m.semP 3 < ((on id).tile 0).m.semQ 3 + 1
      ∧ 2 ^ 24 ≤ m.semP 3 + (2 : BitVec 24).toNat ∧ bad.pushChecks 0 badc = none := by decide +kernel

theorem test_meets_PushesQueue_vector_limit :
    let s := on id
    let m := (s.tile 0).m
    let i := Instr.vrun ⟨none, none, .tile⟩ 0
    let c := m.capture i ⟨none, none, .tile⟩
    (pushLimits (m.code.vend - m.code.vcb.toNat) c).isSome = true ∧ cmdHead i = some (⟨none, none, .tile⟩, .vu) := by decide +kernel

/-- A descriptor of `k` by `n` items of 4 bytes (fp32) from 0, in rows of `k` items. -/
def plane (k n : Nat) : W512 :=
  BitVec.ofNat 512 (4 * 2 ^ 128 + k * 2 ^ 168 + 4 * k * 2 ^ 192 + n * 2 ^ 232 + 2 ^ 384)


/-- A matrix of `n` rows of `k` bytes of int8, from 0 (R193 to R195). -/
def bytesTd (k n : Nat) : W512 := BitVec.ofNat 512 (2 ^ 128 + k * 2 ^ 168 + k * 2 ^ 192 + n * 2 ^ 232 + 2 ^ 384 + 5 * 2 ^ 389)

/-- Descriptor register 1 is a matrix of 1 row and 1 column. -/
def desc (m : Member) : Member := { m with f := { m.f with td := m.f.td.set 1 ⟨bytesTd 1 1, 0, false⟩ } }

/-- A command with no wait and no post. -/
def free : Head := ⟨none, none, .tile⟩

theorem test_meets_PushesQueue_rate :
    let s := on (fun m => desc (ownPage m))
    let c := (s.tile 0).m.capture (.mma free 0 1 1 false false false) free
    pushLimits 0 c = none ∧ cmdConflict (s.tile 0).m.pushView c = none ∧ (cmdRate c).isSome = true
      ∧ (cmdRate c).all (fun r => !rateOk (classOf (s.tile 0).grant) r) = true := by decide +kernel

/-- The command at a head, its wait passing or not. -/
def heads (i : Instr) (h : Head) (u : QId) (m : Member) : Member := { m with q := m.q.enqueue u (m.capture i h) }

theorem test_meets_CommandsRun :
    let h : Head := ⟨some ⟨3, 1, true⟩, none, .tile⟩
    let v (k : Nat) : State := on (fun m => { heads (.vrun h 2) h .vu m with
      su := { m.su with ready := 1 }, sems := { m.sems with val := m.sems.val.set 3 (BitVec.ofNat 24 k) } })
    let m (k : Nat) := ((v k).tile 0).m
    let w := on (fun m => { promised 0xFFFFFE m with su := { m.su with wait := .again (.note noteHead 5 0) } })
    let d := on (fun m => { m with vu := { m.vu with cmd := some (cmdOf m .nop), vending := true } })
    (w.tile 0).suLive = true ∧ (w.tile 0).mayGo = true ∧ w.suOver 0 2 = false ∧ (v 1).atStarts 0 = true ∧ (v 0).atStarts 0 = true
      ∧ ((w.tile 0).m.su.wait == .again (.note noteHead 5 0)) = true ∧ w.qUsed 0 .cu < qCap .cu
      ∧ ((m 0).headOf .vu).any (fun c => !(m 0).waitPasses c) = true ∧ ((m 1).headOf .vu).any (fun c => (m 1).waitPasses c) = true
      ∧ (d.tile 0).m.vu.sq = [] ∧ d.releaseOk 0 0 .tile = true ∧ (d.tile 0).m.vu.flip = false
      ∧ ((v 1).tile 0).engLive = true ∧ (on (holding 1 (.own 0))).releaseOk 0 1 .tile = false := by decide +kernel

/-- A run of a copy-unit command with one element in flight. -/
def cuRun (i : Instr) (st : Stage) (m : Member) : CuRun :=
  { cmd := m.capture i free, next := 1, entry := 0, index := none, issued := true, flights := [⟨0, 0, 1, st, none, false⟩], errs := 0, errAddr := 0,
    halted := none, noEffect := false, started := 0, recAddr := none, recNext := 0, slot := none, begun := true, gran := [] }

/-- A run whose accesses have all landed. -/
theorem test_meets_CommandsRun_copy :
    let m := (on id).tile 0 |>.m
    let r : CuRun := { cuRun (.note free 4 5) .read m with flights := [] }
    r.halted = none ∧ r.issued = true ∧ r.landed m.mbq = true ∧ r.errs = 0 ∧ r.recAddr = none ∧ r.cmd.post = none := by decide +kernel

/-- Channel 0 runs a copy-unit command. -/
def running (i : Instr) (st : Stage) (m : Member) : Member :=
  let c := m.ch[0]
  { m with ch := m.ch.set 0 { c with runs := [cuRun i st m] } }

/-- Tile 0's matrix unit has begun a command. -/
def matrix (i : Instr) (n : Nat) (m : Member) : Member :=
  let p := m.wb[0]
  { m with
    mu := some ⟨m.capture i free, 0, 0, false, false, none, true, true, n, 0⟩
    wb := m.wb.set 0 { p with tag := ⟨0, 0, 1, 0, 0, false, true, BitVec.ofNat 31 5⟩ } }

theorem test_meets_EngineAccessesLand :
    let s := mapped (fun m => sreg 5 0x7FF8 (running (.note free 4 5) (.write 7 none) (sreg 4 0x8000 m)))
    let m := (s.tile 0).m
    let w := on (fun m => desc (ownPage m))
    let a := w.modM 0 (matrix (.mma free 0 1 1 false false true) 1)
    let o := (a.tile 0).m
    (match locate m.ch[0].runs 0 with
      | some (0, 0, r, f) => f.stage == .write 7 none && f.parked == none && f.cnt == 1 && cuDst r.cmd f none 0 == .mem 0x8000 8
          && (f.places r.cmd none).all  (fun p => !s.writeBlocked 0 0 0 0 r.cmd.asid p) && !s.noteHeld 0 r.cmd
      | _ => false) = true
      ∧ (match (s.routeT 0 .cu 0 0x8000 .write false).2 with | .to (.pa a mt) => a == 0x8000 && mt == 0 | _ => false) = true
      ∧ regionOf 0x8000 = .dram ∧ s.ownerOf 0x8000 = none ∧ s.inBarrier 0x8000 = false ∧ s.ceilHolds 0x8000 = false ∧ s.anyPoison = false
      ∧ (s.tile 0).gated = false ∧ (a.tile 0).engLive = true
      ∧ (o.mu.any (fun r => (match (a.muWords 0 r.cmd 1 (aWords (tdOf r.cmd.d0) false (groupKs (mmaK (tdOf r.cmd.d0) false) 0))).2 with
          | .ok _ => true | _ => false) && (o.mmaPanel r.cmd 1 false false).isSome && decide (0 < mmaM (tdOf r.cmd.d0) false))) = true
      ∧ SMap.wf 0 o.acc = true := by decide +kernel

theorem test_meets_MemoryPointSteps_rmw :
    let s := mapped (fun m => running (.atomArrive free none 4) (.rmw 0) (sreg 4 0x8000 m))
    let b : State := { s with ms := { s.ms with bars := [(0x8000, 1)] } }
    let m := (s.tile 0).m
    (match locate m.ch[0].runs 0 with
      | some (_, _, r, f) => f.stage == .rmw 0 && !s.writeBlocked 0 0 0 0 r.cmd.asid (.mem r.cmd.x 8) && r.cmd.x == 0x8000
      | none => false) = true
      ∧ (match (s.routeT 0 .cu 0 0x8000 .rmw false).2 with | .to (.pa a _) => a == 0x8000 | _ => false) = true
      ∧ s.ownerOf 0x8000 = none ∧ s.ceilHolds 0x8000 = false ∧ s.inBarrier 0x8000 = false ∧ s.poisoned 0x8000 16 = false
      ∧ s.ms.joins.any (fun e => e.1 == 0x8000 / 8) = false ∧ b.ms.bars.find? (fun b => b.1 == 0x8000) = some (0x8000, 1) := by decide +kernel

/-- Tile 1 owns the granule at 0x8000, in the first page of its stash. -/
def remote (s : State) : State :=
  { s.modM 1 (fun m => ownPage m) with ms := { s.ms with dir := [(0x8000 / 256, .tile 1 0)] } }

/-- Channel 1 waits for the record at 0x9000. -/
def walking (m : Member) : Member :=
  let c := m.ch[1]
  { m with ch := m.ch.set 1 { c with loadAt := some 0x9000 } }

/-- A record that notes the word at 0x8000, with V as given: the command of R78 in its first four words (R158, R159). -/
def noteRecord (v : Nat) : Nat := v * 2 ^ 384 + 0x8000 * 2 ^ 128

theorem test_meets_MemoryPointSteps_remote :
    let s := remote (mapped (holding 1 (.pa 0x8000 0)))
    let k := mapped walking
    ((s.tile 0).m.su.stores[0]?).all (fun x => !s.storeBlocked 0 x) = true ∧ s.ownerOf 0x8000 = some (.tile 1 0) ∧ s.inBarrier 0x8000 = false
      ∧ ((s.tile 1).m.stash.line 0).fill = .ready ∧ (k.tile 0).engLive = true ∧ (k.tile 0).m.ch[1].stuck = false
      ∧ (match (k.engRead 0 .cu 0 0x9000 64).2 with
          | .ok bs => !(BitVec.ofNat 512 (natOfBytes bs)).getLsbD 384 | _ => false) = true := by decide +kernel

theorem test_meets_MemoryPointSteps_walker :
    let k := mapped walking
    let r := BitVec.ofNat 512 (2 ^ 384 + 0x8000 * 2 ^ 128 + 0x98000000)
    (match recordInstr r with
      | .ok i => ((k.recordCheck 0 1 ((k.tile 0).m.recordCmd 1 i r)).isNone) | .error _ => false) = true ∧ r.getLsbD 384 = true := by
  decide +kernel

/-- The vector queues hold one entry each; those that have gone out were sent in cycle 0. -/
def queues (x : VEntry → VEntry) (m : Member) : Member :=
  { m with
    ctr := { m.ctr with cycle := 9 }
    vu := { m.vu with lq := [x (ventry (.load .b32) id)], sq := [x { ventry (.store .b32) id with id := 1 }] } }

theorem test_meets_CycleSteps :
    let s := on (fun m => { m with vu := { m.vu with flip := true }, su := { m.su with flip := true, slow := [⟨0, .s 3, 0, 0, 0⟩] } })
    let q := on (queues id)
    let e := s.endCycle 0
    (s.tile 0).clocked = true ∧ s.cycleOver 0 = true ∧ (e.tile 0).m.vu.flip = false ∧ (s.tile 0).m.su.inHandler = false
      ∧ ((on (fun m => { m with su := { m.su with flip := true } })).endCycle 0 |>.tile 0).m.su.flip = false
      ∧ (∃ w ∈ (s.tile 0).m.su.slow, w.due ≤ (s.tile 0).m.ctr.cycle)
      ∧ ((q.tile 0).m.vu.nextSend false 9).isSome = true ∧ ((q.tile 0).m.vu.nextSend true 9).isSome = true := by decide +kernel

/-- A flip or a slow write with nothing else in the cycle: no queue entry, and no load that lands. -/
theorem test_meets_CycleSteps_quiet :
    let v := on (fun m => { m with vu := { m.vu with flip := true }, su := { m.su with ready := 1, slow := [⟨0, .s 3, 1, 1, 0⟩] } })
    let f := on (fun m => { m with su := { m.su with flip := true, slow := [⟨0, .s 3, 1, 1, 0⟩] } })
    let w := on (fun m => { m with su := { m.su with ready := 1, slow := [⟨0, .s 3, 1, 1, 0⟩] } })
    let quiet := fun (s : State) => (s.tile 0).clocked && s.cycleOver 0 && (s.tile 0).m.vu.lq.isEmpty && (s.tile 0).m.vu.sq.isEmpty
      && (s.tile 0).m.su.loads.isEmpty
    quiet v = true ∧ quiet f = true ∧ quiet w = true ∧ ((v.endCycle 0).tile 0).m.vu.flip = false ∧ ((f.endCycle 0).tile 0).m.su.flip = false
      ∧ (v.tile 0).m.su.flip = false ∧ (f.tile 0).m.vu.flip = false ∧ isConst (.s 3) = false ∧ bankOf (.v 1) = .vector
      ∧ bankOf (.s 3) = .steering := by decide +kernel

/-- The steering section holds a word at 0 and 0x400 behind it, and the vector section eight at 64. -/
def coded (w : Nat) (v : Nat) (m : Member) : Member :=
  { m with code := ⟨0, 16, 64, 72, 0, 0, putBytes (putBytes [] 0 (bytesOfNat 8 (w + 0x400 * 2 ^ 32))) 64 (bytesOfNat 8 v)⟩ }

theorem test_meets_ReportsAreTaken :
    let r : Report := ⟨0x01, 0, 0, 0, 0, 0, 0⟩
    let a := on (fun m => { m with su := { m.su with wait := .trap r 0 } })
    let b := on (fun m => { m with rep := { m.rep with timer := true } })
    let h := on (fun m => inTrap { m with su := { m.su with wait := .trap r 0 } })
    let w := on (coded 0 0)
    let c := on (coded 0x90001000 0)
    let v := on (fun m => inBlock 64 [] (coded 0 0 m))
    (h.tile 0).suLive = true ∧ (h.tile 0).m.su.wait = .trap r 0 ∧ (h.tile 0).m.su.inHandler = true
      ∧ (a.tile 0).suLive = true ∧ (a.tile 0).m.drained = true ∧ (a.tile 0).m.su.wait = .trap r 0 ∧ (b.tile 0).m.su.wait.boundary = true
      ∧ (b.tile 0).dbg.hreq = false ∧ (b.tile 0).dbgFirst = false
      ∧ (b.tile 0).m.nextReport.isSome = true ∧ (w.tile 0).beforeWord = true
      ∧ (match (w.tile 0).m.fetchSu with | .bad (.su x) => x == 0 | _ => false) = true
      ∧ (match (c.tile 0).m.fetchSu with | .bad (.cmd x _) => x == 0x90001000 | _ => false) = true
      ∧ (match (v.tile 0).m.fetchVu with | .bad (.vu x) => x == 0 | _ => false) = true ∧ (v.tile 0).m.vu.cmd.isSome = true := by
  decide +kernel

theorem test_meets_VectorAndLineSteps :
    let sent := fun (x : VEntry) => { x with sent := some 0, read := true }
    let ld := on (queues sent)
    let st := on (queues (fun x => { sent x with writes := [(.pa 0x7FFFFFFFF8 0, 0x5FFFFFF8, [1, 2, 3, 4])] }))
    let fill := on (fun m => { ownPage m with stash := { (ownPage m).stash with lines := [(15, ⟨.filling, false, false, 0⟩)] } })
    let dirty := on (fun m => { ownPage m with stash := { (ownPage m).stash with lines := [(0, ⟨.ready, true, false, 0⟩)] } })
    (ld.tile 0).m.vu.lq[0]? = some (sent (ventry (.load .b32) id))
      ∧ ((ld.tile 0).m.vu.lq ++ (ld.tile 0).m.vu.sq).find? (fun y => y.id == 0) = (ld.tile 0).m.vu.lq[0]?
      ∧ ((st.tile 0).m.vu.sq[0]?).any (fun x => !st.pieceBlocked 0 x [] (.pa 0x7FFFFFFFF8 0, 0x5FFFFFF8, [1, 2, 3, 4])) = true
      ∧ ((st.tile 0).m.vu.lq ++ (st.tile 0).m.vu.sq).find? (fun y => y.id == 1) = (st.tile 0).m.vu.sq[0]? ∧ regionOf 0x7FFFFFFFF8 = .dram
      ∧ st.ownerOf 0x7FFFFFFFF8 = none ∧ st.inBarrier 0x7FFFFFFFF8 = false ∧ st.ceilHolds 0x7FFFFFFFF8 = false
      ∧ ((fill.tile 0).m.stash.line 15).fill = .filling ∧ (fill.tile 0).m.stash.paOf (15 * 256) = some 0x300F00
      ∧ ((dirty.tile 0).m.stash.line 0).d = true ∧ (dirty.tile 0).m.stash.paOf 0 = some 0x300000 ∧ dirty.ceilHolds 0x300000 = false
      ∧ ((on ownPage).tile 0).m.stash.line 0 = ⟨.ready, false, false, 0⟩
      ∧ regionOf (0x1FFFFFFFF * 64) = .dram ∧ regionOf (0x200000000 * 64) ≠ .dram := by decide +kernel

/-- An update entry that has read, mailbox writes of two ranks, and the three words of a lane. -/
theorem test_meets_VectorAndLineSteps_update :
    let e : VEntry := { ventry (.update 0 0) id with sent := some 0, read := true }
    let u := on (fun m => { m with vu := { m.vu with sq := [e] } })
    let w : MbWrite := ⟨3, 7, false, 1, 0⟩
    let b := fun (n : Nat) => on (fun m => { m with mbq := [w], su := { m.su with mbRank := n } })
    let lanes : List LaneAcc := [⟨0, 0, .own 0⟩, ⟨128, 512, .own 512⟩, ⟨256, 1024, .own 1024⟩]
    (u.tile 0).m.vu.sq[0]? = some e ∧ ((u.tile 0).m.vu.lq ++ (u.tile 0).m.vu.sq).find? (fun y => y.id == 0) = some e
      ∧ ((b 2).tile 0).m.mbq[0]? = some w ∧ w.rank < ((b 2).tile 0).m.su.mbRank ∧ ((b 1).tile 0).m.su.mbRank ≤ w.rank
      ∧ (lanes.find? (fun a => a.lane == 0)).isSome = true ∧ (lanes.find? (fun a => a.lane == 0 + 128)).isSome = true
      ∧ (lanes.find? (fun a => a.lane == 0 + 256)).isSome = true ∧ (v32 (lane32 0 0)).isFinite = true
      ∧ (v32 (lane32 0x7F800000 0)).isFinite = false := by decide +kernel

/-- Link 0 in a state, with commands in its die's collective engine. -/
def linked (f : Link → Link) (ce : List CeRun) : State :=
  let s := State.reset
  let l := s.links[0]
  { s.modDie 0 (fun d => { d with ce := ce }) with links := s.links.set 0 (f { l with lanes := 3 }) }

/-- A packet. -/
def packet (n : Nat) : Packet := ⟨0, 0, 0, 0, 0, BitVec.ofNat 32 n, 0, 0, []⟩

/-- A `csend` of one element that its trigger has fired and a grant has matched. -/
def sending : CeRun :=
  let m := State.reset.tile 0 |>.m
  ⟨.tile 0 0, { m.capture (.csend free .blk 0 0 1) free with d0 := bytesTd 1 1 }, 0, some ⟨0, 0, true, true, 1, 0, none, 0⟩, none, 0, none, false,
    true, 0, 0⟩

theorem test_meets_LinkSteps :
    let s := linked id []
    let c := linked (fun l => { l with ctl := [.replay 5] }) []
    let d := linked id [sending]
    let r := linked (fun l => { l with recv := [packet 0] }) []
    let k := linked (fun l => { l with commit := some 0 }) []
    let f := linked (fun l => { l with fails := (5, 8) }) []
    let e := linked (fun l => { l with ctl := [.credit 2 7] }) []
    s.links[0].up = true ∧ s.links[0].recvSeq = 0 ∧ s.frozen = false ∧ s.fleetSync.exchanged ≤ s.fleet.toNat / 16000
      ∧ s.links[0].fails.1 = 0 ∧ s.links[0].fails.2 < 8 ∧ f.links[0].fails.1 = 5 ∧ 8 ≤ f.links[0].fails.2 ∧ f.links[0].up = true
      ∧ regionOf 0x7FFFFFFFF8 = .dram ∧ s.ownerOf 0x7FFFFFFFF8 = none ∧ s.inBarrier 0x7FFFFFFFF8 = false ∧ s.ceilHolds 0x7FFFFFFFF8 = false
      ∧ c.chosen 0 = none ∧ c.links[0].ctl = [.replay 5] ∧ e.links[0].ctl = [.credit 2 7] ∧ e.links[0].room 1 = true
      ∧ e.chosen 0 = none ∧ (d.chosen 0).map (fun x => x.1) = some 0 ∧ d.links[0].control.isNone = true
      ∧ sending.cmd.message.isSome = true ∧ r.links[0].recv = [packet 0] ∧ s.fleet.toNat % 16000 = 0
      ∧ k.links[0].commit = some 0 ∧ ({ k with fleet := 262144 } : State).fleet.toNat % 262144 = 0 ∧ (262144 : W64) ≠ 0
      ∧ dieOfLink 0 = 0 := by decide +kernel

/-- A `crecv` that awaits the element of one packet, and a `cstep` that does. -/
def receiving (i : Instr) : CeRun :=
  let m := State.reset.tile 0 |>.m
  ⟨.tile 0 0, { m.capture i free with d0 := bytesTd 1 1 }, 0, none, some ⟨0, 0, false⟩, 0, none, false, true, 0, 0⟩

theorem test_meets_LinkSteps_messages :
    let p : Packet := { packet 0 with tag := 2, data := [7] }
    let r := receiving (.crecv free 0 2 1 3)
    let x := receiving (.cstep free .blk 0 2 1 2 3 4)
    let s : State := { linked (fun l => { l with recv := [p] }) [r] with mem := (mapped id).mem }
    let D := tdOf r.cmd.d0
    let y : CeRun := { sending with send := some ⟨0, 0, true, false, 0, 0, none, 0⟩ }
    let e : Expect := ⟨0, (tdOf y.cmd.d0).dfmt.extractLsb' 0 21, 1⟩
    s.frozen = false ∧ s.links[0].recv = [p] ∧ s.dies[0].ce = [r] ∧ r.halted.isNone = true ∧ r.send.isNone = true
      ∧ 0 = p.pkt.toNat * D.perPacket ∧ 1 ≤ D.w / 8 ∧ p.data.length = D.w / 8
      ∧ (match (s.routeT (engineTile 0) .ce r.cmd.asid (D.ea (D.tuple 0)) .write false).2 with | .to (.pa a mt) => a == 0 && mt == 0 | _ => false) = true
      ∧ regionOf 0 = .dram ∧ s.ownerOf 0 = none ∧ s.inBarrier 0 = false ∧ s.ceilHolds 0 = false
      ∧ x.cmd.rank = p.srank ∧ x.recv = some ⟨p.nth, 0, false⟩ ∧ y.cmd.message.any (fun m => m.fits e) = true
      ∧ ceLink y.cmd.op = some 0 ∧ ceTag y.cmd.op = 0 ∧ (s.links[0]).grants = [] := by decide +kernel

theorem test_meets_DispatchSteps :
    let p : PushReq := ⟨0, 0, 0⟩
    let s : State := { queued 63 (on id) with pushes := [p], ms := { (queued 63 (on id)).ms with held := [p] } }
    let f : State := { queued 64 (on id) with pushes := [p] }
    s.pushes[0]? = some p ∧ s.frozen = false ∧ qRoom (s.qcbOf 0) = true ∧ qRoom (f.qcbOf 0) = false
      ∧ s.ms.held.findIdx? (fun y => y.queue == 0) = some 0 ∧ s.pushHeld 0 = false
      ∧ ({ s with fw := { s.fw with valid := true } } : State).roundDue 0 = true
      ∧ ({ s with fw := { s.fw with valid := true } } : State).roundDue 1 = true
      ∧ ({ s with fw := { s.fw with valid := true } }.modDie 0 (fun x => { x with round := 1 }) : State).roundDue 0 = false
      ∧ ({ s with fw := { s.fw with valid := true } } : State).fw.valid = true
      ∧ s.contQ = [] ∧ (on id).queueOrder = [] ∧ (1 : DieId) ≠ 0 := by decide +kernel

/-- Queue 0 holds one record, and tile 0 alone takes records from it. -/
def roundable (homes : List (TileId × List (BitVec 12))) : State :=
  let s := queued 1 State.reset
  { s with fw := { s.fw with valid := true }, cfg := { s.cfg with homes := homes } }

theorem test_meets_DispatchSteps_round :
    let s := roundable [(0, [0])]
    let n := roundable []
    let bad : State := { s with ms := { s.ms with poison := [0x4800] } }
    let blocks := fun (s : State) => (blocksOf 0 0).filter (fun b => b.all (fun t => (s.idleTiles 0).contains t && s.inHome t 0))
    s.roundDue 0 = true ∧ s.contQ = [] ∧ s.queueOrder = [0] ∧ qOn (s.qcbOf 0) = true ∧ qLen (s.qcbOf 0) = 1
      ∧ qSlot (s.qcbOf 0) (fld (s.qcbOf 0) 96 32) = 0x120000 ∧ regionOf 0x120000 = .dram ∧ s.ownerOf 0x120000 = none
      ∧ bad.poisoned 0x120000 64 = true ∧ s.poisoned 0x120000 64 = false ∧ natOfBytes (bytesAt s.mem 0x120000 64) = 0
      ∧ recBad2 0 = false ∧ recCv 0 = false ∧ recGang 0 = 0 ∧ blocks s = [[0]] ∧ blocks n = []
      ∧ (s.popQueue 0).recCancelled 0 (SMap.get 0x120000 s.ms.orig 0x120000) = false := by decide +kernel

/-- A launch record at 0x200000 with a steering section of 64 bytes and a vector section of 8, and tile 0 claimed for it. -/
def launchable (r : Nat) : State :=
  let s := put8 0x200000 0x201000 (put8 0x200008 64 (put8 0x200010 0x202000 (put8 0x200018 8 (mapped id))))
  let rec_ := BitVec.ofNat 512 (0x201000 + 0x202000 * 2 ^ 64 + 0x200000 * 2 ^ 256 + r)
  s.modTile 0 (fun x => { x with st := .claimed, m := { x.m with id := { x.m.id with gang := 7, record := rec_ } } })

/-- The gang of tile 0's member loads. -/
def launches (s : State) : Bool :=
  match s.loadGang 0 (s.tile 0).m.id.record with
  | (s1, .ok ..) => s1.gangTiles 7 == [0] && (s1.tile 0).m.id == (s.tile 0).m.id
  | _ => false

theorem test_meets_MembersComeAndGo_high_gear : launches (launchable (2 ^ 387)) = true := by decide +kernel

theorem test_meets_MembersComeAndGo_launch :
    launches (launchable 0) = true ∧ (launchable 0).fresh 0 = true
      ∧ recCv ((launchable 0).tile 0).m.id.record = false ∧ recCv ((launchable (2 ^ 473)).tile 0).m.id.record = true
      ∧ (launchable 0).seize.st = .none := by decide +kernel

/-- A claimed tile whose member waits in a slot with a post and a mailbox write. -/
theorem test_meets_MembersComeAndGo_restore :
    let s : State := { launchable (2 ^ 473) with slots := [(0, { saved 0 with posts := [(200, 1, ⟨6, 0, 0⟩)], mbs := [⟨3, 7, false, 0, 0⟩] })] }
    let id := (s.tile 0).m.id
    s.fresh 0 = true ∧ recCv id.record = true
      ∧ (s.slots.find? (fun e => e.1 == recCkey id.record + id.index && !e.2.restored)).map (fun e => (e.1, e.2.posts.length, e.2.mbs.length))
        = some (0, 1, 1)
      ∧ isLocal 200 = false ∧ Member.reset.rel = [] ∧ (Member.reset.ctl .opreq).getLsbD 15 = false := by decide +kernel

/-- Queue 0 holds one record of ROT's launch that no tile can take, and gang 7 of it has run for the quantum. -/
def rotating : State :=
  let s := queued 1 (put8 0x20002E 0x10 (put8 0x120020 0x200000 (ganged 1 (mapped id))))
  { s with fleet := 2000000, gangs := [⟨7, BitVec.ofNat 512 (0x200000 * 2 ^ 256), 0, 0x8000, 1, 0, none, 0⟩] }

theorem test_meets_MembersComeAndGo_leave :
    let d := on (fun m => { m with su := { m.su with wait := .retired } })
    let p := on (fun m => { m with rep := { m.rep with preempt := true } })
    (d.tile 0).suLive = true ∧ d.allDone 0 = true ∧ (p.tile 0).suLive = true ∧ (p.tile 0).m.su.wait.boundary = true
      ∧ p.landed 0 = true ∧ rotating.fleet.toNat % 2000000 = 0
      ∧ (match d.releaseRanges 0 with | .done s1 => !s1.endHeld 0 | _ => false) = true
      ∧ (match (d.modM 0 ownPage).releaseRanges 0 with | .step _ => true | _ => false) = true ∧ (d.modM 0 ownPage).allDone 0 = true
      ∧ (p.tile 0).m.dirtyGranules ≠ [] ∧ p.saveHeld (p.tile 0).m 0 [] = false ∧ p.saveHeld (p.tile 0).m 0 [0x120000] = false ∧ p.seize.st = .none
      ∧ (let sr : State := { rotating with fleetSync := { rotating.fleetSync with rotated := 2 } }
         (sr.waitingHeads.filter (fun y => sr.rotates y)).length = 1) ∧ rotating.fleetSync.rotated ≤ 1
      ∧ rotating.gangTiles 7 = [0] ∧ (rotating.tile 0).st = .running ∧ (0 : W64).toNat + 2000000 ≤ rotating.fleet.toNat := by decide +kernel

/-- Tile 0's island. -/
def island (f : Island → Island) : State := (on id).modTile 0 (fun x => { x with isl := f x.isl })

theorem test_meets_TileTimeSteps :
    let s : State := { on id with fleet := 10000, cfg := { State.reset.cfg with timerPeriod := 100 } }
    let g := (island (fun i => { i with held := false })).modTile 0 (fun x => { x with gated := true })
    s.cfg.timerPeriod ≠ 0 ∧ (s.tile 0).timed < s.fleet.toNat / s.cfg.timerPeriod ∧ (s.tile 0).st = .running
      ∧ s.owesSample 0 = true ∧ (g.tile 0).gated = true ∧ (g.tile 0).isl.held = false
      ∧ ((island (fun i => { i with reg := .stepUp, until_ := 0 })).tile 0).isl.until_.toNat ≤ (island id).fleet.toNat
      ∧ ((island (fun i => { i with reg := .stepDown })).tile 0).isl.reg = .stepDown
      ∧ ((island (fun i => { i with reg := .settle 3, armed := some 5, target := 3 })).tile 0).isl.reg = .settle 3 := by decide +kernel

/-- Tile 0 waits for a class in its die's queue. -/
def asking (c : BitVec 3) (budget : Nat) (sunk : Bool) : State :=
  let s := (on (fun m => { m with su := { m.su with wait := .acq c } })).modDie 0 (fun d => { d with fifo := [0] })
  { s.modTile 1 (fun x => { x with grant := some 7, sunk := sunk }) with cfg := { s.cfg with budget := budget } }

theorem test_meets_ArbiterAndPackage :
    let s := asking 7 24 false
    let k := asking 7 12 true
    let f := asking 7 12 false
    let free := fun (s : State) => s.cfg.budget - s.unitsHeld 0
    (s.dies[0]).fifo = [0] ∧ (s.tile 0).asks = some 7 ∧ (s.tile 0).st ≠ .claimed ∧ classCost 7 ≤ free s ∧ free k < classCost 7
      ∧ classCost 7 ≤ free k + 12 ∧ (k.tile 1).sunk = true ∧ (k.tile 1).units = 12 ∧ free f + 0 < classCost 7
      ∧ curveOk 0 = true ∧ (420 : Nat) ≤ 420 ∧ (520 : Nat) ≤ 520 ∧ regionOf (0x1FFFFFFFF * 64) = .dram ∧ (524287 : Nat) < 524288
      ∧ ({ s with ms := { s.ms with l2 := [5] } } : State).ms.l2.contains (47 / 8) = true
      ∧ ((on id).modDie 0 (fun d => { d with lowTarget := d.lowMv + 5 })).dies[0].lowMv < 10000
      ∧ (s.tile 0).isl.reg = .idle ∧ dieOfTile 63 = 0 ∧ dieOfTile 64 = 1
      ∧ ((launchable (2 ^ 387)).tile 0).st = .claimed ∧ (launchable 0).seize.st = .none := by decide +kernel

/-- Port 0 is up and holds every lock, over firmware that is valid. -/
def hosted (a b : W64) (s : State) : State :=
  let x := s.ports[0]
  { s with
    ports := s.ports.set 0 { x with lanes := 16, msga := a, msgb := b, busy := false }
    fw := { s.fw with valid := true }
    hlock := s.hlock.map (fun _ => some 0) }

theorem test_meets_HostPortSteps :
    let s := hosted 0 0 (on id)
    let n : State := { s with hlock := s.hlock.map (fun _ => none) }
    s.portUp 0 = true ∧ s.fw.valid = true ∧ s.hlock[31] = some 0 ∧ n.hlock[31] = none ∧ s.holds 0 0 = true ∧ n.holds 0 0 = false
      ∧ s.holds 0 1 = true ∧ n.holds 0 1 = false ∧ s.holds 0 2 = true ∧ touches Region.isReserved 0x8000000000 8 = true
      ∧ (0xFFFFFFFF8 : Nat) + 8 ≤ 2 ^ 36 ∧ touches Region.isReserved 0x7FFFFFFFF8 8 = false ∧ touches Region.isShelf 0x7FFFFFFFF8 8 = false
      ∧ regionOf 0x7FFFFFFFF8 = .dram ∧ s.ownerOf 0x7FFFFFFFF8 = none ∧ s.poisoned 0x7FFFFFFFF8 8 = false
      ∧ s.inBarrier 0x7FFFFFFFF8 = false ∧ s.ceilHolds 0x7FFFFFFFF8 = false ∧ (0xFFFF8 : Nat) + 8 ≤ 0x100000
      ∧ SMap.wf 0 s.ms.qcb = true ∧ SMap.wf 0 s.ms.pcb = true ∧ SMap.wf (0 : Half) (s.links[0]).shadow = true
      ∧ setFld (s.qcbOf 4095) 0 64 8 &&& qcbFields ≠ 0 ∧ setFld (s.pcbOf 255) 0 64 8 &&& pcbFields ≠ 0
      ∧ s.ceilHolds (s.levelAddr 3 0xFFFF) = false ∧ s.ms.dir = [] ∧ (s.ports[0]).wr = []
      ∧ (16 : BitVec 5).toNat = 16 ∧ (8 : BitVec 5).toNat = 8 := by decide +kernel

theorem test_meets_HostMessages :
    let s := hosted 0xC000 0 (on id)
    let gone := hosted 0xC000 0 State.reset
    let own := hosted 17 0 (on id)
    let sub := hosted 0 0x8000 (queued 63 (on id))
    let att := hosted 0 0x8000 (on id)
    let done := hosted 0 0 { on id with seize := { (on id).seize with st := .done } }
    s.portUp 0 = true ∧ (s.ports[0]).busy = false ∧ s.fw.valid = true ∧ onlyBits (s.ports[0]).msga 0x00FFFFFF0FFFFF7F = true
      ∧ isLocal ((s.ports[0]).msga.extractLsb' 8 8) = false ∧ isLocal ((0xBF00 : W64).extractLsb' 8 8) = true
      ∧ onlyBits (0x80 : W64) 0x00FFFFFF0FFFFF7F = false ∧ s.holdsJob (tileNo 0) 0 = true ∧ gone.holdsJob (tileNo 0) 0 = false
      ∧ (s.tile 0).replays = false ∧ (s.ports[0]).wr = [] ∧ onlyBits (0xF0F7F : W64) 0x0FFF0F7F = true
      ∧ (match (sub.hostReads (paPieces 65 0x8000 64)).2 with
          | .ok bs => recSpawnCheck (BitVec.ofNat 512 (natOfBytes bs)) true == none | _ => false) = true
      ∧ sub.submitHeld 0 0 [] = false ∧ sub.recCancelled (setFld 0 457 1 1) 0x8000 = false
      ∧ (put8 0x8038 (2 ^ 10) sub).recCancelled (setFld 0 457 1 1) 0x8000 = true
      ∧ (put8 0x8038 (2 ^ 10) sub).finishHeld (setFld 0 457 1 1) 0x8000 = false ∧ att.residentLaunches.2 = some []
      ∧ (sub.pushQueue 0 0 0x8000 true).2 = true ∧ (s.pushQueue 0 0 0x8000 true).2 = false
      ∧ (match (att.hostReads (paPieces 33 0x8000 32)).2 with | .ok bs => bs.length == 32 | _ => false) = true
      ∧ onlyBits (own.ports[0]).msga 0x0FFF001F = true ∧ fld (own.ports[0]).msga 0 5 ≤ 17 ∧ own.holds 0 2 = true
      ∧ att.seize.st = .none ∧ done.seize.st = .done := by decide +kernel

theorem test_meets_FreezeSteps :
    let s (f : Freeze) : State := { hosted 0 0 State.reset with seize := { State.reset.seize with st := f }, fleet := 15000 }
    let g (f : Freeze) : State := { s f with ms := { (s f).ms with sbit := [3, 8] } }
    let i (f : Freeze) : State := { g f with seize := { (g f).seize with imgs := some [(0, Stash.reset, 0)] } }
    (g .none).ms.sbit = 3 :: [8] ∧ (g .none).anyPort = true ∧ (g .none).seize.st = .none ∧ (g .writing).seize.st = .writing
      ∧ (g .writing).seize.imgs = none ∧ (i .writing).seize.imgs = some [(0, Stash.reset, 0)] ∧ (i .writing).memOk = true ∧ (i .writing).ms.sbit = 3 :: [8]
      ∧ (s .stopping).seize.accs = none ∧ (s .stopping).seize.t0.toNat + 15000 ≤ (s .stopping).fleet.toNat
      ∧ (s .stopping).allStopped = true ∧ (s .writing).ms.sbit = [] ∧ (i .writing).seize.imgs.isSome = true := by decide +kernel

/-- Tile 0 is under its debugger. -/
def debugged (f : Dbg → Dbg) (n : Nat) : State :=
  (hosted 0 0 (on (fun m => { m with ctr := { m.ctr with retired := BitVec.ofNat 64 n } }))).modTile 0 (fun x => { x with dbg := f x.dbg })

theorem test_meets_DebugSteps :
    let s := debugged id 5
    let m := (s.tile 0).m
    let head := debugged (fun d => { d with hst := .liveHead, trace := ⟨[⟨0, 0, 0, 0, m⟩], [], [(4, m)], 0⟩ }) 5
    let rep := debugged (fun d => { d with hst := .replayHalt }) 5
    let shut : State := { s with hlock := s.hlock.map (fun _ => none) }
    let pf := debugged (fun d => { d with recording := true }) (2 ^ 20)
    let ing : State := { debugged (fun d => { d with hst := .replaying, goal := some 4, trace := ⟨[⟨0, 0, 0, 0, m⟩], [], [(4, m)], 0⟩ }) 5 with sched := [.tick 0] }
    ing.powered = true ∧ ing.frozen = false ∧ ing.closing.isNone = true ∧ ((ing.tile 0).dbg.trace.hist.find? (fun h => h.1 == 4)).isSome = true
      ∧ ((debugged (fun d => { d with hst := .liveHead }) 0).tile 0).m.ctr.retired = 0 ∧ (rep.tile 0).replays = true ∧
    s.portUp 0 = true ∧ s.fw.valid = true ∧ s.holds 0 (debugLock 0) = true ∧ shut.holds 0 (debugLock 0) = false
      ∧ (s.tile 0).atBoundary = true ∧ (head.tile 0).dbg.hst = .liveHead ∧ isConst (.s 3) = false ∧ m.ctr.retired.toNat ≤ (5 : W64).toNat
      ∧ head.liveRetired 0 = (head.tile 0).m.ctr.retired ∧ (4 : W64).toNat < (head.tile 0).m.ctr.retired.toNat
      ∧ head.landed 0 = true ∧ (head.modM 0 (loading 0x8000)).landed 0 = false
      ∧ (head.tile 0).dbg.trace.noProof 4 = false ∧ ((head.tile 0).dbg.trace.hist.find? (fun h => h.1 == 4)).isSome = true
      ∧ (rep.liveRetired 0).toNat ≤ ((rep.tile 0).m.ctr.retired + 1).toNat ∧ (pf.tile 0).suLive = true
      ∧ (pf.tile 0).m.su.wait.boundary = true ∧ pf.landed 0 = true ∧ (pf.tile 0).owesProof = true
      ∧ (s.tile 0).dbg.hst = .running ∧ ((s.modM 0 (fun m => { m with su := { m.su with wait := .retired } })).tile 0).atBoundary = false := by decide +kernel

/-! ### Single steps and single operations, with the results of the spec's examples and tables -/

/-- The state after a step that goes on, and the state itself where it does not. -/
def after (i : Instr) (s : State) : State := match exec i s with | .next t => t | .fault _ | .refused _ => s

/-- Tile 0 with two scalar registers set, after an instruction. -/
def ran (i : Instr) (a b : W64) : Member := ((after i (on (fun m => sreg 4 a (sreg 5 b m)))).tile 0).m

/-- The hidden face of a scalar register. -/
def hidS (m : Member) (i : Fin 64) : W64 := (m.f.s[i.val]).hid

/-- The value and the cycle of the last slow write. -/
def slowS (m : Member) : Option (W64 × Nat) := m.su.slow.getLast?.map (fun w => (w.val.setWidth 64, w.due))

/-- The table of R181, each result 20 cycles on (R179). -/
theorem test_division : slowS (ran (.div 3 4 5) (-7) 2) = some (-3, 20) ∧ slowS (ran (.rem 3 4 5) (-7) 2) = some (-1, 20)
    ∧ slowS (ran (.divu 3 4 5) 7 0) = some (0xFFFFFFFFFFFFFFFF, 20) ∧ slowS (ran (.remu 3 4 5) 7 0) = some (7, 20)
    ∧ slowS (ran (.div 3 4 5) (0x8000000000000000) (-1)) = some (0x8000000000000000, 20)
    ∧ slowS (ran (.rem 3 4 5) (0x8000000000000000) (-1)) = some (0, 20) := by decide +kernel

/-- `mulh` is signed and `mulhu` is not, and both land two cycles on (R179, R180). -/
theorem test_high_products : slowS (ran (.mulh 3 4 5) (-1) (-1)) = some (0, 2)
    ∧ slowS (ran (.mulhu 3 4 5) (-1) (-1)) = some (0xFFFFFFFFFFFFFFFE, 2) := by decide +kernel

/-- A sum wraps in the hidden face, and the visible face stays (R162, R180). -/
theorem test_add_wraps : hidS (ran (.add 4 4 5) (-1) 2) 4 = 1 ∧ (ran (.add 4 4 5) (-1) 2).sreg 4 = -1 := by decide +kernel

/-- The shifts ignore bits [63:6] of the amount, and `sra` rounds toward −∞ (R180). -/
theorem test_shifts : hidS (ran (.sra 3 4 5) (-7) 65) 3 = -4 ∧ hidS (ran (.shl 3 4 5) 3 64) 3 = 3
    ∧ hidS (ran (.shr 3 4 5) (-1) 63) 3 = 1 := by decide +kernel

/-- R182: the counts of 0, and a select by the visible face of its destination. -/
theorem test_counts : hidS (ran (.clz 3 4) 0 0) 3 = 64 ∧ hidS (ran (.ctz 3 4) 0 0) 3 = 64 ∧ hidS (ran (.popc 3 4) (-1) 0) 3 = 64
    ∧ hidS (ran (.clz 3 4) 1 0) 3 = 63 ∧ hidS (ran (.sel 3 4 5) 8 9) 3 = 9 ∧ hidS (ran (.sel 4 4 5) 8 9) 4 = 8 := by decide +kernel

/-- R183: `ori` extends with zeros and `slti` with the sign. -/
theorem test_immediates : hidS (ran (.ori 3 4 0xFFF) 0 0) 3 = 0xFFF ∧ hidS (ran (.slti 3 4 0xFFF) (-2) 0) 3 = 1
    ∧ hidS (ran (.sltui 3 4 0xFFF) (-2) 0) 3 = 0 := by decide +kernel

/-- The example of "Example: a spill, an overlapping refill and a multiply": bits 32 to 47 (R184). -/
theorem test_bfx : hidS (ran (.bfx 3 4 32 15) 0x11112222AABBCCDD 0) 3 = 0x2222
    ∧ hidS (ran (.bfxs 3 4 31 0) 0x80000000 0) 3 = -1 := by decide +kernel

/-- `lhi` puts its immediate above the lower half of its source (R185). -/
theorem test_lhi : hidS (ran (.lhi 3 4 0xDEADBEEF) 0x12345678 0) 3 = 0xDEADBEEF12345678
    ∧ hidS (ran (.li 3 0x80000000) 0 0) 3 = 0xFFFFFFFF80000000 := by decide +kernel

/-- The same example at cycle 21: bytes 0 to 3 of the load come from the store that waits (R191). -/
theorem test_load_takes_waiting_bytes :
    let s := on (fun m => sreg 4 0x10 { ownPage m with su := { m.su with stores := [⟨0, 0, 0x10, 4, 0xAABBCCDD, .own 0x10, none, false⟩], nextId := 1 } })
    ((after (.ldD 3 4 0) s).tile 0).m.su.loads.map (fun l => l.fwd)
      = [[some 0xDD, some 0xCC, some 0xBB, some 0xAA, none, none, none, none]] := by decide +kernel

/-- R180: `s0` takes no write, and the instruction goes on. -/
theorem test_s0_discards : (ran (.add 0 4 5) 1 2).f = ((on (fun m => sreg 4 1 (sreg 5 2 m))).tile 0).m.f ∧ hidS (ran (.add 0 4 5) 1 2) 0 = 0
    ∧ (ran (.add 0 4 5) 1 2).su.pc = 4 := by decide +kernel

/-- A taken branch counts from its own address (R309). -/
theorem test_branch : (ran (.beq 4 5 2) 6 6).su.pc = 8 ∧ (ran (.beq 4 5 2) 6 7).su.pc = 4 := by decide +kernel

/-- R379 and R381: a load at a misaligned address enters the handler with code 2 and the address. -/
theorem test_misaligned_load_traps :
    let m := ran (.ldD 3 4 0) 0x1001 0
    m.su.inHandler = true ∧ fld (m.ctl .tcause) 0 8 = 0x02 ∧ m.ctl .tval = 0x1001 ∧ m.ctl .tpc = 0 := by decide +kernel

/-- The examples of R202 and R203: 464 and 470 to e4m3. -/
theorem test_cvt_e4m3 :
    let e4m3 := NumFmt.fp true 4 3 7 .fn
    cvt (v32 0x43E80000) e4m3 .rne false = 0x7E ∧ cvt (v32 0x43EB0000) e4m3 .rne false = 0xFF
      ∧ cvt (v32 0x43EB0000) e4m3 .rne true = 0x7E := by decide +kernel

/-- The example of R205: a generator's step, and 1 + 3 × 2^−9 to BF16 under its bits. -/
theorem test_stochastic_rounding : genStep 0x12345678 = 0x87985AA5
    ∧ cvt (v32 0x3F80C000) bf16 .sr false (genBits 0x87985AA5) = 0x3F81
    ∧ cvt (v32 0x3F804000) bf16 .sr false (genBits 0x87985AA5) = 0x3F80 := by decide +kernel

/-- The example of R81, and those of R110 and the walk: stack 3 beside die 0; slice 336 of die 0. -/
theorem test_homes : stackOf 0x1234567800 = 3 ∧ dieOfPa 0x1234567800 = 0 ∧ stackOf 0x72345678 = 2 ∧ sliceOf 0x72345678 = 336 := by
  decide +kernel

/-- The worked example of R206 to R208: dword 6 of `wq`, with 64 elements and with 48. -/
def wq (n : Nat) : W512 := BitVec.ofNat 512 (0x541D7260 * 2 ^ 384 + n * 2 ^ 168 + 1 * 2 ^ 128)

theorem test_descriptor_checks : tdCheck (wq 64) = none ∧ tdCheck (wq 48) = some 5
    ∧ (tdOf (wq 64)).fmt = .fp true 4 3 7 .fn ∧ (tdOf (wq 64)).blkl = 5 := by decide +kernel

/-- The scaled elements of the same example. -/
theorem test_scaled_read :
    let f := NumFmt.fp true 4 3 7 .fn
    cvt (scaledVal f true 0x40 0x7D) fp32 .rne false = 0x3F000000 ∧ cvt (scaledVal f true 0xB8 0x7D) fp32 .rne false = 0xBE800000
      ∧ (scaledVal f true 0x7F 0x7D).isNan = true := by decide +kernel

/-- The worked example of R207: element (2, 5) of three rows of 128 items of bf16. -/
theorem test_item_address :
    (tdOf (BitVec.ofNat 512 (0x00800000_00000002 * 2 ^ 128 + 0x00030000_00000100 * 2 ^ 192 + 0x21 * 2 ^ 384))).itemAddr (2 * 128 + 5) = 522 := by
  decide +kernel

/-- The example of R266: the scale of a block of e4m3 whose largest magnitude is 1000. -/
theorem test_mx_scale : mxScale (.fp true 4 3 7 .fn) [v32 0x40400000, v32 0x3C23D70A, v32 0x447A0000] = 0x80
    ∧ cvt (v32 0x3FC00000) (.fp true 4 3 7 .fn) .rne false = 0x3C := by decide +kernel

/-- The example of R238: the sum of 2^24, 0, 1, 1 pairs its lanes. -/
theorem test_reduction_pairs :
    reduce .f32 (BitVec.allOnes 256) (vecOf .f32 (fun e => match e with | 0 => 0x4B800000 | 2 | 3 => 0x3F800000 | _ => 0)) (2 ^ 31)
      (arith .add .f32 .rne false 0) = 0x4B800001 := by decide +kernel

/-- The table of R227's example: `sq` at 1.5, 4, -5, infinity and a NaN, clamped and extended. -/
theorem test_table_sq :
    let m := { Member.reset with rows := [(2, (0x3F800000 : W32)), (5, 0x3F800000)] }
    let tip := fun (ext : Bool) (x : W32) => m.tip ⟨0xC0800000, 0x40800000, 2, 0, 0x3E800000, true⟩ ext x
    [0x3FC00000, 0x40800000, 0xC0A00000, 0x7F800000, 0x7FC00001].map (tip false)
        = [0x40100000, 0x41800000, 0x41800000, 0x41800000, 0x7FC00000]
      ∧ [0x3FC00000, 0x40800000, 0xC0A00000, 0x7F800000, 0x7FC00001].map (tip true)
        = [0x40100000, 0x41800000, 0x41C00000, 0x7F800000, 0x7FC00000] := by decide +kernel

/-- R230: an `i16` sum clamps with SAT and wraps without it, in every element. -/
theorem test_vadd_i16 :
    let s := on (fun m => { m with vf := { m.vf with v := m.vf.v.set 2 ⟨vecOf .i16 (fun _ => 0x7FFF), 0, false⟩ } })
    let r := fun (sat : Bool) => elemOf .i16 (((after (.vadd .i16 .rne sat 1 2 2 0) s).tile 0).m.vf.v[1]).hid 255
    r true = 0x7FFF ∧ r false = 0xFFFE := by decide +kernel

/-- R84 and R151: `atom.add` adds at the memory point, low byte first. -/
theorem test_atom_add :
    let s := put8 0x8000 0xFF (mapped (fun m => running (.atomAdd free none 4 5) (.rmw 0) (sreg 4 0x8000 (sreg 5 1 m))))
    let t := after (.rmwAtMemoryPoint 0 0 0) s
    byteAt t.mem 0x8000 = 0 ∧ byteAt t.mem 0x8001 = 1 := by decide +kernel

/-- The example of R371 at 10.4 us: the settle ends and the clock stands at point 13. -/
theorem test_settle_ends :
    let s := island (fun i => { i with reg := .settle 13, mv := 900, target := 13, curve := 0 })
    (((after (.rampSettleEnd 0) s).tile 0).isl.point = 13) := by decide +kernel

/-- The example of "A freeze with one port" (R391), and a request below 1,024 granules (R391). -/
theorem test_ceiling :
    let s : State := { State.reset with ports := State.reset.ports.set 0 { State.reset.ports[0] with lanes := 0 } }
    s.gmax = 6028144 ∧ { s with ceilReq := 0xFFFFFFFF }.ceiling = 6028144
      ∧ (((after (.ctlRd 3 .dceil) { on inTrap with ceilReq := 5 }).tile 0).m.f.sup[3]).hid = 1024 := by decide +kernel

/-- The order of R407: a firmware image below its stored version is rejected before the configuration image is looked at. -/
theorem test_image_reject :
    let f : Firmware := ⟨3, 4, 4, 5, 0, 0, false⟩
    f.rejected true false = 0x100 ∧ { f with fwver := 4 }.rejected true false = 0x101 ∧ f.rejected false false = 0 := by decide

/-- A launch gives the registers the record's values with no write of theirs pending (R170). -/
theorem test_launch_faces :
    let t := after (.memberLaunch 0) (launchable (7 * 2 ^ 320))
    (t.tile 0).st = .running ∧ (t.tile 0).m.ctl .jobid = 7 ∧ (t.tile 0).m.su.pc = 0x201000
      ∧ ((t.tile 0).m.f.ctl[Ctl.jobid.index.val]).w = false := by decide +kernel

end Sys2Proof.Tests
end

section
/-! Every step keeps the canonical form of the byte maps, and the reads of a byte map after a write. -/

namespace Sys2Proof.Machine

/-! ### Reads of byte maps (R7) -/

/-- Writing bytes changes no byte outside the addresses written. -/
theorem byteAt_putBytes_outside {m : SMap Byte} {a x : Nat} {bs : List Byte} (w : Memory.wf m)
    (hx : x < a ∨ a + bs.length ≤ x) : byteAt (putBytes m a bs) x = byteAt m x := by
  induction bs generalizing m a with
  | nil => rfl
  | cons b bs ih =>
    rw [List.length_cons] at hx
    have hne : x ≠ a := by omega
    calc byteAt (putBytes m a (b :: bs)) x
      _ = byteAt (SMap.set blankByte m a b) x := ih (SMap.wf_set blankByte a b w) (by omega)
      _ = byteAt m x := by rw [byteAt_set w, if_neg hne]

/-- Bytes read back as they were written: the bytes after the first are written above it and leave it. -/
theorem bytesAt_putBytes {m : SMap Byte} (a : Nat) (bs : List Byte) (w : Memory.wf m) :
    bytesAt (putBytes m a bs) a bs.length = bs := by
  induction bs generalizing m a with
  | nil => rfl
  | cons b bs ih =>
    have w' : Memory.wf (SMap.set blankByte m a b) := SMap.wf_set blankByte a b w
    have hfirst : byteAt (putBytes m a (b :: bs)) a = b :=
      calc byteAt (putBytes m a (b :: bs)) a
        _ = byteAt (SMap.set blankByte m a b) a := byteAt_putBytes_outside w' (.inl (Nat.lt_succ_self a))
        _ = b := by rw [byteAt_set w, if_pos rfl]
    exact congrArg₂ List.cons hfirst (ih (a + 1) w')

section Canonical

variable {α : Type} [DecidableEq α] {d : α}

omit [DecidableEq α] in
theorem SMap.get_cons_self (k : Nat) (v : α) (m : SMap α) : SMap.get d ((k, v) :: m) k = v := by
  simp [SMap.get]

omit [DecidableEq α] in
theorem SMap.get_cons_ne {k a : Nat} (h : k ≠ a) (v : α) (m : SMap α) : SMap.get d ((k, v) :: m) a = SMap.get d m a := by
  simp [SMap.get, h]

/-- The first listed key is no lower than a bound of a map that reads alike: below the bound that map reads as the default. -/
theorem SMap.le_head_of_get_eq {k lo : Nat} {v : α} {m n : SMap α} (hv : v ≠ d) (wn : SMap.wfFrom d lo n = true)
    (h : ∀ a, SMap.get d ((k, v) :: m) a = SMap.get d n a) : lo ≤ k := by
  by_contra hlt
  refine hv ?_
  rw [← SMap.get_cons_self (d := d) k v m, h, SMap.get_below d wn (by omega)]

/-- Maps in canonical form that read alike are the same list. -/
theorem SMap.eq_of_get_eq {lo lo' : Nat} {m n : SMap α} (wm : SMap.wfFrom d lo m = true) (wn : SMap.wfFrom d lo' n = true)
    (h : ∀ a, SMap.get d m a = SMap.get d n a) : m = n := by
  induction m generalizing lo lo' n with
  | nil =>
    cases n with
    | nil => rfl
    | cons e n =>
      obtain ⟨k, v⟩ := e
      exact absurd ((SMap.get_cons_self k v n).symm.trans (h k).symm) ((SMap.wfFrom_cons d lo' k v n).1 wn).2.1
  | cons e m ih =>
    obtain ⟨k, v⟩ := e
    obtain ⟨hk, hv, wm'⟩ := (SMap.wfFrom_cons d lo k v m).1 wm
    cases n with
    | nil => exact absurd ((SMap.get_cons_self k v m).symm.trans (h k)) hv
    | cons e' n =>
      obtain ⟨k', v'⟩ := e'
      obtain ⟨hk', hv', wn'⟩ := (SMap.wfFrom_cons d lo' k' v' n).1 wn
      have wk : SMap.wfFrom d k ((k, v) :: m) = true := (SMap.wfFrom_cons d k k v m).2 ⟨Nat.le_refl k, hv, wm'⟩
      have wk' : SMap.wfFrom d k' ((k', v') :: n) = true := (SMap.wfFrom_cons d k' k' v' n).2 ⟨Nat.le_refl k', hv', wn'⟩
      obtain rfl : k = k' :=
        Nat.le_antisymm (SMap.le_head_of_get_eq hv' wk (fun a => (h a).symm)) (SMap.le_head_of_get_eq hv wk' h)
      have htail (a : Nat) : SMap.get d m a = SMap.get d n a := by
        by_cases e : k = a
        · rw [SMap.get_below d wm' (by omega), SMap.get_below d wn' (by omega)]
        · rw [← SMap.get_cons_ne e v m, ← SMap.get_cons_ne e v' n, h]
      rw [ih wm' wn' htail, ← SMap.get_cons_self (d := d) k v m, h, SMap.get_cons_self]

end Canonical

/-! ### Every step keeps the canonical form -/

/-- Every instruction and step keeps the canonical form of the byte maps. The split leaves one goal for each constructor,
which the `simp` law of its meaning closes (`execAdd_memOk` and its like, Laws/KeepB to KeepD). -/
theorem exec_memOk (i : Instr) (s : State) (hk : s.memOk = true) : ansMemOk (exec i s) = true := by
  cases i <;> (dsimp only [exec]; simp [hk])

/-- One step keeps it: the plan does, and so does the instruction that the plan runs. -/
theorem step_memOk (s : State) (hk : s.memOk = true) : ansMemOk (step s) = true := by
  have hp : s.plan.memOk = true := State.plan_memOk s hk
  unfold step
  cases h : s.plan with
  | run i s' =>
    rw [h] at hp
    exact exec_memOk i s' hp
  | stay s' =>
    rw [h] at hp
    exact hp
  | off => rfl

/-- Settles O6: the plan of the turn and the meaning of every instruction keep the form. -/
theorem stepKeepsMemoryForm : Obligations.StepKeepsMemoryForm := by
  intro s t hs ht
  have h : ansMemOk (step s) = true := step_memOk s hs
  rwa [ht] at h

/-- Settles O8, by induction on the bytes written, and on the two lists at once for equal reads. -/
theorem byteMaps : Obligations.ByteMaps :=
  ⟨fun _ a bs w => ⟨putBytes_wf bs a w, bytesAt_putBytes a bs w, fun _ hx => byteAt_putBytes_outside w hx⟩,
    fun _ _ wm wn h => SMap.eq_of_get_eq wm wn h⟩

end Sys2Proof.Machine
end

section
/-! The elements and the predicate mask of a vector register, bit by bit. -/

namespace Sys2Proof.Machine

/-! ### Packed elements (R35, R215) -/

/-- Packed elements fill no more than their `w * n` bits, so the next element starts above them. -/
theorem packElems_lt (w : Nat) (f : Nat → Nat) (n : Nat) : packElems w f n < 2 ^ (w * n) := by
  induction n with
  | zero => simp [packElems]
  | succ n ih =>
    have hlast : f n % 2 ^ w < 2 ^ w := Nat.mod_lt _ (Nat.two_pow_pos w)
    calc packElems w f n + f n % 2 ^ w * 2 ^ (w * n)
      _ < (f n % 2 ^ w + 1) * 2 ^ (w * n) := by rw [Nat.succ_mul]; omega
      _ ≤ 2 ^ w * 2 ^ (w * n) := Nat.mul_le_mul_right _ hlast
      _ = 2 ^ (w * (n + 1)) := by rw [← Nat.pow_add, Nat.mul_succ, Nat.add_comm]

/-- Bit `j` of element `e` of packed elements is bit `j` of its code. By induction on the number of elements: the bit lies in
the last element, or below it. -/
theorem testBit_packElems {w n e j : Nat} (f : Nat → Nat) (he : e < n) (hj : j < w) :
    (packElems w f n).testBit (w * e + j) = (f e).testBit j := by
  induction n with
  | zero => exact absurd he (Nat.not_lt_zero e)
  | succ n ih =>
    have hsplit : packElems w f (n + 1) = 2 ^ (w * n) * (f n % 2 ^ w) + packElems w f n := by
      rw [packElems, Nat.add_comm, Nat.mul_comm]
    rw [hsplit, Nat.testBit_two_pow_mul_add _ (packElems_lt w f n)]
    obtain hlt | rfl := Nat.lt_succ_iff_lt_or_eq.1 he
    · have hbelow : w * e + j < w * n :=
        calc w * e + j
          _ < w * (e + 1) := by rw [Nat.mul_succ]; omega
          _ ≤ w * n := Nat.mul_le_mul_left w hlt
      rw [if_pos hbelow, ih hlt]
    · rw [if_neg (by omega), Nat.add_sub_cancel_left, Nat.testBit_mod_two_pow]
      simp [hj]

/-! ### Elements of a vector register -/

/-- The elements of each type fill the register. -/
theorem vtyBits_mul_count (ty : VTy) : vtyBits ty * ty.count = 4096 := by
  cases ty <;> rfl

/-- The bits of an element lie in the register. -/
theorem elemBit_lt {ty : VTy} {e j : Nat} (he : e < ty.count) (hj : j < vtyBits ty) : vtyBits ty * e + j < 4096 :=
  calc vtyBits ty * e + j
    _ < vtyBits ty * (e + 1) := by rw [Nat.mul_succ]; omega
    _ ≤ vtyBits ty * ty.count := Nat.mul_le_mul_left _ he
    _ = 4096 := vtyBits_mul_count ty

/-- Bit `j` of element `e` of a register of packed elements. -/
theorem getLsbD_packElems {ty : VTy} {e j : Nat} (f : Nat → Nat) (he : e < ty.count) (hj : j < vtyBits ty) :
    (BitVec.ofNat 4096 (packElems (vtyBits ty) f ty.count)).getLsbD (vtyBits ty * e + j) = (f e).testBit j := by
  rw [BitVec.getLsbD_ofNat, testBit_packElems f he hj, decide_eq_true (elemBit_lt he hj), Bool.true_and]

/-- Lanes of 32 bits and slots of 16 bits alike: an element is the field of its type's width at its place (R215). -/
theorem elemOf_eq_fld (ty : VTy) (v : W4096) (e : Nat) : elemOf ty v e = fld v (vtyBits ty * e) (vtyBits ty) := by
  unfold elemOf vtyBits
  split <;> rfl

/-- An element of a vector built from codes is its code, cut to the width of its type. -/
theorem elemOf_vecOf {ty : VTy} {e : Nat} (f : Nat → Nat) (he : e < ty.count) :
    elemOf ty (vecOf ty f) e = f e % 2 ^ vtyBits ty := by
  rw [elemOf_eq_fld, fld]
  refine Nat.eq_of_testBit_eq fun j => ?_
  rw [BitVec.testBit_toNat, BitVec.getLsbD_extractLsb', Nat.testBit_mod_two_pow]
  by_cases hj : j < vtyBits ty
  · rw [vecOf, getLsbD_packElems f he hj]
  · simp [hj]

/-- The mask of a predicate holds each bit of an active element and none of another. -/
theorem getLsbD_maskOf {ty : VTy} {e j : Nat} (p : BitVec 256) (he : e < ty.count) (hj : j < vtyBits ty) :
    (maskOf ty p).getLsbD (vtyBits ty * e + j) = active ty p e := by
  rw [maskOf, getLsbD_packElems _ he hj]
  cases active ty p e with
  | true => simp [Nat.testBit_two_pow_sub_one, hj]
  | false => simp

/-- Settles O38: both clauses read the bits of packed elements. -/
theorem vectorElements : Obligations.VectorElements :=
  fun _ f p _ he => ⟨elemOf_vecOf f he, fun _ hj => getLsbD_maskOf p he hj⟩

end Sys2Proof.Machine
end

section
/-! What the operations under the steps of links and collective engines leave unchanged: the links, the dies, memory. -/

namespace Sys2Proof.Machine

/-! ### One link or die changed -/

/-- A quantity that no step of a fold changes. -/
theorem foldl_keeps {α β : Type} (g : State → β) {f : State → α → State} (h : ∀ s x, g (f s x) = g s) (xs : List α) (s : State) :
    g (xs.foldl f s) = g s := by
  induction xs generalizing s with
  | nil => rfl
  | cons x xs ih => exact (ih _).trans (h s x)

/-- A quantity that an optional step does not change. -/
theorem keeps_ite {β : Type} (g : State → β) (c : Prop) [Decidable c] {u v : State} (h : g u = g v) :
    g (if c then u else v) = g v := by
  split
  · exact h
  · rfl

theorem sameMemory_of_mem_eq {s t : State} (h : t.mem = s.mem) : sameMemory s t := fun a => congrArg (byteAt · a) h

@[simp] theorem getElem_vmap {α β : Type} {n : Nat} (v : Vector α n) (f : α → β) (i : Nat) (h : i < n) :
    (vmap v f)[i] = f v[i] := by
  simp [vmap]

@[simp] theorem State.link_modLink (s : State) (l : LinkId) (f : Link → Link) :
    (s.modLink l f).links[l.val] = f s.links[l.val] := by
  simp [State.modLink]

theorem State.link_modLink_ne (s : State) {l k : LinkId} (f : Link → Link) (h : l ≠ k) :
    (s.modLink l f).links[k.val] = s.links[k.val] :=
  Vector.getElem_set_ne l.isLt k.isLt (fun e => h (Fin.ext e))

@[simp] theorem State.die_modDie (s : State) (d : DieId) (f : Die → Die) : (s.modDie d f).dies[d.val] = f s.dies[d.val] := by
  simp [State.modDie]

theorem State.modDie_eq_self {s : State} {d : DieId} {f : Die → Die} (h : f s.dies[d.val] = s.dies[d.val]) : s.modDie d f = s := by
  simp [State.modDie, h]

/-- What a change of one die keeps of that die, it keeps of every die. -/
theorem State.modDie_keeps {β : Type} (g : Die → β) (s : State) (d e : DieId) {f : Die → Die} (h : ∀ x, g (f x) = g x) :
    g (s.modDie d f).dies[e.val] = g s.dies[e.val] := by
  by_cases hd : d = e
  · subst hd
    rw [State.die_modDie, h]
  · exact congrArg g (Vector.getElem_set_ne d.isLt e.isLt (fun he => hd (Fin.ext he)))

@[simp] theorem State.modCe_mem (s : State) (d : DieId) (k : Nat) (f : CeRun → CeRun) : (s.modCe d k f).mem = s.mem := rfl
@[simp] theorem State.modCe_links (s : State) (d : DieId) (k : Nat) (f : CeRun → CeRun) : (s.modCe d k f).links = s.links := rfl
@[simp] theorem State.modCe_eventSeq (s : State) (d : DieId) (k : Nat) (f : CeRun → CeRun) :
    (s.modCe d k f).eventSeq = s.eventSeq := rfl
@[simp] theorem State.ce_modCe (s : State) (d : DieId) (k : Nat) (f : CeRun → CeRun) :
    (s.modCe d k f).dies[d.val].ce = listMod s.dies[d.val].ce k f := by
  simp [State.modCe]
@[simp] theorem State.rc_modCe (s : State) (d : DieId) (k : Nat) (f : CeRun → CeRun) :
    (s.modCe d k f).dies[d.val].rc = s.dies[d.val].rc := by
  simp [State.modCe]

@[simp] theorem State.modHome_mem (s : State) (o : Owner) (f : Member → Member) : (s.modHome o f).mem = s.mem := by
  cases o <;> rfl
@[simp] theorem State.modHome_links (s : State) (o : Owner) (f : Member → Member) : (s.modHome o f).links = s.links := by
  cases o <;> rfl
@[simp] theorem State.modHome_eventSeq (s : State) (o : Owner) (f : Member → Member) :
    (s.modHome o f).eventSeq = s.eventSeq := by
  cases o <;> rfl

@[simp] theorem State.ceFault_mem (s : State) (d : DieId) (k : Nat) (r : CeRun) (code reason : BitVec 8) (kind : BitVec 2)
    (tval : W64) : (s.ceFault d k r code reason kind tval).mem = s.mem := by
  simp [State.ceFault]
@[simp] theorem State.ceFault_links (s : State) (d : DieId) (k : Nat) (r : CeRun) (code reason : BitVec 8) (kind : BitVec 2)
    (tval : W64) : (s.ceFault d k r code reason kind tval).links = s.links := by
  simp [State.ceFault]
@[simp] theorem State.ceFault_eventSeq (s : State) (d : DieId) (k : Nat) (r : CeRun) (code reason : BitVec 8) (kind : BitVec 2)
    (tval : W64) : (s.ceFault d k r code reason kind tval).eventSeq = s.eventSeq := by
  simp [State.ceFault]

/-! ### Fabric cycles, events and wakes -/

@[simp] theorem State.inCycle_mem (s : State) (ok : Fab → Bool) : (s.inCycle ok).mem = s.mem := by
  unfold State.inCycle
  split <;> rfl
@[simp] theorem State.inCycle_links (s : State) (ok : Fab → Bool) : (s.inCycle ok).links = s.links := by
  unfold State.inCycle
  split <;> rfl
@[simp] theorem State.inCycle_dies (s : State) (ok : Fab → Bool) : (s.inCycle ok).dies = s.dies := by
  unfold State.inCycle
  split <;> rfl
@[simp] theorem State.inCycle_fleet (s : State) (ok : Fab → Bool) : (s.inCycle ok).fleet = s.fleet := by
  unfold State.inCycle
  split <;> rfl
@[simp] theorem State.inCycle_fleetSync (s : State) (ok : Fab → Bool) : (s.inCycle ok).fleetSync = s.fleetSync := by
  unfold State.inCycle
  split <;> rfl

@[simp] theorem State.logEvent_mem (s : State) (code src : Half) (data : BitVec 128) : (s.logEvent code src data).mem = s.mem := by
  simp [State.logEvent]
@[simp] theorem State.logEvent_links (s : State) (code src : Half) (data : BitVec 128) :
    (s.logEvent code src data).links = s.links := by
  simp [State.logEvent]
@[simp] theorem State.logEvent_dies (s : State) (code src : Half) (data : BitVec 128) :
    (s.logEvent code src data).dies = s.dies := by
  simp [State.logEvent]
@[simp] theorem State.logEvent_fleet (s : State) (code src : Half) (data : BitVec 128) :
    (s.logEvent code src data).fleet = s.fleet := by
  simp [State.logEvent]
@[simp] theorem State.logEvent_eventSeq (s : State) (code src : Half) (data : BitVec 128) :
    (s.logEvent code src data).eventSeq = s.eventSeq + 1 := rfl

@[simp] theorem State.joinNote_mem (s : State) (src : Half) (a : Nat) : (s.joinNote src a).mem = s.mem := by
  unfold State.joinNote
  split <;> simp
@[simp] theorem State.joinNote_links (s : State) (src : Half) (a : Nat) : (s.joinNote src a).links = s.links := by
  unfold State.joinNote
  split <;> simp
@[simp] theorem State.joinNote_dies (s : State) (src : Half) (a : Nat) : (s.joinNote src a).dies = s.dies := by
  unfold State.joinNote
  split <;> simp

@[simp] theorem State.wake_mem (s : State) (a n : Nat) : (s.wake a n).mem = s.mem :=
  foldl_keeps State.mem (fun _ _ => State.modM_mem ..) _ s
@[simp] theorem State.wake_links (s : State) (a n : Nat) : (s.wake a n).links = s.links :=
  foldl_keeps State.links (fun _ _ => State.modM_links ..) _ s
@[simp] theorem State.wake_dies (s : State) (a n : Nat) : (s.wake a n).dies = s.dies :=
  foldl_keeps State.dies (fun _ _ => State.modM_dies ..) _ s

/-! ### Renewal of check bits (R78) -/

@[simp] theorem State.unitRenew_mem (s : State) (t : TileId) (tgt : Target) : (s.unitRenew t tgt).mem = s.mem := by
  unfold State.unitRenew
  split <;> rfl
@[simp] theorem State.unitRenew_links (s : State) (t : TileId) (tgt : Target) : (s.unitRenew t tgt).links = s.links := by
  unfold State.unitRenew
  split <;> rfl
@[simp] theorem State.wordRenew_mem (s : State) (t : TileId) (tgt : Target) : (s.wordRenew t tgt).mem = s.mem := by
  unfold State.wordRenew
  dsimp only
  split <;> rfl
@[simp] theorem State.wordRenew_links (s : State) (t : TileId) (tgt : Target) : (s.wordRenew t tgt).links = s.links := by
  unfold State.wordRenew
  dsimp only
  split <;> rfl

/-- What the renewal of one unit and of one word keep, a renewal keeps. -/
theorem State.renew_keeps {β : Type} (g : State → β) (hu : ∀ s t tgt, g (State.unitRenew s t tgt) = g s)
    (hw : ∀ s t tgt, g (State.wordRenew s t tgt) = g s) (s : State) (t : TileId) (ws : List (Target × Nat)) :
    g (s.renew t ws) = g s :=
  foldl_keeps g (fun st _ => (keeps_ite g _ (hw ..)).trans (keeps_ite g _ (hu st ..))) ws s

@[simp] theorem State.renew_mem (s : State) (t : TileId) (ws : List (Target × Nat)) : (s.renew t ws).mem = s.mem :=
  State.renew_keeps State.mem State.unitRenew_mem State.wordRenew_mem s t ws
@[simp] theorem State.renew_links (s : State) (t : TileId) (ws : List (Target × Nat)) : (s.renew t ws).links = s.links :=
  State.renew_keeps State.links State.unitRenew_links State.wordRenew_links s t ws

/-! ### A write that reaches DRAM (R269, R389) -/

@[simp] theorem State.markWrite_mem (s : State) (a : Nat) : (s.markWrite a).mem = s.mem := by
  unfold State.markWrite
  dsimp only
  split <;> rfl
@[simp] theorem State.markWrite_links (s : State) (a : Nat) : (s.markWrite a).links = s.links := by
  unfold State.markWrite
  dsimp only
  split <;> rfl
@[simp] theorem State.markWrite_dies (s : State) (a : Nat) : (s.markWrite a).dies = s.dies := by
  unfold State.markWrite
  dsimp only
  split <;> rfl

@[simp] theorem State.dramPut_mem (s : State) (a : Nat) (bs : List Byte) : (s.dramPut a bs).mem = putBytes s.mem a bs :=
  State.markWrite_mem ..
@[simp] theorem State.dramPut_links (s : State) (a : Nat) (bs : List Byte) : (s.dramPut a bs).links = s.links :=
  State.markWrite_links ..
@[simp] theorem State.dramPut_dies (s : State) (a : Nat) (bs : List Byte) : (s.dramPut a bs).dies = s.dies :=
  State.markWrite_dies ..

/-- A write at an address of DRAM that no stash owns, no barrier object covers and no ceiling holds. -/
structure State.OpenDram (s : State) (a : Nat) : Prop where
  dram : regionOf a = .dram
  unowned : s.ownerOf a = none
  noBarrier : s.inBarrier a = false
  noCeiling : s.ceilHolds a = false

/-- Such a write is performed: it puts its bytes into memory and changes no link and no die. -/
theorem State.writeAt_openDram {s : State} {a : Nat} (h : s.OpenDram a) (src : Half) (mt : BitVec 2) (wakes : Bool)
    (bs : List Byte) : ∃ u, s.writeAt src a mt wakes bs = (u, .ok ()) ∧ u.mem = putBytes s.mem a bs ∧ u.links = s.links
      ∧ u.dies = s.dies := by
  have hput : s.putAt a bs = (s.dramPut a bs, .ok ()) := by
    simp [State.putAt, h.dram, h.unowned, h.noCeiling]
  simp only [State.writeAt, hput, h.noBarrier, Bool.false_eq_true, and_false, if_false]
  refine ⟨_, rfl, ?_⟩
  split <;> simp

/-- Writing bytes changes no byte outside the addresses written, whatever the form of the map. -/
theorem byteAt_putBytes_off (m : SMap Byte) {a x : Nat} {bs : List Byte} (hx : x < a ∨ a + bs.length ≤ x) :
    byteAt (putBytes m a bs) x = byteAt m x := by
  induction bs generalizing m a with
  | nil => rfl
  | cons b bs ih =>
    rw [List.length_cons] at hx
    have hne : x ≠ a := by omega
    have hset : byteAt (SMap.set blankByte m a b) x = byteAt m x := by
      unfold byteAt SMap.set
      split
      · exact SMap.get_erase_ne blankByte a x hne m
      · rw [SMap.get_insert, if_neg hne]
    exact (ih (SMap.set blankByte m a b) (by omega)).trans hset

/-! ### The steps' meanings -/

theorem exec_packetReceive (l : LinkId) (p : Incoming) (crcOk : Bool) (s : State) :
    exec (.packetReceive l p crcOk) s = execPacketReceive l p crcOk s := rfl
theorem exec_linkReplay (l : LinkId) (seq : Nat) (s : State) : exec (.linkReplay l seq) s = execLinkReplay l seq s := rfl
theorem exec_linkPacketStart (l : LinkId) (s : State) : exec (.linkPacketStart l) s = execLinkPacketStart l s := rfl
theorem exec_windowGrant (l : LinkId) (tag : BitVec 8) (g : Granted) (credits : Nat) (s : State) :
    exec (.windowGrant l tag g credits) s = execWindowGrant l tag g credits s := rfl
theorem exec_cePacketLand (l : LinkId) (s : State) : exec (.cePacketLand l) s = execCePacketLand l s := rfl
theorem exec_fleetTimeExchange (ahead : Bool) (err : W64) (s : State) :
    exec (.fleetTimeExchange ahead err) s = execFleetTimeExchange ahead err s := rfl

end Sys2Proof.Machine
end

section
/-! The steps of a link aside from its collective engine: widths, packets received, replay, fleet time and slot tables (R48,
R281, R283, R285, R288, R290). -/

namespace Sys2Proof.Machine

/-! ### Widths (R48, R281) -/

/-- What events and engine faults leave alone, a link's training changes in the link itself only. -/
theorem State.setLanes_keeps {β : Type} (g : State → β) (hlog : ∀ s code src data, g (State.logEvent s code src data) = g s)
    (hfault : ∀ s d k r code reason kind tval, g (State.ceFault s d k r code reason kind tval) = g s)
    (s : State) (l : LinkId) (lanes : BitVec 2) (failed : Bool) :
    g (s.setLanes l lanes failed) = g (s.modLink l (fun y => { y with
      lanes := lanes, training := false, out := if lanes = 0 then y.out else y.out ++ y.replay })) := by
  unfold State.setLanes
  dsimp only
  refine (keeps_ite g _ (foldl_keeps g (fun st k => ?_) _ _)).trans
    ((keeps_ite g _ (hlog ..)).trans (keeps_ite g _ (hlog ..)))
  split
  · exact keeps_ite g _ (hfault ..)
  · rfl

@[simp] theorem State.setLanes_mem (s : State) (l : LinkId) (lanes : BitVec 2) (failed : Bool) :
    (s.setLanes l lanes failed).mem = s.mem :=
  State.setLanes_keeps State.mem State.logEvent_mem State.ceFault_mem s l lanes failed

theorem State.link_setLanes (s : State) (l : LinkId) (lanes : BitVec 2) (failed : Bool) :
    (s.setLanes l lanes failed).links[l.val] = { s.links[l.val] with
      lanes := lanes, training := false
      out := if lanes = 0 then s.links[l.val].out else s.links[l.val].out ++ s.links[l.val].replay } := by
  rw [State.setLanes_keeps State.links State.logEvent_links State.ceFault_links, State.link_modLink]

/-- A lane failure logs LINK_WIDTH, and LINK_UPDOWN too where the link was down. -/
theorem State.setLanes_eventSeq (s : State) (l : LinkId) {lanes : BitVec 2} (h : lanes ≠ 0) :
    (s.setLanes l lanes true).eventSeq = s.eventSeq + if s.links[l.val].lanes = 0 then 2 else 1 := by
  have h' : ¬ lanes = 0#2 := h
  unfold State.setLanes
  by_cases hold : s.links[l.val].lanes = 0#2
  · simp [h', hold, BitVec.add_assoc]
  · simp [h', hold]

/-- The width after a lane failure (R48): the narrower of the width before it and the one that still works. -/
def narrowed (eight : Bool) (old : BitVec 2) : BitVec 2 :=
  if old ≠ 0 ∧ old.toNat < (if eight then 2 else 1 : BitVec 2).toNat then old else if eight then 2 else 1

theorem narrowed_ne_zero : ∀ (eight : Bool) (old : BitVec 2), narrowed eight old ≠ 0 := by decide

theorem narrowed_toNat : ∀ (eight : Bool) (old : BitVec 2),
    (narrowed eight old).toNat = if old = 0 then (if eight then 2 else 1) else min old.toNat (if eight then 2 else 1) := by
  decide

theorem exec_laneFailure (l : LinkId) (eight : Bool) (s : State) :
    exec (.laneFailure l eight) s = .next (s.setLanes l (narrowed eight s.links[l.val].lanes) true) := rfl

/-! ### Packets received (R283, R285) -/

theorem Link.up_iff (y : Link) : y.up = true ↔ y.lanes ≠ 0#2 ∧ y.training = false := by
  simp [Link.up]

section
variable {s : State} {l : LinkId} (hup : s.links[l.val].up = true)
include hup

theorem exec_packetReceive_data (p : Packet) (crcOk : Bool) :
    exec (.packetReceive l ⟨s.links[l.val].recvSeq, .data p, Packet.crc p⟩ crcOk) s = .next (s.arrive l (.data p)) := by
  simp [exec_packetReceive, execPacketReceive, Incoming.passes, hup]

theorem exec_packetReceive_write (pa : W64) (bs : List Byte) (crc : W32) :
    exec (.packetReceive l ⟨s.links[l.val].recvSeq, .write pa bs, crc⟩ true) s = .next (s.arrive l (.write pa bs)) := by
  simp [exec_packetReceive, execPacketReceive, Incoming.passes, hup]

theorem exec_packetReceive_ack (seq upTo : Nat) (crc : W32) :
    exec (.packetReceive l ⟨seq, .ack upTo, crc⟩ true) s = .next (s.arrive l (.ack upTo)) := by
  simp [exec_packetReceive, execPacketReceive, Incoming.passes, hup]

/-- A packet whose CRC differs, or one out of sequence, changes nothing but the replay request that goes out for it. -/
theorem exec_packetReceive_refused {p : Incoming} {crcOk : Bool}
    (h : Incoming.passes p crcOk = false ∨ (p.seq ≠ s.links[l.val].recvSeq ∧ ∀ n, p.what ≠ .ack n)) :
    exec (.packetReceive l p crcOk) s
      = .next (s.modLink l (fun y => { y with ctl := y.ctl ++ [CtlPacket.replay p.seq] })) := by
  obtain hcrc | ⟨hseq, hack⟩ := h
  · simp [exec_packetReceive, execPacketReceive, hup, hcrc]
  · cases hw : p.what with
    | data q => simp [exec_packetReceive, execPacketReceive, hup, hw, hseq]
    | write pa bs => simp [exec_packetReceive, execPacketReceive, hup, hw, hseq]
    | ack n => exact absurd hw (hack n)

end

/-- The pieces of bytes within one aligned 8-byte word are the bytes themselves. -/
theorem bytePieces_oneWord {a : Nat} {bs : List Byte} (hpos : 1 ≤ bs.length) (hword : a % 8 + bs.length ≤ 8) :
    bytePieces a bs = [(a, bs)] := by
  have hmin : min bs.length (8 - a % 8) = bs.length := by omega
  obtain ⟨n, hn⟩ : ∃ n, bs.length = n + 1 := ⟨bs.length - 1, by omega⟩
  have hpieces : paPieces (bs.length + 1) a bs.length = [(a, bs.length)] := by
    rw [paPieces, if_neg (by omega), hmin, hn]
    simp [paPieces]
  simp [bytePieces, hpieces]

theorem regionOf_eq_dram_iff (a : Nat) : regionOf a = .dram ↔ a < 0x8000000000 := by
  unfold regionOf
  split_ifs <;> simp [*]

/-- Bytes of one aligned word that begin in DRAM end there: the region ends at a word boundary. -/
theorem regionOf_oneWord {a n : Nat} (hdram : regionOf a = .dram) (hword : a % 8 + n ≤ 8) : regionOf (a + n - 1) = .dram := by
  rw [regionOf_eq_dram_iff] at hdram ⊢
  omega

/-- A peer's write of one word: its bytes reach memory, and the link accepts it. -/
theorem State.arrive_write {s : State} {pa : W64} {bs : List Byte} (hopen : s.OpenDram pa.toNat) (l : LinkId)
    (hpos : 1 ≤ bs.length) (hword : pa.toNat % 8 + bs.length ≤ 8) :
    (s.arrive l (.write pa bs)).mem = putBytes s.mem pa.toNat bs
      ∧ (s.arrive l (.write pa bs)).links[l.val] = s.links[l.val].accept := by
  obtain ⟨u, hwrite, hmem, hlinks, -⟩ := State.writeAt_openDram hopen (srcLink l) (0#2) true bs
  have hput : s.outsidePut (srcLink l) [(pa.toNat, bs)] = (u.renew 0 [(.pa pa.toNat 0, bs.length)], []) := by
    simp [State.outsidePut, State.outsideWrites, hwrite, pieceSpans]
  simp [State.arrive, hopen.dram, regionOf_oneWord hopen.dram hword, bytePieces_oneWord hpos hword, hput, hmem, hlinks]

/-- A data packet that is accepted waits on its link to land. -/
theorem State.link_arrive_data (s : State) (l : LinkId) (p : Packet) :
    (s.arrive l (.data p)).links[l.val] = { s.links[l.val].accept with recv := s.links[l.val].recv ++ [p] } :=
  State.link_modLink ..

/-- What an acknowledgement covers leaves the replay buffer. -/
theorem State.link_arrive_ack (s : State) (l : LinkId) (n : Nat) : (s.arrive l (.ack n)).links[l.val]
    = { s.links[l.val] with replay := s.links[l.val].replay.filter (fun f => f.fromSeq n), fails := (0, 0) } :=
  State.link_modLink ..

/-! ### Replay (R283) -/

/-- A request that is not the ninth in succession for its packet sends the stored packets from its number on. -/
theorem exec_linkReplay_resend {s : State} {l : LinkId} {seq : Nat} (hup : s.links[l.val].up = true)
    (h : ¬ (s.links[l.val].fails.1 = seq ∧ 8 ≤ s.links[l.val].fails.2)) :
    ∃ n, exec (.linkReplay l seq) s = .next (s.modLink l (fun y => { y with
      out := y.out ++ y.replay.filter (fun f => f.fromSeq seq), fails := (seq, n) })) := by
  refine ⟨if s.links[l.val].fails.1 = seq then s.links[l.val].fails.2 + 1 else 1, ?_⟩
  have hfew : ¬ 8 < if s.links[l.val].fails.1 = seq then s.links[l.val].fails.2 + 1 else 1 := by
    split <;> omega
  simp [exec_linkReplay, execLinkReplay, hup, State.modLink, hfew]

/-- The ninth request in succession for a packet retrains the link. -/
theorem exec_linkReplay_retrain {s : State} {l : LinkId} (hup : s.links[l.val].up = true)
    (h : 8 ≤ s.links[l.val].fails.2) :
    exec (.linkReplay l s.links[l.val].fails.1) s
      = .next (s.modLink l (fun y => { y with training := true, fails := (0, 0) })) := by
  have hmany : 8 < s.links[l.val].fails.2 + 1 := by omega
  simp [exec_linkReplay, execLinkReplay, hup, State.modLink, hmany]

/-! ### Fleet time and slot tables (R288, R290) -/

/-- The timestamps of a multiple of 16,000 ns that have not gone out yet. -/
theorem State.sendStamps_due {s : State} (h0 : s.fleet.toNat % 16000 = 0) (hdue : s.fleetSync.exchanged ≤ s.fleet.toNat / 16000) :
    s.sendStamps = { s with
      fleetSync := { s.fleetSync with exchanged := s.fleet.toNat / 16000 + 1 }
      links := vmap s.links (fun y => if y.lanes = 0 then y else { y with ctl := y.ctl ++ [CtlPacket.time s.fleet] }) } := by
  have hk : ¬ s.fleet.toNat / 16000 + 1 ≤ s.fleetSync.exchanged := by omega
  simp [State.sendStamps, h0, hk]

/-- The package after the timestamps of both sides have crossed: each link that is up has sent one and accepted one. -/
def State.stamped (s : State) : State :=
  { s.sendStamps with links := vmap s.sendStamps.links (fun y => if y.up then y.accept else y) }

theorem State.stamped_mem (s : State) : s.stamped.mem = s.mem := by
  unfold State.stamped State.sendStamps
  dsimp only
  split <;> rfl

theorem State.stamped_fleet (s : State) : s.stamped.fleet = s.fleet := by
  unfold State.stamped State.sendStamps
  dsimp only
  split <;> rfl

theorem State.stamped_ctl {s : State} {l : LinkId} (h0 : s.fleet.toNat % 16000 = 0)
    (hdue : s.fleetSync.exchanged ≤ s.fleet.toNat / 16000) (hup : s.links[l.val].up = true) :
    s.stamped.links[l.val].ctl
      = s.links[l.val].ctl ++ [CtlPacket.time s.fleet, CtlPacket.ack (s.links[l.val].recvSeq + 1)] := by
  obtain ⟨hlanes, htrain⟩ := (Link.up_iff _).1 hup
  simp [State.stamped, State.sendStamps_due h0 hdue, hlanes, htrain, Link.up, Link.accept]

/-- An exchange: the timestamps cross, a large error is logged, and the difference from the master's time is noted to slew. -/
theorem exec_fleetTimeExchange_due {s : State} (ahead : Bool) (err : W64) (h0 : s.fleet.toNat % 16000 = 0)
    (hdue : s.fleetSync.exchanged ≤ s.fleet.toNat / 16000) :
    ∃ u : State, u.mem = s.mem ∧ u.fleet = s.fleet ∧ u.links = s.stamped.links
      ∧ exec (.fleetTimeExchange ahead err) s = .next { u with
        fleetErr := decide (10 < err.toNat)
        fleetSync := { u.fleetSync with
          due := if s.cfg.master then 0 else if ahead then (err.toNat : Int) else -(err.toNat : Int) } } := by
  have hgo : ¬ s.fleet.toNat / 16000 < s.fleetSync.exchanged := by omega
  refine ⟨if 10 < err.toNat then s.stamped.logEvent 0x0A srcFw (evData 0 err.toNat) else s.stamped, ?_, ?_, ?_, ?_⟩
  · exact (keeps_ite State.mem _ (State.logEvent_mem ..)).trans s.stamped_mem
  · exact (keeps_ite State.fleet _ (State.logEvent_fleet ..)).trans s.stamped_fleet
  · exact keeps_ite State.links _ (State.logEvent_links ..)
  · simp [exec_fleetTimeExchange, execFleetTimeExchange, h0, hgo, State.stamped]

/-- A table written before this multiple of 262,144 ns becomes the active one. -/
theorem State.commitTable_due {s : State} {l : LinkId} {since : W64} (hc : s.links[l.val].commit = some since)
    (h0 : s.fleet.toNat % 262144 = 0) (hne : s.fleet ≠ since) :
    (s.commitTable l).mem = s.mem
      ∧ (s.commitTable l).links[l.val] = { s.links[l.val] with active := s.links[l.val].shadow, commit := none } := by
  unfold State.commitTable
  rw [hc]
  simp [h0, hne]

end Sys2Proof.Machine
end

section
/-! Grants, credits and the packets that a link starts (R286, R294). -/

namespace Sys2Proof.Machine

/-! ### The messages that grants match (R294) -/

/-- No command of a list has a message for a link that a grant could match. -/
def noMessage (ce : List CeRun) (l : LinkId) : Prop := ∀ r ∈ ce, ceLink r.cmd.op = some l → r.send = none

theorem firstUnmatched_eq_none {ce : List CeRun} {l : LinkId} (h : noMessage ce l) (tag : BitVec 8) :
    firstUnmatched ce l tag = none := by
  unfold firstUnmatched
  dsimp only
  split
  next => rfl
  next k ks hks =>
    have hmem := hks ▸ List.mem_cons_self (a := k) (l := ks)
    obtain ⟨-, hk⟩ := List.mem_filter.1 hmem
    cases hr : ce[k]? with
    | none => simp [hr] at hk
    | some r =>
      by_cases hl : ceLink r.cmd.op = some l
      · simp [hr, h r (List.mem_of_getElem? hr) hl] at hk
      · simp [hr, hl] at hk

/-- The only command of an engine has a message that has started and that no grant has matched. -/
theorem firstUnmatched_singleton {r : CeRun} {l : LinkId} {q : Send} (hl : ceLink r.cmd.op = some l) (hs : r.send = some q)
    (hf : q.fired = true) (hm : q.matched = false) : firstUnmatched [r] l (ceTag r.cmd.op) = some 0 := by
  simp [firstUnmatched, hl, hs, hf, hm]

theorem State.matchGrant_noMessage {s : State} {l : LinkId} (h : noMessage s.dies[(dieOfLink l).val].ce l) (g : Nat) :
    s.matchGrant l g = s := by
  unfold State.matchGrant
  dsimp only
  split
  · rfl
  · split
    · rfl
    · rw [firstUnmatched_eq_none h]

/-- A grant changes nothing on the engine of a link with no message to match. -/
theorem State.foldl_matchGrant_noMessage {s : State} {l : LinkId} (h : noMessage s.dies[(dieOfLink l).val].ce l)
    (gs : List Nat) : gs.foldl (fun x g => x.matchGrant l g) s = s :=
  List.foldl_fixed' (fun g => State.matchGrant_noMessage h g) gs

/-- A message that has started does not start again. -/
theorem State.fire_eq_self {s : State} {d : DieId} (h : ∀ r ∈ s.dies[d.val].ce, ∀ q, r.send = some q → q.fired = true) (k : Nat) :
    s.fire d k = s := by
  unfold State.fire
  cases hr : s.dies[d.val].ce[k]? with
  | none => rfl
  | some r =>
    cases hq : r.send with
    | none => simp [hq]
    | some q => simp [hq, h r (List.mem_of_getElem? hr) q hq]

/-- Where every message has started, what settles are the grants of the die's links. -/
theorem State.ceSettle_fired {s : State} {d : DieId} (h : ∀ r ∈ s.dies[d.val].ce, ∀ q, r.send = some q → q.fired = true) :
    s.ceSettle d = (List.finRange 18).foldl (fun st l =>
      if dieOfLink l = d then
        (List.range st.links[l.val].grants.length).reverse.foldl (fun x g => x.matchGrant l g) st
      else st) s := by
  unfold State.ceSettle
  rw [List.foldl_fixed' (fun k => State.fire_eq_self h k)]

/-- An engine with no message at all has nothing to settle. -/
theorem State.ceSettle_noSends {s : State} {d : DieId} (h : ∀ r ∈ s.dies[d.val].ce, r.send = none) : s.ceSettle d = s := by
  rw [State.ceSettle_fired (fun r hr q hq => by simp [h r hr] at hq)]
  refine List.foldl_fixed' (fun l => ?_) _
  split
  next hl =>
    subst hl
    exact State.foldl_matchGrant_noMessage (fun r hr _ => h r hr) _
  next => rfl

/-- A fold in which one element alone changes the state. -/
theorem foldl_once {α β : Type} {f : β → α → β} {b c : β} {a : α} {xs : List α} (hmem : a ∈ xs) (hone : f b a = c)
    (hbefore : ∀ x, x ≠ a → f b x = b) (hafter : ∀ x, x ≠ a → f c x = c) (hnd : xs.Nodup) : xs.foldl f b = c := by
  induction xs with
  | nil => cases hmem
  | cons x xs ih =>
    obtain ⟨hx, hnd'⟩ := List.nodup_cons.1 hnd
    rw [List.foldl_cons]
    by_cases hxa : x = a
    · subst hxa
      rw [hone]
      exact List.foldlRecOn (motive := (· = c)) xs f rfl (fun u hu y hy => by rw [hu, hafter y (fun e => hx (e ▸ hy))])
    · rw [hbefore x hxa]
      exact ih ((List.mem_cons.1 hmem).resolve_left (Ne.symm hxa)) hnd'

/-- The first grant of a link meets a message that it fits: the message takes its credits and the next number, and the grant
is used up. -/
theorem State.matchGrant_fits {s : State} {l : LinkId} {r : CeRun} {q : Send} {m : Msg} {e : Expect} {credits : Nat}
    {gs : List Grant} (hce : s.dies[(dieOfLink l).val].ce = [r]) (hg : s.links[l.val].grants = ⟨ceTag r.cmd.op, e, credits⟩ :: gs)
    (hl : ceLink r.cmd.op = some l) (hh : r.halted = none) (hmsg : r.cmd.message = some m) (hs : r.send = some q)
    (hf : q.fired = true) (hm : q.matched = false) (hfit : m.fits e = true) :
    s.matchGrant l 0 = (s.modCe (dieOfLink l) 0 (fun y => { y with send := some { q with
        matched := true, credits := credits, msg := some s.links[l.val].msg
        nth := SMap.get 0 s.links[l.val].matchedN (ceTag r.cmd.op).toNat } })).modLink l (fun y => { y with
      grants := y.grants.eraseIdx 0, msg := y.msg + 1
      matchedN := SMap.set 0 y.matchedN (ceTag r.cmd.op).toNat
        (SMap.get 0 s.links[l.val].matchedN (ceTag r.cmd.op).toNat + 1) }) := by
  simp [State.matchGrant, hg, hce, firstUnmatched_singleton hl hs hf hm, hmsg, hs, hh, hfit]

/-- The grants of another link leave an engine whose one command names this link as it is. -/
theorem State.matchGrants_otherLink {s : State} {l x : LinkId} {r : CeRun} (hce : s.dies[(dieOfLink l).val].ce = [r])
    (hl : ceLink r.cmd.op = some l) (hne : x ≠ l) (gs : List Nat) :
    (if dieOfLink x = dieOfLink l then gs.foldl (fun u g => u.matchGrant x g) s else s) = s := by
  split
  next hd =>
    refine State.foldl_matchGrant_noMessage (fun y hy hx => ?_) gs
    simp only [hd, hce, List.mem_singleton] at hy
    rw [hy, hl, Option.some.injEq] at hx
    exact absurd hx.symm hne
  next => rfl

/-- One command, whose message has started, and one grant on its link: all that settles is that the grant meets the message. -/
theorem State.ceSettle_match {s t : State} {l : LinkId} {r r' : CeRun} {q : Send} {g : Grant}
    (hce : s.dies[(dieOfLink l).val].ce = [r]) (hg : s.links[l.val].grants = [g]) (hl : ceLink r.cmd.op = some l)
    (hs : r.send = some q) (hf : q.fired = true) (hmatch : s.matchGrant l 0 = t)
    (hce' : t.dies[(dieOfLink l).val].ce = [r']) (hcmd : r'.cmd = r.cmd) : s.ceSettle (dieOfLink l) = t := by
  have hfired : ∀ y ∈ s.dies[(dieOfLink l).val].ce, ∀ x, y.send = some x → x.fired = true := by
    intro y hy x hx
    rw [hce, List.mem_singleton] at hy
    rw [hy, hs, Option.some.injEq] at hx
    exact hx ▸ hf
  rw [State.ceSettle_fired hfired]
  refine foldl_once (List.mem_finRange l) ?_ (fun x hx => State.matchGrants_otherLink hce hl hx _)
    (fun x hx => State.matchGrants_otherLink hce' (hcmd ▸ hl) hx _) (List.nodup_finRange 18)
  simp [hg, hmatch]

/-! ### Window grants and credits (R294) -/

/-- A window's grant stands behind those of its link, and what has become possible happens. -/
theorem exec_windowGrant_window {s : State} {l : LinkId} (hup : s.links[l.val].up = true) (hf : s.frozen = false)
    (tag : BitVec 8) (e : Expect) (credits : Nat) :
    exec (.windowGrant l tag (.window e) credits) s = .next
      (((s.modLink l Link.accept).modLink l (fun y => { y with grants := y.grants ++ [⟨tag, e, credits⟩] })).ceSettle
        (dieOfLink l)) := by
  simp [exec_windowGrant, execWindowGrant, hup, hf]

theorem exec_windowGrant_landed {s : State} {l : LinkId} (hup : s.links[l.val].up = true) (hf : s.frozen = false)
    (tag : BitVec 8) (msg : W64) (credits : Nat) :
    exec (.windowGrant l tag (.landed msg) credits) s = .next ((s.modLink l Link.accept).modDie (dieOfLink l)
      (fun x => { x with ce := x.ce.map (fun r => r.credit l tag msg credits) })) := by
  simp [exec_windowGrant, execWindowGrant, hup, hf]

/-- A grant that its link's one message fits is used up at once: the message takes its credits, its number in the direction
and that of the window. -/
theorem exec_windowGrant_match {s : State} {l : LinkId} {r : CeRun} {q : Send} {m : Msg} {e : Expect}
    (hup : s.links[l.val].up = true) (hf : s.frozen = false) (hce : s.dies[(dieOfLink l).val].ce = [r])
    (hg : s.links[l.val].grants = []) (hl : ceLink r.cmd.op = some l) (hh : r.halted = none) (hmsg : r.cmd.message = some m)
    (hs : r.send = some q) (hfired : q.fired = true) (hm : q.matched = false) (hfit : m.fits e = true) (credits : Nat) :
    ∃ t, exec (.windowGrant l (ceTag r.cmd.op) (.window e) credits) s = .next t ∧ t.mem = s.mem
      ∧ t.dies[(dieOfLink l).val].ce = [{ r with send := some { q with
          matched := true, credits := credits, msg := some s.links[l.val].msg
          nth := SMap.get 0 s.links[l.val].matchedN (ceTag r.cmd.op).toNat } }]
      ∧ t.links[l.val].grants = [] ∧ t.links[l.val].msg = s.links[l.val].msg + 1 := by
  have hexec := exec_windowGrant_window hup hf (ceTag r.cmd.op) e credits
  set u := (s.modLink l Link.accept).modLink l (fun y => { y with grants := y.grants ++ [⟨ceTag r.cmd.op, e, credits⟩] })
  have hlink : u.links[l.val] = { s.links[l.val].accept with grants := [⟨ceTag r.cmd.op, e, credits⟩] } := by
    simp [u, hg, Link.accept]
  have hgrants : u.links[l.val].grants = [⟨ceTag r.cmd.op, e, credits⟩] := congrArg Link.grants hlink
  have hmatch := State.matchGrant_fits (s := u) hce hgrants hl hh hmsg hs hfired hm hfit
  have hce' : (u.matchGrant l 0).dies[(dieOfLink l).val].ce = [{ r with send := some { q with
      matched := true, credits := credits, msg := some s.links[l.val].msg
      nth := SMap.get 0 s.links[l.val].matchedN (ceTag r.cmd.op).toNat } }] := by
    rw [hmatch, hlink]
    simp [u, listMod, hce, Link.accept]
  rw [State.ceSettle_match (s := u) hce hgrants hl hs hfired rfl hce' rfl] at hexec
  refine ⟨_, hexec, ?_, hce', ?_, ?_⟩
  · rw [hmatch]
    rfl
  · simp [hmatch, hlink]
  · simp [hmatch, hlink, Link.accept]

/-! ### Packets that start (R283, R286) -/

/-- An acknowledgement or a replay request that stands first goes out outside the sequence. -/
theorem Link.control_bare {y : Link} {c : CtlPacket} {cs : List CtlPacket} (h : y.ctl = c :: cs)
    (hc : ∃ n, c = .ack n ∨ c = .replay n) : y.control = some { y with ctl := cs, out := y.out ++ [.bare c] } := by
  obtain ⟨n, rfl | rfl⟩ := hc <;> simp [Link.control, List.findIdx?_cons, h]

/-- Any other control packet that stands first takes the next sequence number and a place in the replay buffer. -/
theorem Link.control_numbered {y : Link} {c : CtlPacket} {cs : List CtlPacket} (h : y.ctl = c :: cs)
    (hc : ∀ n, c ≠ .ack n ∧ c ≠ .replay n) (hroom : y.room 1 = true) :
    y.control = some (Link.sendFrame { y with ctl := cs } (fun n => .ctl n c)) := by
  cases c with
  | ack n => exact absurd rfl (hc n).1
  | replay n => exact absurd rfl (hc n).2
  | grant tag e credits => simp [Link.control, List.findIdx?_cons, h, hroom]
  | credit tag msg => simp [Link.control, List.findIdx?_cons, h, hroom]
  | tide n => simp [Link.control, List.findIdx?_cons, h, hroom]
  | time t => simp [Link.control, List.findIdx?_cons, h, hroom]

theorem exec_linkPacketStart_control {s : State} {l : LinkId} {y : Link} (hup : s.links[l.val].up = true)
    (hf : s.frozen = false) (hno : s.chosen l = none) (hy : s.links[l.val].control = some y) :
    exec (.linkPacketStart l) s = .next (s.modLink l (fun _ => y)) := by
  simp [exec_linkPacketStart, execLinkPacketStart, hup, hf, hno, hy]

/-- The chosen packet starts where it is scheduled or no control packet can start (R286). -/
theorem exec_linkPacketStart_chosen {s : State} {l : LinkId} {k : Nat} {key : Nat × Nat × Nat} {r : CeRun} {m : Msg} {q : Send}
    (hup : s.links[l.val].up = true) (hf : s.frozen = false) (hc : s.chosen l = some (k, key))
    (hfirst : s.links[l.val].control = none ∨ key.1 = 1) (hr : s.dies[(dieOfLink l).val].ce[k]? = some r)
    (hm : r.cmd.message = some m) (hq : r.send = some q) :
    exec (.linkPacketStart l) s = .next (s.startPacket l (dieOfLink l) k r m q) := by
  cases hctl : s.links[l.val].control with
  | none => simp [exec_linkPacketStart, execLinkPacketStart, hup, hf, hc, hctl, hr, hm, hq]
  | some y =>
    have hkey : key.1 = 1 := hfirst.resolve_left (by simp [hctl])
    simp [exec_linkPacketStart, execLinkPacketStart, hup, hf, hc, hctl, hkey, hr, hm, hq]

end Sys2Proof.Machine
end

section
/-! Packets that land in the windows of receives, and the receive counters (R293, R294, R296, R300, R301). -/

namespace Sys2Proof.Machine

/-! ### A write of a collective engine (R329) -/

/-- The route of a collective engine's access changes nothing but free values and the translations that its die keeps. -/
theorem State.engTarget_ce_state (s : State) (t : TileId) (asid : BitVec 12) (va : W64) (k : AccKind) :
    ∃ n tlb, (s.engTarget t .ce asid va k).1 = { s with free := n }.modDie (dieOfTile t) (fun x => { x with tlb := tlb }) := by
  have htrans : ∃ n tlb, (s.translate t .ce asid va k false).1
      = { s with free := n }.modDie (dieOfTile t) (fun x => { x with tlb := tlb }) := by
    unfold State.translate
    dsimp only
    split
    · split
      · exact ⟨s.free, _, (State.modDie_eq_self rfl).symm⟩
      · split <;> exact ⟨s.free + 1, _, (State.modDie_eq_self rfl).symm⟩
    · split
      · exact ⟨s.free, _, rfl⟩
      · exact ⟨s.free, _, (State.modDie_eq_self rfl).symm⟩
      · exact ⟨s.free, _, (State.modDie_eq_self rfl).symm⟩
  have hroute : (s.engTarget t .ce asid va k).1 = (s.translate t .ce asid va k false).1 := by
    unfold State.engTarget State.routeT
    simp only [if_true]
    repeat' split
    all_goals rfl
  rw [hroute]
  exact htrans

/-- A write of a collective engine that reaches open DRAM puts its bytes into memory; no link changes, and no command or counter
of a die. -/
theorem State.ceWrite_openDram {s : State} {d : DieId} {r : CeRun} {va : W64} {a : Nat} {mt : BitVec 2}
    (hroute : (s.routeT (engineTile d) .ce r.cmd.asid va .write false).2 = .to (.pa a mt)) (hopen : s.OpenDram a)
    (bs : List Byte) : ∃ u, s.ceWrite d r va bs = (u, .ok ()) ∧ u.mem = putBytes s.mem a bs ∧ u.links = s.links
      ∧ ∀ e : DieId, u.dies[e.val].ce = s.dies[e.val].ce ∧ u.dies[e.val].rc = s.dies[e.val].rc := by
  obtain ⟨n, tlb, hst⟩ := s.engTarget_ce_state (engineTile d) r.cmd.asid va .write
  have htgt : (s.engTarget (engineTile d) .ce r.cmd.asid va .write).2 = .ok (.pa a mt) := by
    simp [State.engTarget, hroute]
  have hopen' : (s.engTarget (engineTile d) .ce r.cmd.asid va .write).1.OpenDram a := by
    rw [hst]
    exact ⟨hopen.dram, hopen.unowned, hopen.noBarrier, hopen.noCeiling⟩
  obtain ⟨u, hwrite, hmem, hlinks, hdies⟩ := State.writeAt_openDram hopen' (srcTile
    (s.homeTile r.home)) mt true bs
  refine ⟨u, ?_, ?_, ?_, fun e => ?_⟩
  · simp [State.ceWrite, htgt, hwrite]
  · rw [hmem, hst, State.modDie_mem]
  · rw [hlinks, hst, State.modDie_links]
  · rw [hdies, hst]
    exact ⟨State.modDie_keeps Die.ce _ _ e (fun _ => rfl), State.modDie_keeps Die.rc _ _ e (fun _ => rfl)⟩

/-! ### The elements of a packet -/

/-- Bytes are those of the number they form. -/
theorem bytesOfNat_natOfBytes (bs : List Byte) : bytesOfNat bs.length (natOfBytes bs) = bs := by
  induction bs with
  | nil => rfl
  | cons b bs ih =>
    have hb : b.toNat < 256 := b.isLt
    have hhead : BitVec.ofNat 8 (b.toNat + 256 * natOfBytes bs) = b := by
      apply BitVec.eq_of_toNat_eq
      rw [BitVec.toNat_ofNat]
      omega
    have hrest : (b.toNat + 256 * natOfBytes bs) / 256 = natOfBytes bs := by omega
    rw [natOfBytes, List.length_cons, bytesOfNat, hhead, hrest, ih]

/-- A packet as long as one element holds one. -/
theorem packetCodes_one {bs : List Byte} (h : 1 ≤ bs.length) : packetCodes bs.length bs.length bs = [natOfBytes bs] := by
  obtain ⟨n, hn⟩ : ∃ n, bs.length = n + 1 := ⟨bs.length - 1, by omega⟩
  have hrest : packetCodes (n + 1) n [] = [] := by
    cases n <;> simp [packetCodes]
  rw [hn, packetCodes, if_neg (by omega), List.take_of_length_le hn.le, List.drop_of_length_le hn.le, hrest]

/-! ### The sum of a `cstep` (R301) -/

section
variable {c : Cmd} {h : Head} {cl : CeClass} {l : LinkId} {tag : BitVec 8} {t0 t1 t2 : TdIx} {rc : BitVec 6}
  (hop : c.op = .cstep h cl l tag t0 t1 t2 rc)
include hop

/-- Integers are added in 32 bits, clamped where the destination saturates. -/
theorem combine_int (hfmt : (tdOf c.d0).fmtc = 7) (srank : W32) (a b : Nat) : combine c srank a b
    = codeOfInt 32 (if (tdOf c.d0).sat then min (max (intOfCode 32 true a + intOfCode 32 true b) (-(2 ^ 31))) (2 ^ 31 - 1)
      else intOfCode 32 true a + intOfCode 32 true b) := by
  simp [combine, hop, hfmt]

/-- The element of the lower rank stands first in a floating sum. -/
theorem combine_float (hfmt : (tdOf c.d0).fmtc ≠ 7) (srank : W32) (a b : Nat) : combine c srank a b
    = cvt (if c.rank.toNat < srank.toNat then rv32 ((valOf (tdOf c.d1).fmt a).add (valOf (tdOf c.d1).fmt b))
        else rv32 ((valOf (tdOf c.d1).fmt b).add (valOf (tdOf c.d1).fmt a)))
      (tdOf c.d0).fmt (tdOf c.d0).round (tdOf c.d0).sat := by
  simp [combine, hop, hfmt]

end

/-! ### Receive counters (R293) -/

/-- Where no command of the engine sends, a count changes its counter alone. -/
theorem State.countTo_noSends {s : State} {d : DieId} (h : ∀ r ∈ s.dies[d.val].ce, r.send = none) (stage order : Nat)
    (rc : BitVec 6) (f : W32 → W32) :
    (s.countTo d stage order rc f).mem = s.mem ∧ (s.countTo d stage order rc f).links = s.links
      ∧ (s.countTo d stage order rc f).dies[d.val].ce = s.dies[d.val].ce
      ∧ (s.countTo d stage order rc f).dies[d.val].rc
        = s.dies[d.val].rc.set (r6 rc).val (f s.dies[d.val].rc[(r6 rc).val]) := by
  unfold State.countTo
  dsimp only
  rw [State.ceSettle_noSends (by simpa [State.tideTurn] using h)]
  simp [State.tideTurn]

/-- The end of a landing, on an engine whose one command receives alone: the command is done with its last element, and then its
counter rises by 1. -/
theorem State.recvDone_receive {s : State} {d : DieId} {r : CeRun} {v : Recv} {x : Expect} {t : Td} {rc : BitVec 6}
    (hce : s.dies[d.val].ce = [r]) (hsend : r.send = none) (hrecv : r.recv = some v) (hw : r.cmd.window = some (x, t))
    (hrc : ceRc r.cmd.op = some rc) (hdone : v.done = false) :
    (s.recvDone d 0).mem = s.mem ∧ (s.recvDone d 0).links = s.links
      ∧ (s.recvDone d 0).dies[d.val].ce = [{ r with recv := some { v with done := decide (t.count ≤ v.landed) } }]
      ∧ ∀ k : Fin 64, (s.recvDone d 0).dies[d.val].rc[k]
        = s.dies[d.val].rc[k] + if k = r6 rc ∧ t.count ≤ v.landed then 1 else 0 := by
  by_cases hlast : t.count ≤ v.landed
  · have heq : s.recvDone d 0 = (s.modCe d 0 (fun y => { y with recv := some { v with done := true } })).countTo d 1 r.order rc
        (fun n => n + 1) := by
      simp [State.recvDone, hce, hrecv, hw, hrc, hlast, hdone]
    have hquiet : ∀ y ∈ (s.modCe d 0 (fun y => { y with recv := some { v with done := true } })).dies[d.val].ce,
        y.send = none := by
      simp [hce, listMod, hsend]
    obtain ⟨hmem, hlinks, hces, hrcs⟩ := State.countTo_noSends hquiet 1 r.order rc (fun n => n + 1)
    rw [heq]
    refine ⟨hmem, hlinks, ?_, fun k => ?_⟩
    · rw [hces]
      simp [hce, listMod, hlast]
    · rw [hrcs]
      by_cases hk : k = r6 rc
      · simp [hk, hlast]
      · have hne : (r6 rc).val ≠ k.val := fun e => hk (Fin.ext e.symm)
        simp [hk, Vector.getElem_set_ne, hne]
  · have heq : s.recvDone d 0 = s := by
      simp [State.recvDone, hce, hrecv, hw, hrc, hlast]
    rw [heq]
    refine ⟨rfl, rfl, ?_, fun k => ?_⟩
    · obtain ⟨n, i, b⟩ := v
      obtain rfl : b = false := hdone
      obtain ⟨home, cmd, order, send, recv⟩ := r
      subst hrecv
      simp [hce, hlast]
    · simp [hlast]

/-! ### Packets that land (R294, R296, R300, R301) -/

/-- The first accepted packet of a link lands where the receive that awaits it is not halted. -/
theorem exec_cePacketLand_ready {s : State} {l : LinkId} {p : Packet} (hf : s.frozen = false) (hp : s.links[l.val].recv = [p])
    (hready : ∀ r ∈ s.dies[(dieOfLink l).val].ce, r.halted = none) :
    exec (.cePacketLand l) s = .next (s.landPacket l 0 p) := by
  cases hw : windowOf s.dies[(dieOfLink l).val].ce l p with
  | none => simp [exec_cePacketLand, execCePacketLand, hp, hf, List.findIdx?_cons, hw]
  | some k =>
    cases hk : s.dies[(dieOfLink l).val].ce[k]? with
    | none => simp [exec_cePacketLand, execCePacketLand, hp, hf, List.findIdx?_cons, hw, hk]
    | some r => simp [exec_cePacketLand, execCePacketLand, hp, hf, List.findIdx?_cons, hw, hk, hready r (List.mem_of_getElem? hk)]

theorem windowOf_nil (l : LinkId) (p : Packet) : windowOf [] l p = none := rfl

/-- A packet falls to the window that its number names. -/
theorem windowOf_singleton {r : CeRun} {l : LinkId} {p : Packet} {i : Nat} (hl : ceLink r.cmd.op = some l)
    (ht : ceTag r.cmd.op = p.tag) (hr : r.recv = some ⟨p.nth, i, false⟩) : windowOf [r] l p = some 0 := by
  simp [windowOf, List.findIdx?_cons, hl, ht, hr]

/-- A packet that no window awaits is dropped. -/
theorem State.landPacket_noWindow {s : State} {l : LinkId} {p : Packet} (g : Nat)
    (h : windowOf s.dies[(dieOfLink l).val].ce l p = none) :
    s.landPacket l g p = s.modLink l (fun y => { y with recv := y.recv.eraseIdx g }) := by
  simp [State.landPacket, h]

theorem Cmd.window_crecv {c : Cmd} {h : Head} {l : LinkId} {tag : BitVec 8} {td : TdIx} {rc : BitVec 6}
    (hop : c.op = .crecv h l tag td rc) : ∃ x, c.window = some (x, tdOf c.d0) := by
  simp [Cmd.window, hop]

/-- The packet of a sender of the same rank is CE_MATCH, and nothing of it lands. -/
theorem State.landPacket_equalRanks {s : State} {l : LinkId} {p : Packet} {r : CeRun} {h : Head} {cl : CeClass}
    {t0 t1 t2 : TdIx} {rc : BitVec 6} {i : Nat} (g : Nat) (hce : s.dies[(dieOfLink l).val].ce = [r])
    (hop : r.cmd.op = .cstep h cl l p.tag t0 t1 t2 rc) (hr : r.recv = some ⟨p.nth, i, false⟩) (hrank : r.cmd.rank = p.srank) :
    s.landPacket l g p = s.ceFault (dieOfLink l) 0 r 0x14 0 0 (BitVec.ofNat 64 (l.val + p.tag.toNat * 256)) := by
  have hw : windowOf [r] l p = some 0 := windowOf_singleton (by rw [hop]; rfl) (by rw [hop]; rfl) hr
  simp [State.landPacket, hce, hw, Cmd.window, hop, hrank]

/-- One element that a `crecv` awaits and that its engine can write lands: it is written, and the receive counts it. -/
theorem State.landElems_crecv {s u : State} {d : DieId} {r : CeRun} {h : Head} {l : LinkId} {tag : BitVec 8} {td : TdIx}
    {rc : BitVec 6} {v : Recv} {b : Nat} (word : Nat) (srank : W32) (hce : s.dies[d.val].ce = [r]) (hop : r.cmd.op = .crecv h l tag td rc)
    (hr : r.recv = some v)
    (hwrite : s.ceWrite d r ((tdOf r.cmd.d0).ea ((tdOf r.cmd.d0).tuple v.landed)) (bytesOfNat ((tdOf r.cmd.d0).w / 8) b)
      = (u, .ok ())) :
    s.landElems word s d 0 srank [(v.landed, b)]
      = (u.modCe d 0 (fun z => { z with recv := some { v with landed := v.landed + 1 } }), true) := by
  have hcomb : combine r.cmd srank 0 b = b := by simp [combine, hop]
  simp [State.landElems, hce, hop, hr, Cmd.window, hcomb, hwrite]

/-- A packet that has landed leaves its link, and its credit goes back. -/
def State.unload (s : State) (l : LinkId) (p : Packet) : State :=
  (s.modLink l (fun y => { y with recv := y.recv.eraseIdx 0 })).modLink l (fun y => { y with
    ctl := y.ctl ++ [CtlPacket.credit p.tag p.msg] })

theorem State.unload_mem (s : State) (l : LinkId) (p : Packet) : (s.unload l p).mem = s.mem := rfl
theorem State.unload_dies (s : State) (l : LinkId) (p : Packet) : (s.unload l p).dies = s.dies := rfl
theorem State.link_unload (s : State) (l : LinkId) (p : Packet) : (s.unload l p).links[l.val] = { s.links[l.val] with
    recv := s.links[l.val].recv.eraseIdx 0, ctl := s.links[l.val].ctl ++ [.credit p.tag p.msg] } := by
  simp [State.unload]

/-- The landing of a packet of one element that a `crecv` awaits. -/
theorem State.landPacket_landed {s u : State} {l : LinkId} {p : Packet} {r : CeRun} {h : Head} {td : TdIx} {rc : BitVec 6}
    {i : Nat} (hce : s.dies[(dieOfLink l).val].ce = [r]) (hop : r.cmd.op = .crecv h l p.tag td rc)
    (hr : r.recv = some ⟨p.nth, i, false⟩) (hi : i = p.pkt.toNat * (tdOf r.cmd.d0).perPacket)
    (hcodes : packetCodes ((tdOf r.cmd.d0).w / 8) p.data.length p.data = [natOfBytes p.data])
    (hland : ∀ word, s.landElems word s (dieOfLink l) 0 p.srank [(i, natOfBytes p.data)] = (u, true)) :
    s.landPacket l 0 p = (u.unload l p).recvDone (dieOfLink l) 0 := by
  have hw : windowOf [r] l p = some 0 := windowOf_singleton (by rw [hop]; rfl) (by rw [hop]; rfl) hr
  obtain ⟨x, hwin⟩ := Cmd.window_crecv hop
  simp [State.landPacket, State.unload, hce, hw, hwin, hop, hcodes, ← hi, hland]

/-- The packet of the one element that a `crecv` awaits: its bytes reach memory, its credit goes back, the receive counts the
element, and with the last one its counter rises by 1. -/
theorem State.landPacket_crecv {s : State} {l : LinkId} {p : Packet} {r : CeRun} {h : Head} {td : TdIx} {rc : BitVec 6}
    {i a : Nat} {mt : BitVec 2} (hce : s.dies[(dieOfLink l).val].ce = [r]) (hop : r.cmd.op = .crecv h l p.tag td rc)
    (hsend : r.send = none) (hr : r.recv = some ⟨p.nth, i, false⟩) (hi : i = p.pkt.toNat * (tdOf r.cmd.d0).perPacket)
    (hpos : 1 ≤ (tdOf r.cmd.d0).w / 8) (hlen : p.data.length = (tdOf r.cmd.d0).w / 8)
    (hroute : (s.routeT (engineTile (dieOfLink l)) .ce r.cmd.asid ((tdOf r.cmd.d0).ea ((tdOf r.cmd.d0).tuple i)) .write false).2
      = .to (.pa a mt)) (hopen : s.OpenDram a) :
    (s.landPacket l 0 p).mem = putBytes s.mem a p.data
      ∧ (s.landPacket l 0 p).links[l.val] = { s.links[l.val] with
        recv := s.links[l.val].recv.eraseIdx 0, ctl := s.links[l.val].ctl ++ [.credit p.tag p.msg] }
      ∧ (s.landPacket l 0 p).dies[(dieOfLink l).val].ce
        = [{ r with recv := some ⟨p.nth, i + 1, decide ((tdOf r.cmd.d0).count ≤ i + 1)⟩ }]
      ∧ ∀ k : Fin 64, (s.landPacket l 0 p).dies[(dieOfLink l).val].rc[k]
        = s.dies[(dieOfLink l).val].rc[k] + if k = r6 rc ∧ (tdOf r.cmd.d0).count ≤ i + 1 then 1 else 0 := by
  obtain ⟨u, hwrite, hmem, hlinks, hdies⟩ := State.ceWrite_openDram hroute hopen p.data
  obtain ⟨hces, hrcs⟩ := hdies (dieOfLink l)
  obtain ⟨x, hwin⟩ := Cmd.window_crecv hop
  have hcodes : packetCodes ((tdOf r.cmd.d0).w / 8) p.data.length p.data = [natOfBytes p.data] := by
    rw [← hlen]
    exact packetCodes_one (hlen ▸ hpos)
  have hland (word : Nat) := State.landElems_crecv (b := natOfBytes p.data) word p.srank hce hop hr
    (by rw [← hlen, bytesOfNat_natOfBytes]; exact hwrite)
  rw [State.landPacket_landed hce hop hr hi hcodes hland]
  set v := u.modCe (dieOfLink l) 0 (fun z => { z with recv := some ⟨p.nth, i + 1, false⟩ })
  have hces' : (v.unload l p).dies[(dieOfLink l).val].ce = [{ r with recv := some ⟨p.nth, i + 1, false⟩ }] := by
    simp [State.unload_dies, v, hces, hce, listMod]
  obtain ⟨hmem', hlinks', hce', hrc'⟩ := State.recvDone_receive (rc := rc) hces' hsend rfl hwin (by rw [hop]; rfl) rfl
  refine ⟨?_, ?_, hce', fun k => ?_⟩
  · rw [hmem', State.unload_mem, State.modCe_mem, hmem]
  · rw [hlinks', State.link_unload, State.modCe_links, hlinks]
  · rw [hrc', State.unload_dies, State.rc_modCe, hrcs]

end Sys2Proof.Machine
end

section
/-! The steps of the peer links, clause by clause (R48, R281 to R301). -/

namespace Sys2Proof.Machine

/-- Settles O52: the lemmas above name the next state of every step, and each clause is read off that state. -/
theorem linkSteps : Obligations.LinkSteps := by
  intro s l w eight ahead crcOk p ar seq credits upTo tag e err pa msg bs c cs crc x y d k
  refine ⟨?train, ?failure, ?data, ?write, ?ack, ?refused, ?resend, ?retrain, ?control, ?chosen, ?window, ?matched, ?landed,
    ?noWindow, ?crecv, ?cstep, ?exchange, ?commit⟩
  case train =>
    have hlink := s.link_setLanes l w (x.lanes == 0 && w != 3)
    exact ⟨_, rfl, congrArg Link.lanes hlink, congrArg Link.training hlink, sameMemory_of_mem_eq (State.setLanes_mem ..)⟩
  case failure =>
    have hlink := s.link_setLanes l (narrowed eight x.lanes) true
    have hwidth := (congrArg (fun z => z.lanes.toNat) hlink).trans (narrowed_toNat eight x.lanes)
    exact ⟨_, exec_laneFailure l eight s, hwidth, State.setLanes_eventSeq s l (narrowed_ne_zero eight x.lanes),
      sameMemory_of_mem_eq (State.setLanes_mem ..)⟩
  case data =>
    rintro hup rfl rfl
    refine ⟨_, exec_packetReceive_data hup p crcOk, ?_⟩
    dsimp only [y]
    rw [State.link_arrive_data]
    exact ⟨rfl, rfl, rfl, sameMemory_of_mem_eq rfl⟩
  case write =>
    rintro hup rfl rfl hdram hown hbar hceil hpos hword
    obtain ⟨hmem, hlink⟩ := State.arrive_write ⟨hdram, hown, hbar, hceil⟩ l hpos hword
    refine ⟨_, exec_packetReceive_write hup pa bs crc, hmem, fun b hb => ?_, congrArg Link.recvSeq hlink, congrArg Link.ctl hlink⟩
    rw [hmem, byteAt_putBytes_off _ hb]
  case ack =>
    rintro hup rfl
    refine ⟨_, exec_packetReceive_ack hup seq upTo crc, ?_⟩
    dsimp only [y]
    rw [State.link_arrive_ack]
    exact ⟨rfl, rfl, rfl, sameMemory_of_mem_eq rfl⟩
  case refused =>
    intro bad hup hbad
    have hrefused : Incoming.passes ⟨seq, ar, crc⟩ crcOk = false ∨ (seq ≠ x.recvSeq ∧ ∀ n, ar ≠ .ack n) := by
      refine hbad.imp_left (fun h => ?_)
      cases ar with
      | data q => exact beq_eq_false_iff_ne.2 h
      | write pa bs => exact h
      | ack n => exact h
    refine ⟨_, exec_packetReceive_refused hup hrefused, ?_⟩
    dsimp only [y]
    rw [State.link_modLink]
    exact ⟨rfl, rfl, rfl, sameMemory_of_mem_eq rfl⟩
  case resend =>
    intro hup hfew
    obtain ⟨n, hexec⟩ := exec_linkReplay_resend hup hfew
    obtain ⟨-, htrain⟩ := (Link.up_iff _).1 hup
    refine ⟨_, hexec, ?_⟩
    dsimp only [y]
    rw [State.link_modLink]
    exact ⟨rfl, htrain, rfl, sameMemory_of_mem_eq rfl⟩
  case retrain =>
    rintro hup rfl hmany
    refine ⟨_, exec_linkReplay_retrain hup hmany, ?_⟩
    dsimp only [y]
    rw [State.link_modLink]
    exact ⟨rfl, rfl, rfl, sameMemory_of_mem_eq rfl⟩
  case control =>
    intro hup hf hno hctl
    refine ⟨fun hbare => ?_, fun hnum hroom => ?_⟩
    · refine ⟨_, exec_linkPacketStart_control hup hf hno (Link.control_bare hctl hbare), ?_⟩
      dsimp only [y]
      rw [State.link_modLink]
      exact ⟨rfl, rfl, rfl, rfl, sameMemory_of_mem_eq rfl⟩
    · refine ⟨_, exec_linkPacketStart_control hup hf hno (Link.control_numbered hctl hnum hroom), ?_⟩
      dsimp only [y]
      rw [State.link_modLink]
      exact ⟨rfl, rfl, rfl, rfl, sameMemory_of_mem_eq rfl⟩
  case chosen =>
    intro k key r m q hup hf hc hfirst hr hm hq
    exact exec_linkPacketStart_chosen hup hf hc hfirst hr hm hq
  case window =>
    intro hup hf hce
    refine ⟨_, exec_windowGrant_window hup hf tag e credits, ?_⟩
    rw [State.ceSettle_noSends (by simp [hce, d])]
    dsimp only [y]
    rw [State.link_modLink, State.link_modLink]
    exact ⟨fun g hg => (List.mem_append.1 hg).imp_right List.mem_singleton.1, List.mem_append_right _ (List.mem_singleton_self _), rfl,
      sameMemory_of_mem_eq rfl⟩
  case matched =>
    rintro r m q hup hf hce hg hl rfl hh hm hq hfired hmatched hfit
    obtain ⟨t, hexec, hmem, hces, hgrants, hmsg⟩ :=
      exec_windowGrant_match hup hf hce hg hl hh hm hq hfired hmatched hfit credits
    exact ⟨t, hexec, hces, hgrants, hmsg, sameMemory_of_mem_eq hmem⟩
  case landed =>
    intro hup hf
    exact ⟨_, exec_windowGrant_landed hup hf tag msg credits, congrArg Die.ce (State.die_modDie ..),
      congrArg Link.recvSeq (s.link_modLink l Link.accept), sameMemory_of_mem_eq rfl⟩
  case noWindow =>
    intro hf hrecv hce
    have hnone : windowOf s.dies[d.val].ce l p = none := by rw [hce, windowOf_nil]
    have hlink := s.link_modLink l (fun z => { z with recv := z.recv.eraseIdx 0 })
    refine ⟨_, exec_cePacketLand_ready hf hrecv (by simp [hce, d]), ?_⟩
    rw [State.landPacket_noWindow 0 hnone]
    exact ⟨(congrArg Link.recv hlink).trans (congrArg (List.eraseIdx · 0) hrecv), sameMemory_of_mem_eq rfl⟩
  case crecv =>
    intro r h td rc i a mt D va n hf hrecv hce hop hh hsend hr hi hpos hlen hroute hdram hown hbar hceil
    obtain ⟨hmem, hlink, hces, hrc⟩ := State.landPacket_crecv hce hop hsend hr hi hpos hlen hroute ⟨hdram, hown, hbar, hceil⟩
    exact ⟨_, exec_cePacketLand_ready hf hrecv (by simp [hce, d, hh]), hmem,
      (congrArg Link.recv hlink).trans (congrArg (List.eraseIdx · 0) hrecv), congrArg Link.ctl hlink, hces, hrc⟩
  case cstep =>
    intro r h cl t0 t1 t2 rc u v srank D K hop
    refine ⟨fun hfmt => combine_int hop hfmt srank u v, fun hfmt => combine_float hop hfmt srank u v,
      fun hf hrecv hce hh hr hrank => ?_⟩
    rw [exec_cePacketLand_ready hf hrecv (by simp [hce, d, hh]), State.landPacket_equalRanks 0 hce hop hr hrank]
  case exchange =>
    intro h0 hdue
    obtain ⟨u, hmem, hfleet, hlinks, hexec⟩ := exec_fleetTimeExchange_due ahead err h0 hdue
    refine ⟨_, hexec, rfl, hfleet, rfl, fun hup => ?_, sameMemory_of_mem_eq hmem⟩
    simp only [y, hlinks]
    exact State.stamped_ctl h0 hdue hup
  case commit =>
    intro since hc h0 hne _
    obtain ⟨hmem, hlink⟩ := State.commitTable_due hc h0 hne
    exact ⟨_, rfl, congrArg Link.active hlink, congrArg Link.commit hlink, sameMemory_of_mem_eq hmem⟩

end Sys2Proof.Machine
end

section
/-! Every well-formed instruction that a word encodes is what its own encoding decodes to (R55, R61 to R66). -/

namespace Sys2Proof.Laws

/-- Every instruction and step, by its constructor: the law of that constructor. -/
theorem roundTrip : ∀ i : Instr, RoundTrip.Statement i
  | .add d a b => RoundTrip.add d a b | .sub d a b => RoundTrip.sub d a b | .mul d a b => RoundTrip.mul d a b
  | .mulh d a b => RoundTrip.mulh d a b | .mulhu d a b => RoundTrip.mulhu d a b | .div d a b => RoundTrip.div d a b
  | .divu d a b => RoundTrip.divu d a b | .rem d a b => RoundTrip.rem d a b | .remu d a b => RoundTrip.remu d a b
  | .and d a b => RoundTrip.and d a b | .or d a b => RoundTrip.or d a b | .xor d a b => RoundTrip.xor d a b
  | .andn d a b => RoundTrip.andn d a b | .shl d a b => RoundTrip.shl d a b | .shr d a b => RoundTrip.shr d a b
  | .sra d a b => RoundTrip.sra d a b | .min d a b => RoundTrip.min d a b | .max d a b => RoundTrip.max d a b
  | .minu d a b => RoundTrip.minu d a b | .maxu d a b => RoundTrip.maxu d a b | .seq d a b => RoundTrip.seq d a b
  | .sne d a b => RoundTrip.sne d a b | .slt d a b => RoundTrip.slt d a b | .sltu d a b => RoundTrip.sltu d a b
  | .sel d a b => RoundTrip.sel d a b | .clz d a => RoundTrip.clz d a | .ctz d a => RoundTrip.ctz d a
  | .popc d a => RoundTrip.popc d a | .mov d m => RoundTrip.mov d m | .ctlRd d c => RoundTrip.ctlRd d c
  | .ctlWr c a => RoundTrip.ctlWr c a | .probe d p => RoundTrip.probe d p | .flip => RoundTrip.flip | .nop => RoundTrip.nop
  | .retire => RoundTrip.retire | .eret => RoundTrip.eret | .eretAbort => RoundTrip.eretAbort | .pwrRel => RoundTrip.pwrRel
  | .jr a => RoundTrip.jr a | .callr d a => RoundTrip.callr d a | .tlbiAll => RoundTrip.tlbiAll
  | .tlbiAsid a => RoundTrip.tlbiAsid a | .tlbiVa a b => RoundTrip.tlbiVa a b | .fenceT => RoundTrip.fenceT
  | .fenceQ => RoundTrip.fenceQ | .fenceD => RoundTrip.fenceD | .fenceP => RoundTrip.fenceP | .fenceS => RoundTrip.fenceS
  | .barInit a b => RoundTrip.barInit a b | .barWait a b => RoundTrip.barWait a b
  | .barWaitSink a b => RoundTrip.barWaitSink a b | .waita d a b => RoundTrip.waita d a b
  | .addi d a imm => RoundTrip.addi d a imm | .andi d a imm => RoundTrip.andi d a imm | .ori d a imm => RoundTrip.ori d a imm
  | .xori d a imm => RoundTrip.xori d a imm | .shli d a n => RoundTrip.shli d a n | .shri d a n => RoundTrip.shri d a n
  | .srai d a n => RoundTrip.srai d a n | .slti d a imm => RoundTrip.slti d a imm | .sltui d a imm => RoundTrip.sltui d a imm
  | .bfx d a lo wd1 => RoundTrip.bfx d a lo wd1 | .bfxs d a lo wd1 => RoundTrip.bfxs d a lo wd1
  | .bfi d a lo wd1 => RoundTrip.bfi d a lo wd1 | .trap imm => RoundTrip.trap imm | .gearLo => RoundTrip.gearLo
  | .gearHi => RoundTrip.gearHi | .pwrAcq c => RoundTrip.pwrAcq c | .pwrReq d a pv n => RoundTrip.pwrReq d a pv n
  | .ldB d a off => RoundTrip.ldB d a off | .ldBu d a off => RoundTrip.ldBu d a off | .ldH d a off => RoundTrip.ldH d a off
  | .ldHu d a off => RoundTrip.ldHu d a off | .ldW d a off => RoundTrip.ldW d a off | .ldWu d a off => RoundTrip.ldWu d a off
  | .ldD d a off => RoundTrip.ldD d a off | .tdLoad n a off => RoundTrip.tdLoad n a off
  | .stB src a off => RoundTrip.stB src a off | .stH src a off => RoundTrip.stH src a off
  | .stW src a off => RoundTrip.stW src a off | .stD src a off => RoundTrip.stD src a off
  | .qdrop d a q => RoundTrip.qdrop d a q | .beq a b off => RoundTrip.beq a b off | .bne a b off => RoundTrip.bne a b off
  | .blt a b off => RoundTrip.blt a b off | .bge a b off => RoundTrip.bge a b off | .bltu a b off => RoundTrip.bltu a b off
  | .bgeu a b off => RoundTrip.bgeu a b off | .li d imm => RoundTrip.li d imm | .lhi d a imm => RoundTrip.lhi d a imm
  | .jal d imm => RoundTrip.jal d imm | .semPost n v => RoundTrip.semPost n v
  | .semPostTile a n v => RoundTrip.semPostTile a n v | .semSet n v => RoundTrip.semSet n v | .semRd d n => RoundTrip.semRd d n
  | .spawn d a pool => RoundTrip.spawn d a pool | .publish c a => RoundTrip.publish c a | .yield d => RoundTrip.yield d
  | .cancelTask a => RoundTrip.cancelTask a | .cancel l a => RoundTrip.cancel l a | .poolGet d pool => RoundTrip.poolGet d pool
  | .poolPut a pool => RoundTrip.poolPut a pool | .tideLoad a n1 => RoundTrip.tideLoad a n1
  | .tideGo a post => RoundTrip.tideGo a post | .tideRd d sel => RoundTrip.tideRd d sel
  | .mma h acc tda tdb sat ta z => RoundTrip.mma h acc tda tdb sat ta z
  | .mmaSp h acc tda tdb sat ta z => RoundTrip.mmaSp h acc tda tdb sat ta z | .wload h wb tdb => RoundTrip.wload h wb tdb
  | .wloadT h wb tdb sparse => RoundTrip.wloadT h wb tdb sparse | .aclr h acc => RoundTrip.aclr h acc
  | .ainit h acc tds => RoundTrip.ainit h acc tds | .adrain h acc tdd tr clear => RoundTrip.adrain h acc tdd tr clear
  | .adrainMx h acc tdd tr clear => RoundTrip.adrainMx h acc tdd tr clear | .fenceOc h => RoundTrip.fenceOc h
  | .cp h tdd tds slot => RoundTrip.cp h tdd tds slot | .cpAccF32 h tdd tds slot => RoundTrip.cpAccF32 h tdd tds slot
  | .cpAccBf16 h tdd tds => RoundTrip.cpAccBf16 h tdd tds | .cpAccI32 h tdd tds => RoundTrip.cpAccI32 h tdd tds
  | .cpMc h tdd tds x mask => RoundTrip.cpMc h tdd tds x mask
  | .gather h tdd tdt tdl strict => RoundTrip.gather h tdd tdt tdl strict
  | .scatter h tdt tds tdl strict => RoundTrip.scatter h tdt tds tdl strict
  | .scatterAccF32 h tdt tds tdl strict => RoundTrip.scatterAccF32 h tdt tds tdl strict
  | .scatterAccBf16 h tdt tds tdl strict => RoundTrip.scatterAccBf16 h tdt tds tdl strict
  | .scatterAccI32 h tdt tds tdl strict => RoundTrip.scatterAccI32 h tdt tds tdl strict
  | .fill h tdd x => RoundTrip.fill h tdd x | .atomAdd h ret x y => RoundTrip.atomAdd h ret x y
  | .atomAddthr h ret x y z => RoundTrip.atomAddthr h ret x y z | .atomSwap h ret x y => RoundTrip.atomSwap h ret x y
  | .atomCas h ret x y z => RoundTrip.atomCas h ret x y z | .atomMin h ret x y => RoundTrip.atomMin h ret x y
  | .atomMax h ret x y => RoundTrip.atomMax h ret x y | .atomArrive h ret x => RoundTrip.atomArrive h ret x
  | .note h x y => RoundTrip.note h x y | .chain h w x => RoundTrip.chain h w x
  | .stashMap h td zero soff => RoundTrip.stashMap h td zero soff | .stashUnmap h td => RoundTrip.stashUnmap h td
  | .stashWb h td => RoundTrip.stashWb h td | .offload h tdd tds x => RoundTrip.offload h tdd tds x
  | .csend h c link tag tds => RoundTrip.csend h c link tag tds | .crecv h link tag tdd rc => RoundTrip.crecv h link tag tdd rc
  | .cstep h c link tag tdd tdk tds rc => RoundTrip.cstep h c link tag tdd tdk tds rc
  | .carm h c link tag tds rc y => RoundTrip.carm h c link tag tds rc y | .crcSet h rc x die => RoundTrip.crcSet h rc x die
  | .crcRd h m rc die fleet => RoundTrip.crcRd h m rc die fleet
  | .cslot h link x first count1 commit => RoundTrip.cslot h link x first count1 commit
  | .cef h c link tag tds tdr tdw => RoundTrip.cef h c link tag tds tdr tdw | .vrun h imm => RoundTrip.vrun h imm
  | .vadd ty rm sat d a b pm => RoundTrip.vadd ty rm sat d a b pm
  | .vsub ty rm sat d a b pm => RoundTrip.vsub ty rm sat d a b pm
  | .vmul ty rm sat d a b pm => RoundTrip.vmul ty rm sat d a b pm
  | .vfma ty rm sat d a b c pm => RoundTrip.vfma ty rm sat d a b c pm | .vmin ty d a b pm => RoundTrip.vmin ty d a b pm
  | .vmax ty d a b pm => RoundTrip.vmax ty d a b pm | .vand ty d a b pm => RoundTrip.vand ty d a b pm
  | .vor ty d a b pm => RoundTrip.vor ty d a b pm | .vxor ty d a b pm => RoundTrip.vxor ty d a b pm
  | .vshl ty d a b pm => RoundTrip.vshl ty d a b pm | .vshr ty d a b pm => RoundTrip.vshr ty d a b pm
  | .vsra ty d a b pm => RoundTrip.vsra ty d a b pm | .vcmpEq ty d a b pm => RoundTrip.vcmpEq ty d a b pm
  | .vcmpLt ty d a b pm => RoundTrip.vcmpLt ty d a b pm | .vcmpLe ty d a b pm => RoundTrip.vcmpLe ty d a b pm
  | .vsel ty d a b pc pm => RoundTrip.vsel ty d a b pc pm | .vcvt ty src rm sat d a pm => RoundTrip.vcvt ty src rm sat d a pm
  | .vpack ty rm sat d a b pm => RoundTrip.vpack ty rm sat d a b pm | .vperm ty d a b pm => RoundTrip.vperm ty d a b pm
  | .vredSum ty rm d a pm => RoundTrip.vredSum ty rm d a pm | .vredMax ty d a pm => RoundTrip.vredMax ty d a pm
  | .vredMin ty d a pm => RoundTrip.vredMin ty d a pm | .vbcast ty d pm imm => RoundTrip.vbcast ty d pm imm
  | .vslideUp ty d a pm n => RoundTrip.vslideUp ty d a pm n | .vslideDn ty d a pm n => RoundTrip.vslideDn ty d a pm n
  | .vld conv v kb pm off => RoundTrip.vld conv v kb pm off | .vst conv v kb pm off => RoundTrip.vst conv v kb pm off
  | .vqmark => RoundTrip.vqmark | .vloop src dist count => RoundTrip.vloop src dist count | .vend => RoundTrip.vend
  | .vflip => RoundTrip.vflip | .kli d imm => RoundTrip.kli d imm | .kadd d a src n imm => RoundTrip.kadd d a src n imm
  | .kld d a off => RoundTrip.kld d a off | .kmov d src => RoundTrip.kmov d src | .plen d src imm => RoundTrip.plen d src imm
  | .plenS d src imm => RoundTrip.plenS d src imm | .pand d a b => RoundTrip.pand d a b | .por d a b => RoundTrip.por d a b
  | .pnot d a => RoundTrip.pnot d a | .vnop => RoundTrip.vnop | .vtip d a tbl pm => RoundTrip.vtip d a tbl pm
  | .vtipX d a tbl pm => RoundTrip.vtipX d a tbl pm | .vupd d a b kc pm => RoundTrip.vupd d a b kc pm
  | .vldx conv v a kc pm => RoundTrip.vldx conv v a kc pm | .vstx conv v a kc pm => RoundTrip.vstx conv v a kc pm
  | .debugHaltRequest p t on => RoundTrip.debugHaltRequest p t on | .wordEncodingNothing w => RoundTrip.wordEncodingNothing w
  | .engineAccessLands t u k => RoundTrip.engineAccessLands t u k | .semPostTileLands k => RoundTrip.semPostTileLands k
  | .queuedPush t => RoundTrip.queuedPush t | .commandStart t u => RoundTrip.commandStart t u
  | .commandCompletion t u k => RoundTrip.commandCompletion t u k | .flipExchange t d => RoundTrip.flipExchange t d
  | .slowWriteLands t => RoundTrip.slowWriteLands t | .suLoadLands t k => RoundTrip.suLoadLands t k
  | .suStoreLands t k => RoundTrip.suStoreLands t k | .vectorQueueSend t store => RoundTrip.vectorQueueSend t store
  | .vuLoadLands t k => RoundTrip.vuLoadLands t k | .vuStoreLands t k => RoundTrip.vuStoreLands t k
  | .mailboxOutsideWrite t ks => RoundTrip.mailboxOutsideWrite t ks
  | .stashFillComplete t line => RoundTrip.stashFillComplete t line | .stashShadowing t line => RoundTrip.stashShadowing t line
  | .granuleShadowCopy g => RoundTrip.granuleShadowCopy g | .remoteStashAccess r => RoundTrip.remoteStashAccess r
  | .rmwAtMemoryPoint t c k => RoundTrip.rmwAtMemoryPoint t c k | .lineMove line => RoundTrip.lineMove line
  | .walkerRecordLoad t w => RoundTrip.walkerRecordLoad t w | .trapEntry t => RoundTrip.trapEntry t
  | .cePacketLand l => RoundTrip.cePacketLand l | .windowGrant l tag g credits => RoundTrip.windowGrant l tag g credits
  | .linkPacketStart l => RoundTrip.linkPacketStart l | .packetReceive l p crcOk => RoundTrip.packetReceive l p crcOk
  | .linkReplay l seq => RoundTrip.linkReplay l seq | .linkTrain l lanes => RoundTrip.linkTrain l lanes
  | .laneFailure l eight => RoundTrip.laneFailure l eight
  | .fleetTimeExchange ahead err => RoundTrip.fleetTimeExchange ahead err | .slotTableCommit l => RoundTrip.slotTableCommit l
  | .dispatchRound d => RoundTrip.dispatchRound d | .taskQueuePush k => RoundTrip.taskQueuePush k
  | .poolEnable p => RoundTrip.poolEnable p | .memberLaunch t => RoundTrip.memberLaunch t | .restore t => RoundTrip.restore t
  | .memberComplete t => RoundTrip.memberComplete t | .joinPushRetry q => RoundTrip.joinPushRetry q
  | .tideDispatch d => RoundTrip.tideDispatch d | .tideCreditArrival l n => RoundTrip.tideCreditArrival l n
  | .preempt t => RoundTrip.preempt t | .timer t => RoundTrip.timer t | .sample t => RoundTrip.sample t
  | .waitaWake t => RoundTrip.waitaWake t | .waitaPeriodicReread t => RoundTrip.waitaPeriodicReread t
  | .barWaitSinkRelease t => RoundTrip.barWaitSinkRelease t | .clockResume t => RoundTrip.clockResume t
  | .rampVoltageStep t => RoundTrip.rampVoltageStep t | .rampSettleEnd t => RoundTrip.rampSettleEnd t
  | .replan r => RoundTrip.replan r | .arbiterGrant d => RoundTrip.arbiterGrant d
  | .thermal stack level => RoundTrip.thermal stack level | .sramScrubPass fixed => RoundTrip.sramScrubPass fixed
  | .packageReset tfail imageOk => RoundTrip.packageReset tfail imageOk
  | .hostPortTrain p lanes => RoundTrip.hostPortTrain p lanes | .hostApertureAccess p a => RoundTrip.hostApertureAccess p a
  | .hlockRead p n => RoundTrip.hlockRead p n | .hlockWrite p n v => RoundTrip.hlockWrite p n v | .seize p => RoundTrip.seize p
  | .resume p => RoundTrip.resume p | .post p => RoundTrip.post p | .mail p => RoundTrip.mail p | .intr p => RoundTrip.intr p
  | .submit p => RoundTrip.submit p | .attest p => RoundTrip.attest p | .linkown p => RoundTrip.linkown p
  | .debugModeSet p t on => RoundTrip.debugModeSet p t on | .debugRecordSet p t on => RoundTrip.debugRecordSet p t on
  | .debugRegisterWrite p t r hidden v => RoundTrip.debugRegisterWrite p t r hidden v
  | .debugStop p t n => RoundTrip.debugStop p t n | .debugReverseStep p t => RoundTrip.debugReverseStep p t
  | .debugForwardStep p t => RoundTrip.debugForwardStep p t | .proofTake t => RoundTrip.proofTake t
  | .registerWrite p r v => RoundTrip.registerWrite p r v | .rotationQuantum => RoundTrip.rotationQuantum
  | .seizeAccessRecord => RoundTrip.seizeAccessRecord | .seizeWrite => RoundTrip.seizeWrite | .seizeDone => RoundTrip.seizeDone
  | .lossOfPower => RoundTrip.lossOfPower | .uncorrectedError e => RoundTrip.uncorrectedError e

/-- Settles O1: the round trip of each constructor, for an instruction that a word encodes. -/
theorem decodeOfEncode : Obligations.DecodeOfEncode :=
  fun i hwf hword => (roundTrip i hwf).1 hword

end Sys2Proof.Laws
end

section
/-! Words that encode nothing: unassigned majors, minors, formats and opcodes (R54, R59 to R61, R63, R64, R66, R68). -/

namespace Sys2Proof

/-! ### One word (R59, R60) -/

theorem decodeSu1_unassigned {w : W32} (h : (w.extractLsb' 24 6).toNat ∈ [0x00, 0x05, 0x06, 0x07, 0x25, 0x26, 0x27, 0x2E, 0x2F]
    ∨ 0x30 ≤ (w.extractLsb' 24 6).toNat) : decodeSu1 w = none := by
  simp only [List.mem_cons, List.not_mem_nil, or_false] at h
  unfold decodeSu1
  dsimp only
  split
  case h_40 => rfl
  all_goals omega

theorem decodeAlu_unassigned (sd sa sb : BitVec 6) {min : BitVec 6} (h : 0x14 ≤ min.toNat) : decodeAlu sd sa sb min = none := by
  unfold decodeAlu
  split
  case h_21 => rfl
  all_goals omega

theorem decodeCmp_unassigned (sd sa sb : BitVec 6) {min : BitVec 6} (h : 0x08 ≤ min.toNat) : decodeCmp sd sa sb min = none := by
  unfold decodeCmp
  split
  case h_9 => rfl
  all_goals omega

theorem decodeSys_unassigned (sd sa sb : BitVec 6) {min : BitVec 6} (h : 0x0C ≤ min.toNat) : decodeSys sd sa sb min = none := by
  unfold decodeSys
  split
  case h_13 => rfl
  all_goals omega

theorem decodeSync_unassigned (sd sa sb : BitVec 6) {min : BitVec 6} (h : 0x09 ≤ min.toNat) : decodeSync sd sa sb min = none := by
  unfold decodeSync
  split
  case h_10 => rfl
  all_goals omega

/-- A minor past the last of its SA major. -/
theorem decodeSu1_unassignedMinor {w : W32} {e : Nat × Nat} (he : e ∈ [(0x01, 0x14), (0x02, 0x08), (0x03, 0x0C), (0x04, 0x09)])
    (hmaj : (w.extractLsb' 24 6).toNat = e.1) (hmin : e.2 ≤ (w.extractLsb' 0 6).toNat) : decodeSu1 w = none := by
  simp only [List.mem_cons, List.not_mem_nil, or_false] at he
  unfold decodeSu1
  obtain rfl | rfl | rfl | rfl := he <;> rw [hmaj]
  · exact decodeAlu_unassigned _ _ _ hmin
  · exact decodeCmp_unassigned _ _ _ hmin
  · exact decodeSys_unassigned _ _ _ hmin
  · exact decodeSync_unassigned _ _ _ hmin

theorem decodeSuWords_oneWord {w : W32} (hlen : w.extractLsb' 30 2 = 0) (h : decodeSu1 w = none) (ws : List W32) :
    decodeSuWords w ws = .noWord := by
  unfold decodeSuWords
  rw [hlen, h]
  rfl

/-! ### Two words (R61) -/

theorem decodeSem_unassigned (sd sa : BitVec 6) {min : BitVec 6} (x : W32) (h : 3 ≤ min.toNat) : decodeSem sd sa min x = none := by
  unfold decodeSem
  dsimp only
  split
  case h_4 => rfl
  all_goals omega

theorem decodeTask_unassigned (sd sa : BitVec 6) {min : BitVec 6} (x : W32) (h : 6 ≤ min.toNat) : decodeTask sd sa min x = none := by
  unfold decodeTask
  dsimp only
  split
  case h_7 => rfl
  all_goals omega

theorem decodeTide_unassigned (sd sa : BitVec 6) {min : BitVec 6} (x : W32) (h : 3 ≤ min.toNat) : decodeTide sd sa min x = none := by
  unfold decodeTide
  split
  case h_4 => rfl
  all_goals omega

/-- A field that is not 0 fails the check that it is. -/
theorem need_false {b : Bool} (h : b = false) (i : Instr) : need b i = none := by
  rw [h]
  rfl

theorem decodeSl_unassigned {w : W32} (h : 0x06 ≤ (w.extractLsb' 24 6).toNat) (x : W32) : decodeSl w x = none := by
  unfold decodeSl
  dsimp only
  split
  · split
    case h_7 => rfl
    all_goals omega
  · rfl

/-- A minor past the last of its SL major. -/
theorem decodeSl_unassignedMinor {w : W32} {e : Nat × Nat}
    (he : e ∈ [(0x00, 1), (0x01, 1), (0x02, 1), (0x03, 3), (0x04, 6), (0x05, 3)]) (hmaj : (w.extractLsb' 24 6).toNat = e.1)
    (hmin : e.2 ≤ (w.extractLsb' 6 6).toNat) (x : W32) : decodeSl w x = none := by
  simp only [List.mem_cons, List.not_mem_nil, or_false] at he
  have hne (h : 1 ≤ (w.extractLsb' 6 6).toNat) : (w.extractLsb' 6 6 == 0) = false :=
    beq_eq_false_iff_ne.2 fun h0 => by simp [h0] at h
  unfold decodeSl
  dsimp only
  split
  case isFalse => rfl
  obtain rfl | rfl | rfl | rfl | rfl | rfl := he <;> rw [hmaj]
  · exact need_false (by rw [hne hmin, Bool.false_and]) _
  · exact need_false (hne hmin) _
  · exact need_false (by rw [hne hmin, Bool.false_and]) _
  · exact decodeSem_unassigned _ _ _ hmin
  · exact decodeTask_unassigned _ _ _ hmin
  · exact decodeTide_unassigned _ _ _ hmin

theorem decodeSuWords_twoWords {w x : W32} (hlen : w.extractLsb' 30 2 = 1) (h : decodeSl w x = none) (ws : List W32) :
    decodeSuWords w (x :: ws) = .noWord := by
  unfold decodeSuWords
  rw [hlen]
  exact congrArg (fun o => match o with | some i => Decoded.ok i 8 | none => .noWord) h

/-! ### Commands (R63, R68) -/

/-- The minors that a command's major has assigned. -/
def minorsOf (maj : Nat) : Nat := if maj = 0x11 ∨ maj = 0x15 then 3 else if maj = 0x17 then 7 else 1

theorem minorsOf_le_iff (maj n : Nat) : minorsOf maj ≤ n ↔ ((maj = 0x11 ∨ maj = 0x15) ∧ 3 ≤ n) ∨ (maj = 0x17 ∧ 7 ≤ n)
    ∨ (maj ≠ 0x11 ∧ maj ≠ 0x15 ∧ maj ≠ 0x17 ∧ 1 ≤ n) := by
  unfold minorsOf
  split_ifs <;> omega

theorem candMu_unassigned {f : CmdFields} (h : 9 ≤ f.maj.toNat ∨ 1 ≤ f.min.toNat) : candMu f = none := by
  unfold candMu
  dsimp only
  split
  next hmin =>
    have hzero : f.min.toNat = 0 := congrArg BitVec.toNat (beq_iff_eq.1 hmin)
    split
    case h_10 => rfl
    all_goals omega
  next => rfl

theorem candCe_unassigned {f : CmdFields} (h : 0x28 ≤ f.maj.toNat ∨ 1 ≤ f.min.toNat) : candCe f = none := by
  unfold candCe
  dsimp only
  split
  next hmin =>
    have hzero : f.min.toNat = 0 := congrArg BitVec.toNat (beq_iff_eq.1 hmin)
    split
    case h_9 => rfl
    all_goals omega
  next => rfl

theorem candVu_unassigned {f : CmdFields} (h : f.maj.toNat ≠ 0x30 ∨ 1 ≤ f.min.toNat) : candVu f = none := by
  unfold candVu
  split
  next hvu =>
    obtain ⟨hmaj, hmin⟩ := Bool.and_eq_true_iff.1 hvu
    have h30 : f.maj.toNat = 0x30 := congrArg BitVec.toNat (beq_iff_eq.1 hmaj)
    have hzero : f.min.toNat = 0 := congrArg BitVec.toNat (beq_iff_eq.1 hmin)
    omega
  next => rfl

theorem candAtom_unassigned {f : CmdFields} (h : 7 ≤ f.min.toNat) : candAtom f = none := by
  unfold candAtom
  dsimp only
  split
  case h_8 => rfl
  all_goals omega

theorem candCu_unassigned {f : CmdFields} (h : 0x1E ≤ f.maj.toNat ∨ minorsOf f.maj.toNat ≤ f.min.toNat) : candCu f = none := by
  rw [minorsOf_le_iff] at h
  unfold candCu
  dsimp only
  split
  case h_12 hmaj _ => exact candAtom_unassigned (by omega)
  case h_19 => rfl
  all_goals omega

/-- A command of an unassigned major or minor: the two top bits of its major choose the table that does not list it. -/
theorem candCmd_unassigned {f : CmdFields} (h : (0x09 ≤ f.maj.toNat ∧ f.maj.toNat ≤ 0x0F) ∨ f.maj.toNat = 0x1E ∨ f.maj.toNat = 0x1F
    ∨ (0x28 ≤ f.maj.toNat ∧ f.maj.toNat ≠ 0x30) ∨ minorsOf f.maj.toNat ≤ f.min.toNat) : candCmd f = none := by
  have htop : (f.maj.extractLsb' 4 2).toNat = f.maj.toNat / 16 := by
    have hlt := f.maj.isLt
    rw [BitVec.extractLsb'_toNat, Nat.shiftRight_eq_div_pow]
    omega
  have hmin : minorsOf f.maj.toNat ≤ f.min.toNat → 1 ≤ f.min.toNat := fun hm => by
    rw [minorsOf_le_iff] at hm
    omega
  unfold candCmd
  split
  · exact candMu_unassigned (by omega)
  · exact candCu_unassigned (by omega)
  · exact candCe_unassigned (by omega)
  · exact candVu_unassigned (by omega)

theorem decodeSuWords_badMajor {w : W32} (hlen : w.extractLsb' 30 2 = 2) {x y z : W32}
    (h : candCmd (CmdFields.ofWords w x y z) = none) (ws : List W32) : decodeSuWords w (x :: y :: z :: ws) = .badCmd 1 := by
  unfold decodeSuWords
  rw [hlen]
  have hcmd : decodeCmd w x y z = .badCmd 1 := by
    unfold decodeCmd
    dsimp only
    rw [h]
  exact hcmd

/-! ### Vector words (R64, R66) -/

theorem decodeVu_none {w : W64} (h : decodeVuCand w = none) : decodeVu w = none := by
  unfold decodeVu
  rw [h]

theorem decodeVuCand_unassignedFormat {w : W64} (h : 5 ≤ (w.extractLsb' 61 3).toNat) : decodeVuCand w = none := by
  unfold decodeVuCand
  split
  case h_6 => rfl
  all_goals omega

/-- No format assigns opcode 0. -/
theorem opcode_zero {w : W64} (h : w.extractLsb' 53 8 = 0) : (∀ ty rm sat, decodeVa w ty rm sat = none)
    ∧ (∀ ty, decodeVi w ty = none) ∧ decodeVm w = none ∧ (∀ src, decodeVl w src = none) ∧ decodeVx w = none := by
  unfold decodeVa decodeVi decodeVm decodeVl decodeVx
  rw [h]
  exact ⟨fun _ _ _ => rfl, fun _ => rfl, ite_self _, fun _ => rfl, ite_self _⟩

theorem decodeVuCand_opcodeZero {w : W64} (h : w.extractLsb' 53 8 = 0) : decodeVuCand w = none := by
  obtain ⟨hva, hvi, hvm, hvl, hvx⟩ := opcode_zero h
  unfold decodeVuCand
  simp only [hva, hvi, hvm, hvl, hvx]
  split <;> (repeat split) <;> rfl

/-- Settles O3, table by table: the last arm of each answers for what it does not list. -/
theorem unassignedWordsEncodeNothing : Obligations.UnassignedWordsEncodeNothing := by
  refine ⟨fun w ws hlen => ?eleven, fun ws => ?zero, fun w ws hlen => ⟨fun h => ?major1, fun e he hmaj hmin => ?minor1⟩,
    fun w x ws hlen => ⟨fun h => ?major2, fun e he hmaj hmin => ?minor2⟩, fun w x y z ws hlen => fun h => ?command,
    fun w h => ?format, fun w h => ?opcode⟩
  case eleven =>
    unfold decodeSuWords
    rw [hlen]
    rfl
  case zero => exact decodeSuWords_oneWord rfl rfl ws
  case major1 => exact decodeSuWords_oneWord hlen (decodeSu1_unassigned h) ws
  case minor1 => exact decodeSuWords_oneWord hlen (decodeSu1_unassignedMinor he hmaj hmin) ws
  case major2 => exact decodeSuWords_twoWords hlen (decodeSl_unassigned h x) ws
  case minor2 => exact decodeSuWords_twoWords hlen (decodeSl_unassignedMinor he hmaj hmin x) ws
  case command => exact decodeSuWords_badMajor hlen (candCmd_unassigned h) ws
  case format => exact decodeVu_none (decodeVuCand_unassignedFormat h)
  case opcode => exact decodeVu_none (decodeVuCand_opcodeZero h)

end Sys2Proof
end

section
/-! What a step comes to: the turn of the schedule, the word that a unit fetches (R50, R54, R67, R74, R90, R211, R212, R392). -/

namespace Sys2Proof.Machine

/-! ### The plan of a turn (log 3) -/

theorem step_of_run {s u : State} {i : Instr} (h : s.plan = .run i u) : step s = exec i u := by
  unfold step
  rw [h]

theorem step_of_stay {s u : State} (h : s.plan = .stay u) : step s = .next u := by
  unfold step
  rw [h]

theorem State.nextTurn_cons {s : State} {t : Turn} {ts : List Turn} (h : s.sched = t :: ts) :
    s.nextTurn = (t, { s with sched := ts }) := by
  unfold State.nextTurn
  rw [h]

theorem State.nextTurn_nil {s : State} (h : s.sched = []) :
    s.nextTurn = (Config.freeTurn s.free, { s with sched := [], free := s.free + 1 }) := by
  unfold State.nextTurn
  rw [h]

theorem State.plan_closing {s : State} {t : TileId} (h : s.closing = some t) : s.plan = s.closePlan t := by
  unfold State.plan
  rw [h]

theorem State.plan_open {s : State} (h : s.closing = none) :
    s.plan = if !(s.powered || powersUp s.nextTurn.1) then .off
      else if s.holdsTurn s.nextTurn.1 then .stay s.nextTurn.2 else s.nextTurn.2.planTurn s.nextTurn.1 := by
  unfold State.plan
  rw [h]

/-- A turn that has power and that nothing holds is taken. -/
theorem State.plan_turn {s : State} {t : Turn} {ts : List Turn} (hclosing : s.closing = none) (hsched : s.sched = t :: ts)
    (hpower : s.powered || powersUp t) (hfree : s.holdsTurn t = false) : s.plan = { s with sched := ts }.planTurn t := by
  rw [State.plan_open hclosing, State.nextTurn_cons hsched]
  simp [hpower, hfree]

/-! ### Fetching (R50, R54, R67, R211) -/

/-- The words at the program counter, all in the section, decode to an instruction: the fetch brings it. -/
theorem Member.fetchSu_ok {m : Member} {i : Instr} {len : Nat} (hpc : m.inSection m.su.pc = true)
    (hmore : ∀ a ∈ (List.range (moreWords (m.suWord m.su.pc))).map (fun k => m.su.pc + BitVec.ofNat 64 (4 * (k + 1))),
      m.inSection a = true)
    (hdec : decodeSuWords (m.suWord m.su.pc)
      (((List.range (moreWords (m.suWord m.su.pc))).map (fun k => m.su.pc + BitVec.ofNat 64 (4 * (k + 1)))).map m.suWord) = .ok i len) :
    m.fetchSu = .ok i := by
  have hin : ((List.range (moreWords (m.suWord m.su.pc))).map (fun k => m.su.pc + BitVec.ofNat 64 (4 * (k + 1)))).find?
      (fun a => !m.inSection a) = none :=
    List.find?_eq_none.2 fun a ha => by simp [hmore a ha]
  simp only [Member.fetchSu, hpc, hin, hdec, Bool.not_true, Bool.false_eq_true, if_false]

theorem Member.fetchVu_ok {m : Member} {i : Instr} (hlo : m.code.vcb.toNat ≤ m.vu.vpc.toNat)
    (hhi : m.vu.vpc.toNat + 8 ≤ m.code.vend) (hdec : decodeVu (BitVec.ofNat 64 (numAt m.code.bytes m.vu.vpc.toNat 8)) = some i) :
    m.fetchVu = .ok i := by
  simp only [Member.fetchVu, hlo, hhi, hdec, decide_true, Bool.and_self, if_true]

/-! ### The issue of each unit -/

/-- A running tile, whose cycles run. -/
structure Tile.Runs (x : Tile) : Prop where
  st : x.st = .running
  clock : x.gated = false
  debug : x.dbg.hst = .running

theorem Tile.Runs.not_halted {x : Tile} (h : x.Runs) : ¬ (x.gated = true ∨ x.st ≠ .running ∨ x.dbg.hst ≠ .running) := by
  simp [h.st, h.clock, h.debug]

/-- Nothing is pending at the boundary where the steering unit stands. -/
structure Tile.Clear (x : Tile) : Prop where
  ready : x.m.su.ready ≤ x.m.ctr.cycle
  reissues : x.m.reissues = false
  halt : x.dbg.hreq = false
  debug : x.dbgFirst = false
  preempt : x.m.rep.preempt = false
  report : x.m.su.inHandler = true ∨ x.m.nextReport = none
  flip : x.m.su.flip = false
  wait : x.m.su.wait = .no

/-- The steering unit of such a tile issues the instruction that it fetches. -/
theorem State.suIssue_fetched {s : State} {t : TileId} {i : Instr} (hruns : (s.tile t).Runs) (hclear : (s.tile t).Clear)
    (hfetch : (s.tile t).m.fetchSu = .ok i) (hlast : Instr.actsLast i = false ∨ s.beforeLast t = none) :
    s.suIssue t = some (.run i ({ s with cur := t }.note t)) := by
  obtain ⟨hst, hclock, hdebug⟩ := hruns
  obtain ⟨hready, hreissues, hhalt, hfirst, hpreempt, hreport, hflip, hwait⟩ := hclear
  have hd : (s.tile t).dbg.dmReq.isSome = false ∧ (s.tile t).dbg.recReq.isSome = false ∧ (s.tile t).owesProof = false := by
    simpa [Tile.dbgFirst, and_assoc] using hfirst
  obtain ⟨hdm, hrec, howes⟩ := hd
  have hquiet : ¬ ((s.tile t).m.su.inHandler = false ∧ (s.tile t).m.nextReport.isSome = true) := by
    obtain h | h := hreport <;> simp [h]
  have hchoice : (if Instr.actsLast i then s.beforeLast t else none) = none := by
    obtain h | h := hlast
    · rw [h, if_neg Bool.false_ne_true]
    · rw [h, ite_self]
  have hnow : ¬ (s.tile t).m.ctr.cycle < (s.tile t).m.su.ready := Nat.not_lt.2 hready
  simp only [State.suIssue, hst, hclock, hdebug, hnow, hreissues, hhalt, hdm, hrec, howes, hpreempt, hquiet, hflip, hwait, hfetch, hchoice]
  simp

theorem State.note_of_not_recording {s : State} {t : TileId} (h : (s.tile t).dbg.recording = false) : s.note t = s := by
  simp [State.note, h]

/-- The vector unit of a running tile, in a block, issues the word that it fetches. -/
theorem State.vuIssue_fetched {s : State} {t : TileId} {i : Instr} (hruns : (s.tile t).Runs)
    (hready : (s.tile t).m.vu.ready ≤ (s.tile t).m.ctr.cycle) (hflip : (s.tile t).m.vu.flip = false)
    (hvend : (s.tile t).m.vu.vending = false) (hhalt : (s.tile t).m.vu.halted = none) (hcmd : (s.tile t).m.vu.cmd ≠ none)
    (hfree : ((s.tile t).dbg.hreq = false ∧ (s.tile t).owesProof = false) ∨ (s.tile t).m.su.wait.boundary = false
      ∨ (s.tile t).m.ctr.cycle < (s.tile t).m.su.ready)
    (hfetch : (s.tile t).m.fetchVu = .ok i) : s.vuIssue t = some (.run i { s with cur := t }) := by
  obtain ⟨hst, hclock, hdebug⟩ := hruns
  have hnow : ¬ (s.tile t).m.ctr.cycle < (s.tile t).m.vu.ready := Nat.not_lt.2 hready
  have hgo : ¬ (((s.tile t).dbg.hreq || (s.tile t).owesProof) = true ∧ (s.tile t).m.su.wait.boundary = true
      ∧ (s.tile t).m.su.ready ≤ (s.tile t).m.ctr.cycle) := by
    rintro ⟨hreq, hbound, hle⟩
    obtain ⟨h1, h2⟩ | h | h := hfree
    · simp [h1, h2] at hreq
    · simp [h] at hbound
    · exact absurd h (Nat.not_lt.2 hle)
  simp only [State.vuIssue, hst, hclock, hdebug, hnow, hflip, hvend, hhalt, hcmd, hgo, hfetch]
  simp

theorem State.planSu_issues {s : State} {t : TileId} {p : Plan} (hruns : (s.tile t).Runs) (h : s.suIssue t = some p) :
    s.planSu t = p := by
  unfold State.planSu
  dsimp only
  rw [if_neg hruns.not_halted, h]

theorem State.planVu_issues {s : State} {t : TileId} {p : Plan} (hruns : (s.tile t).Runs) (h : s.vuIssue t = some p) :
    s.planVu t = p := by
  unfold State.planVu
  dsimp only
  rw [if_neg hruns.not_halted, h]

/-- Settles O4: the plan of the turn is the issue of the unit, and the issue is the word that the unit fetches. -/
theorem stepRunsWords : Obligations.StepRunsWords := by
  refine ⟨?steering, ?vector⟩
  case steering =>
    intro s t ts i len x m w more hpower hfrozen hclosing hsched hst hclock hdebug hhalt hfirst hready hreissues hflip hwait
      hpreempt hreport hpc hmore hdec hlast
    have hruns : ({ s with sched := ts }.tile t).Runs := ⟨hst, hclock, hdebug⟩
    have hclear : ({ s with sched := ts }.tile t).Clear :=
      ⟨hready, hreissues, hhalt, hfirst, hpreempt, hreport, hflip, hwait⟩
    have hissue := State.suIssue_fetched hruns hclear (Member.fetchSu_ok hpc hmore hdec) hlast
    have hplan : s.plan = .run i (({ s with sched := ts, cur := t }).note t) :=
      (State.plan_turn hclosing hsched (by simp [hpower]) hfrozen).trans (State.planSu_issues hruns hissue)
    refine ⟨step_of_run hplan, fun hrecording => ?_⟩
    exact (step_of_run hplan).trans (congrArg (exec i) (State.note_of_not_recording hrecording))
  case vector =>
    intro s t ts i x m hpower hfrozen hclosing hsched hst hclock hdebug hfree hready hflip hvend hhalt hcmd hlo hhi hdec
    have hruns : ({ s with sched := ts }.tile t).Runs := ⟨hst, hclock, hdebug⟩
    have hissue := State.vuIssue_fetched hruns hready hflip hvend hhalt hcmd hfree (Member.fetchVu_ok hlo hhi hdec)
    exact step_of_run ((State.plan_turn hclosing hsched (by simp [hpower]) hfrozen).trans (State.planVu_issues hruns hissue))

/-- Settles O5: the plan of each turn, in the order in which a step looks for one. -/
theorem scheduleAndPower : Obligations.ScheduleAndPower := by
  intro s
  refine ⟨fun hclosing hsched => ?free, fun t ts hclosing hsched hoff hup => ?unpowered, fun f ok ts hclosing hsched => ?reset,
    fun t i hclosing hdue => ?start, fun t hclosing hdue hlast => ?close, fun t u ts hclosing hpower hfrozen hu hsched => ?frozen⟩
  case free =>
    have hplan : s.plan = State.plan { s with sched := [Config.freeTurn s.free], free := s.free + 1 } := by
      rw [State.plan_open hclosing, State.plan_open (s := { s with sched := [_], free := _ }) hclosing, State.nextTurn_nil hsched]
      rfl
    unfold step
    rw [hplan]
  case unpowered =>
    have hplan : s.plan = .off := by
      rw [State.plan_open hclosing, State.nextTurn_cons hsched]
      simp [hoff, hup]
    unfold step
    rw [hplan]
  case reset =>
    have hplan := State.plan_turn hclosing hsched (by simp [powersUp])
      (by simp [State.holdsTurn, Instr.ofMember, State.replayHolds, Instr.memberTile])
    exact step_of_run hplan
  case start =>
    refine step_of_run ((State.plan_closing hclosing).trans ?_)
    unfold State.closePlan
    rw [hdue]
  case close =>
    refine step_of_stay ((State.plan_closing hclosing).trans ?_)
    unfold State.closePlan
    rw [hdue, hlast]
  case frozen =>
    have hheld : s.holdsTurn u = true := by
      simp only [List.mem_cons, List.not_mem_nil, or_false] at hu
      obtain rfl | rfl | rfl := hu <;> exact hfrozen
    refine step_of_stay ?_
    rw [State.plan_open hclosing, State.nextTurn_cons hsched]
    simp [hpower, hheld]

end Sys2Proof.Machine
end

section
/-! SUPPORT. The rules of the semaphores: what a read of a value, of P or of Q gives after a write of one of them, what a post does
to its tile, and what the issue of an instruction that writes semaphores alone leaves as it was. -/

namespace Sys2Proof.Machine

theorem r8_inj {i j : BitVec 8} (h : (r8 i).val = (r8 j).val) : i = j := BitVec.eq_of_toNat_eq h

theorem r8_ne {i j : BitVec 8} (h : i ≠ j) : (r8 i).val ≠ (r8 j).val := fun e => h (r8_inj e)

/-! ### Reads after writes -/

@[simp] theorem Member.sem_setSem (m : Member) (k : BitVec 8) (v : Nat) : (m.setSem k v).sem k = v % 2 ^ 24 := by
  simp [Member.sem, Member.setSem]

@[simp] theorem Member.sem_setSem_ne (m : Member) {j k : BitVec 8} (v : Nat) (h : j ≠ k) : (m.setSem k v).sem j = m.sem j := by
  simp only [Member.sem, Member.setSem, Vector.getElem_set_ne _ _ (r8_ne h.symm)]

@[simp] theorem Member.semP_setP (m : Member) (k : BitVec 8) (v : Nat) : (m.setP k v).semP k = v % 2 ^ 24 := by
  simp [Member.semP, Member.setP]

@[simp] theorem Member.semP_setP_ne (m : Member) {j k : BitVec 8} (v : Nat) (h : j ≠ k) : (m.setP k v).semP j = m.semP j := by
  simp only [Member.semP, Member.setP, Vector.getElem_set_ne _ _ (r8_ne h.symm)]

@[simp] theorem Member.semQ_setQ (m : Member) (k : BitVec 8) (v : Nat) : (m.setQ k v).semQ k = v % 2 ^ 24 := by
  simp [Member.semQ, Member.setQ]

@[simp] theorem Member.semQ_setQ_ne (m : Member) {j k : BitVec 8} (v : Nat) (h : j ≠ k) : (m.setQ k v).semQ j = m.semQ j := by
  simp only [Member.semQ, Member.setQ, Vector.getElem_set_ne _ _ (r8_ne h.symm)]

@[simp] theorem Member.semP_setSem (m : Member) (j k : BitVec 8) (v : Nat) : (m.setSem k v).semP j = m.semP j := rfl
@[simp] theorem Member.semQ_setSem (m : Member) (j k : BitVec 8) (v : Nat) : (m.setSem k v).semQ j = m.semQ j := rfl
@[simp] theorem Member.sem_setP (m : Member) (j k : BitVec 8) (v : Nat) : (m.setP k v).sem j = m.sem j := rfl
@[simp] theorem Member.semQ_setP (m : Member) (j k : BitVec 8) (v : Nat) : (m.setP k v).semQ j = m.semQ j := rfl
@[simp] theorem Member.sem_setQ (m : Member) (j k : BitVec 8) (v : Nat) : (m.setQ k v).sem j = m.sem j := rfl
@[simp] theorem Member.semP_setQ (m : Member) (j k : BitVec 8) (v : Nat) : (m.setQ k v).semP j = m.semP j := rfl

@[simp] theorem Member.sem_retire (m : Member) (j : BitVec 8) (len : Nat) : (m.retire len).sem j = m.sem j := rfl
@[simp] theorem Member.semP_retire (m : Member) (j : BitVec 8) (len : Nat) : (m.retire len).semP j = m.semP j := rfl
@[simp] theorem Member.semQ_retire (m : Member) (j : BitVec 8) (len : Nat) : (m.retire len).semQ j = m.semQ j := rfl
@[simp] theorem Member.sem_addWeight (m : Member) (j : BitVec 8) (wt : Nat) : (m.addWeight wt).sem j = m.sem j := rfl
@[simp] theorem Member.semP_addWeight (m : Member) (j : BitVec 8) (wt : Nat) : (m.addWeight wt).semP j = m.semP j := rfl
@[simp] theorem Member.semQ_addWeight (m : Member) (j : BitVec 8) (wt : Nat) : (m.addWeight wt).semQ j = m.semQ j := rfl

/-! ### Members that differ in their semaphores alone -/

/-- Only the semaphores differ. -/
def Member.semsOnly (m n : Member) : Prop := ∃ x, n = { m with sems := x }

theorem Member.semsOnly_refl (m : Member) : m.semsOnly m := ⟨m.sems, rfl⟩

theorem Member.semsOnly.trans {m n o : Member} (h : m.semsOnly n) (h' : n.semsOnly o) : m.semsOnly o := by
  obtain ⟨x, rfl⟩ := h
  obtain ⟨y, rfl⟩ := h'
  exact ⟨y, rfl⟩

theorem Member.semsOnly_setSem (m : Member) (k : BitVec 8) (v : Nat) : m.semsOnly (m.setSem k v) := ⟨_, rfl⟩
theorem Member.semsOnly_setP (m : Member) (k : BitVec 8) (v : Nat) : m.semsOnly (m.setP k v) := ⟨_, rfl⟩
theorem Member.semsOnly_post (m : Member) (k : BitVec 8) (v : Nat) (by_ : Poster) : m.semsOnly (m.post k v by_) := ⟨_, rfl⟩

/-! ### A post -/

/-- The value that a post makes of a semaphore's value (R73, R319). -/
def posted (k : BitVec 8) (old v : Nat) : Nat := if isLocal k then (old + v) % 2 ^ 24 else min (old + v) (2 ^ 24 - 1)

@[simp] theorem Member.sem_post (m : Member) (k : BitVec 8) (v : Nat) (by_ : Poster) :
    (m.post k v by_).sem k = posted k (m.sem k) v := by
  have h : (m.post k v by_).sem k = (m.setSem k (if isLocal k then m.sem k + v else min (m.sem k + v) semMax)).sem k := rfl
  rw [h, Member.sem_setSem, posted]
  split
  · rfl
  · exact Nat.mod_eq_of_lt (by simp only [semMax]; omega)

@[simp] theorem Member.sem_post_ne (m : Member) {j k : BitVec 8} (v : Nat) (by_ : Poster) (h : j ≠ k) :
    (m.post k v by_).sem j = m.sem j := Member.sem_setSem_ne m _ h

@[simp] theorem Member.semP_post (m : Member) (j k : BitVec 8) (v : Nat) (by_ : Poster) :
    (m.post k v by_).semP j = m.semP j := rfl

/-- What a post does to its member: an external semaphore that saturates is noted for the cycle (R319, R410). -/
def Member.postOwn (m : Member) (k : BitVec 8) (v : Nat) (by_ : Poster) : Member :=
  let x := m.post k v by_
  if !isLocal k && decide (semMax < m.sem k + v) && !m.sems.sat.contains k then
    { x with sems := { x.sems with sat := k :: x.sems.sat } }
  else x

@[simp] theorem Member.sem_postOwn (m : Member) (k : BitVec 8) (v : Nat) (by_ : Poster) :
    (m.postOwn k v by_).sem k = posted k (m.sem k) v := by
  unfold Member.postOwn
  dsimp only
  split <;> exact Member.sem_post m k v by_

@[simp] theorem Member.sem_postOwn_ne (m : Member) {j k : BitVec 8} (v : Nat) (by_ : Poster) (h : j ≠ k) :
    (m.postOwn k v by_).sem j = m.sem j := by
  unfold Member.postOwn
  dsimp only
  split <;> exact Member.sem_post_ne m v by_ h

@[simp] theorem Member.semP_postOwn (m : Member) (j k : BitVec 8) (v : Nat) (by_ : Poster) :
    (m.postOwn k v by_).semP j = m.semP j := by
  unfold Member.postOwn
  dsimp only
  split <;> rfl

theorem Member.semsOnly_postOwn (m : Member) (k : BitVec 8) (v : Nat) (by_ : Poster) : m.semsOnly (m.postOwn k v by_) := by
  unfold Member.postOwn
  dsimp only
  split
  · exact ⟨_, rfl⟩
  · exact m.semsOnly_post k v by_

@[simp] theorem State.tile_inCycle (s : State) (ok : Fab → Bool) (u : TileId) : (s.inCycle ok).tile u = s.tile u := by
  unfold State.inCycle
  split <;> rfl

@[simp] theorem State.tile_logEvent (s : State) (code src : Half) (data : BitVec 128) (u : TileId) :
    (s.logEvent code src data).tile u = s.tile u := State.tile_inCycle s _ u

/-- An event of a code that is not 0 stands at its place in the recorder. -/
theorem State.logEvent_code (s : State) {code : Half} (src : Half) (data : BitVec 128) (h : code ≠ 0) :
    (SMap.get ⟨0, 0, 0, 0, 0⟩ (s.logEvent code src data).events (s.eventSeq.toNat % 4096)).code = code := by
  have hne : (⟨data, code, src, s.eventSeq, s.fleet⟩ : Event) ≠ ⟨0, 0, 0, 0, 0⟩ := fun e => h (congrArg Event.code e)
  simp only [State.logEvent, SMap.set, if_neg hne, SMap.get_insert, if_true]

theorem State.tile_postOwn (s : State) (t : TileId) (k : BitVec 8) (v : Nat) (by_ : Poster) (u : TileId) :
    (s.postOwn t k v by_).tile u = (s.modM t (fun m => m.postOwn k v by_)).tile u := by
  by_cases hu : t = u
  · subst hu
    unfold State.postOwn
    simp only [State.tile_modM, Member.postOwn]
    split <;> simp
  · unfold State.postOwn
    dsimp only
    split <;> simp [hu]

@[simp] theorem State.m_postOwn (s : State) (t : TileId) (k : BitVec 8) (v : Nat) (by_ : Poster) :
    ((s.postOwn t k v by_).tile t).m = (s.tile t).m.postOwn k v by_ := by
  rw [State.tile_postOwn, State.tile_modM]

@[simp] theorem State.tile_postOwn_ne (s : State) {t u : TileId} (k : BitVec 8) (v : Nat) (by_ : Poster) (h : t ≠ u) :
    (s.postOwn t k v by_).tile u = s.tile u := by
  rw [State.tile_postOwn, State.tile_modM_ne _ _ _ _ h]

@[simp] theorem State.postOwn_mem (s : State) (t : TileId) (k : BitVec 8) (v : Nat) (by_ : Poster) :
    (s.postOwn t k v by_).mem = s.mem := by
  unfold State.postOwn
  dsimp only
  split <;> simp

@[simp] theorem State.inCycle_tposts (s : State) (ok : Fab → Bool) : (s.inCycle ok).tposts = s.tposts := by
  unfold State.inCycle
  split <;> rfl

@[simp] theorem State.logEvent_tposts (s : State) (code src : Half) (data : BitVec 128) :
    (s.logEvent code src data).tposts = s.tposts := State.inCycle_tposts s _

@[simp] theorem State.postOwn_tposts (s : State) (t : TileId) (k : BitVec 8) (v : Nat) (by_ : Poster) :
    (s.postOwn t k v by_).tposts = s.tposts := by
  unfold State.postOwn
  dsimp only
  split <;> simp

@[simp] theorem State.logReplay_mem (s : State) (t : TileId) (r : LogRec) : (s.logReplay t r).mem = s.mem := rfl
@[simp] theorem State.logReplay_tposts (s : State) (t : TileId) (r : LogRec) : (s.logReplay t r).tposts = s.tposts := rfl

@[simp] theorem State.m_logReplay (s : State) (t : TileId) (r : LogRec) : ((s.logReplay t r).tile t).m = (s.tile t).m := by
  unfold State.logReplay
  rw [State.tile_modTile]
  split <;> rfl

@[simp] theorem State.tile_logReplay_ne (s : State) {t u : TileId} (r : LogRec) (h : t ≠ u) :
    (s.logReplay t r).tile u = s.tile u := State.tile_modTile_ne s t u _ h

/-- What a post to a tile's member changes (R73, R317, R319): that member. -/
theorem State.post_changes (s : State) (t : TileId) (k : BitVec 8) (v : Nat) (by_ : Poster) :
    ((s.post t k v by_).tile t).m = (s.tile t).m.postOwn k v by_ ∧ (s.post t k v by_).mem = s.mem
      ∧ (s.post t k v by_).tposts = s.tposts ∧ ∀ u, t ≠ u → (s.post t k v by_).tile u = s.tile u := by
  unfold State.post
  dsimp only
  split
  · exact ⟨by simp, by simp, by simp, fun u hu => by simp [hu]⟩
  · exact ⟨by simp, by simp, by simp, fun u hu => by simp [hu]⟩

/-! ### An instruction that retires -/

/-- An issue that its window takes, of an instruction that changes the current member and retires: its change, and its weight. -/
theorem State.issue_retire {s t : State} {wt len : Nat} {g : Member → Member} {body : State → State × Option Report}
    (h : s.issues wt = true) (hb : body s = (t.modM s.cur (fun m => (g m).retire len), none)) :
    s.issue wt body = t.modM s.cur (fun m => ((g m).retire len).addWeight wt) := by
  rw [State.issue_next h hb (by simp [Member.retire, Member.retireTo, SuWait.atIssue]), State.modM_modM]

/-- An instruction that retires goes on by its length, where its change left the steering unit and the counters alone. -/
theorem wentOn_retire {m x : Member} (len wt : Nat) (hsu : x.su = m.su) (hctr : x.ctr = m.ctr) :
    wentOn m ((x.retire len).addWeight wt) len := by
  unfold wentOn
  simp only [Member.retire, Member.retireTo, Member.addWeight, hsu, hctr, true_and]
  split <;> rfl

theorem Member.semsOnly.wentOn {m x : Member} (h : m.semsOnly x) (len wt : Nat) :
    wentOn m ((x.retire len).addWeight wt) len := by
  obtain ⟨y, rfl⟩ := h
  exact wentOn_retire len wt rfl rfl

theorem Member.semsOnly.f_eq {m x : Member} (h : m.semsOnly x) : x.f = m.f := by obtain ⟨y, rfl⟩ := h; rfl
theorem Member.semsOnly.q_eq {m x : Member} (h : m.semsOnly x) : x.q = m.q := by obtain ⟨y, rfl⟩ := h; rfl

end Sys2Proof.Machine
end

section
/-! PROOF. Semaphores (R73, R315 to R319). -/

namespace Sys2Proof.Machine

/-- What an instruction on the semaphores keeps: it goes on by 8 bytes, and the steering registers, the queues and memory stay. -/
def semKept (s t : State) : Prop :=
  wentOn (s.tile s.cur).m (t.tile s.cur).m 8 ∧ (t.tile s.cur).m.f = (s.tile s.cur).m.f ∧ sameMemory s t
    ∧ (t.tile s.cur).m.q = (s.tile s.cur).m.q

/-- An instruction whose body changes semaphores alone and retires completes; the current member is the changed one. -/
theorem completes_semOp {i : Instr} {s u : State} {g : Member → Member} {body : State → State × Option Report}
    {P : State → Prop} (h : s.issues 1 = true) (hi : exec i s = .next (s.issue 1 body))
    (hb : body s = (u.modM s.cur (fun m => (g m).retire 8), none)) (hmem : u.mem = s.mem)
    (hg : (s.tile s.cur).m.semsOnly (g (u.tile s.cur).m))
    (hP : P (u.modM s.cur (fun m => ((g m).retire 8).addWeight 1))) :
    completes i s (fun t => semKept s t ∧ P t) := by
  refine ⟨_, hi.trans (congrArg _ (State.issue_retire h hb)), ⟨?_, ?_, sameMemory_of_mem_eq hmem, ?_⟩, hP⟩
  · simpa using hg.wentOn 8 1
  · simpa using hg.f_eq
  · simpa using hg.q_eq

/-- An instruction whose check fails raises its report. -/
theorem exec_raises {i : Instr} {s : State} {r : Report} {wt : Nat} {body : State → State × Option Report}
    (h : s.issues wt = true) (hi : exec i s = .next (s.issue wt body)) (hb : body s = (s, some r)) :
    exec i s = .next (s.raise r) := hi.trans (congrArg _ (State.issue_raise h hb))

theorem semMax_lt {n : Nat} : semMax < n ↔ 2 ^ 24 ≤ n := by
  simp only [semMax]
  omega

/-! ### `sem.post` -/

/-- The poster that `sem.post` names. -/
def suPoster (t : TileId) : Poster := ⟨4, BitVec.ofNat 7 t.val, 0⟩

theorem semPost_next {s : State} (k : BitVec 8) (v : BitVec 24)
    (hp : isLocal k = true → (s.tile s.cur).m.semP k + v.toNat < 2 ^ 24) : ∃ body,
    exec (.semPost k v) s = .next (s.issue 1 body) ∧ body s = ((s.postOwn s.cur k v.toNat (suPoster s.cur)).modM s.cur
      (fun m => (if isLocal k then m.setP k (m.semP k + v.toNat) else m).retire 8), none) := by
  refine ⟨_, rfl, ?_⟩
  have hno : (isLocal k && decide (semMax < (s.tile s.cur).m.semP k + v.toNat)) = false := by
    cases hk : isLocal k with
    | false => rfl
    | true =>
      rw [Bool.true_and, decide_eq_false (fun hlt => Nat.not_le.2 (hp hk) (semMax_lt.1 hlt))]
  simp only [hno, Bool.false_eq_true, if_false, suPoster]

theorem semPost_local {s : State} (h : s.issues 1 = true) {k : BitVec 8} (v : BitVec 24) (hk : isLocal k = true)
    (hp : (s.tile s.cur).m.semP k + v.toNat < 2 ^ 24) :
    completes (.semPost k v) s (fun t => semKept s t
      ∧ (t.tile s.cur).m.sem k = ((s.tile s.cur).m.sem k + v.toNat) % 2 ^ 24
      ∧ (t.tile s.cur).m.semP k = (s.tile s.cur).m.semP k + v.toNat
      ∧ ∀ j, j ≠ k → (t.tile s.cur).m.sem j = (s.tile s.cur).m.sem j ∧ (t.tile s.cur).m.semP j = (s.tile s.cur).m.semP j) := by
  obtain ⟨body, hi, hb⟩ := semPost_next (s := s) k v (fun _ => hp)
  simp only [hk, if_true] at hb
  refine completes_semOp h hi hb (by simp) ?_ ⟨?_, ?_, fun j hj => ⟨?_, ?_⟩⟩
  · rw [State.m_postOwn]
    exact (Member.semsOnly_postOwn _ _ _ _).trans (Member.semsOnly_setP _ _ _)
  · simp [posted, hk]
  · simpa using hp
  · simp [hj]
  · simp [hj]

theorem semPost_external {s : State} (h : s.issues 1 = true) {k : BitVec 8} (v : BitVec 24) (hk : isLocal k = false) :
    completes (.semPost k v) s (fun t => semKept s t
      ∧ (t.tile s.cur).m.sem k = min ((s.tile s.cur).m.sem k + v.toNat) (2 ^ 24 - 1)
      ∧ ∀ j, j ≠ k → (t.tile s.cur).m.sem j = (s.tile s.cur).m.sem j) := by
  obtain ⟨body, hi, hb⟩ := semPost_next (s := s) k v (fun hl => by simp [hk] at hl)
  simp only [hk, Bool.false_eq_true, if_false] at hb
  refine completes_semOp (g := id) h hi hb (by simp) ?_ ⟨?_, fun j hj => ?_⟩
  · rw [State.m_postOwn]
    exact Member.semsOnly_postOwn _ _ _ _
  · simp [posted, hk]
  · simp [hj]

theorem semPost_overflow {s : State} (h : s.issues 1 = true) {k : BitVec 8} (v : BitVec 24) (hk : isLocal k = true)
    (hp : 2 ^ 24 ≤ (s.tile s.cur).m.semP k + v.toNat) :
    exec (.semPost k v) s = .next (s.raise (semReport 0x08 k)) := by
  refine exec_raises h rfl ?_
  have hov : (isLocal k && decide (semMax < (s.tile s.cur).m.semP k + v.toNat)) = true := by
    rw [hk, Bool.true_and, decide_eq_true (semMax_lt.2 hp)]
  simp only [hov, if_true]

/-! ### `sem.set` -/

/-- What `sem.set` does to its member, P aside: the value, and the record of who set it. -/
def Member.setLogged (m : Member) (k : BitVec 8) (v : Nat) (by_ : Poster) : Member :=
  let x := m.setSem k v
  { x with sems := { x.sems with posts := ⟨k, m.sem k, v, by_, m.ctr.cycle⟩ :: x.sems.posts } }

theorem Member.semsOnly_setLogged (m : Member) (k : BitVec 8) (v : Nat) (by_ : Poster) : m.semsOnly (m.setLogged k v by_) :=
  ⟨_, rfl⟩

@[simp] theorem Member.sem_setLogged (m : Member) (k : BitVec 8) (v : Nat) (by_ : Poster) :
    (m.setLogged k v by_).sem k = v % 2 ^ 24 := Member.sem_setSem m k v

@[simp] theorem Member.sem_setLogged_ne (m : Member) {j k : BitVec 8} (v : Nat) (by_ : Poster) (h : j ≠ k) :
    (m.setLogged k v by_).sem j = m.sem j := Member.sem_setSem_ne m v h

@[simp] theorem Member.semP_setLogged (m : Member) (j k : BitVec 8) (v : Nat) (by_ : Poster) :
    (m.setLogged k v by_).semP j = m.semP j := rfl

/-- P as `sem.set` adjusts it (R315). -/
def Member.adjustedP (m : Member) (k : BitVec 8) (v : BitVec 24) : Nat := m.semP k + v.toNat - m.sem k

/-- Every remaining wait on a semaphore is covered by a value of P (R76, R315). -/
def Member.covers (m : Member) (k : BitVec 8) (p : Nat) : Prop := ∀ w ∈ m.waits, w.sem = k → waitCovered p (m.semQ k) w = true

theorem Member.covers_iff (m : Member) (k : BitVec 8) (p : Nat) :
    (m.waits.filter (fun w => w.sem == k)).all (waitCovered p (m.semQ k)) = true ↔ m.covers k p := by
  simp [Member.covers, List.all_eq_true, imp_iff_not_or]

/-- `sem.set` by its three outcomes: SEM_OVERFLOW, FORWARD_WAIT, or the value set. -/
theorem semSet_body (s : State) (k : BitVec 8) (v : BitVec 24) : ∃ body, exec (.semSet k v) s = .next (s.issue 1 body) ∧
    body s = (let m := (s.tile s.cur).m
      let p := m.adjustedP k v
      if isLocal k then
        if semMax < p then (s, some (semReport 0x08 k))
        else if (m.waits.filter (fun w => w.sem == k)).all (waitCovered p (m.semQ k)) then
          (s.modM s.cur (fun m => ((m.setLogged k v.toNat (suPoster s.cur)).setP k p).retire 8), none)
        else (s, some (semReport 0x07 k))
      else (s.modM s.cur (fun m => (m.setLogged k v.toNat (suPoster s.cur)).retire 8), none)) := ⟨_, rfl, rfl⟩

theorem semSet_local {s : State} (h : s.issues 1 = true) {k : BitVec 8} (v : BitVec 24) (hk : isLocal k = true)
    (hp : (s.tile s.cur).m.adjustedP k v < 2 ^ 24) (hc : (s.tile s.cur).m.covers k ((s.tile s.cur).m.adjustedP k v)) :
    completes (.semSet k v) s (fun t => semKept s t ∧ (t.tile s.cur).m.sem k = v.toNat
      ∧ (isLocal k = true → (t.tile s.cur).m.semP k = (s.tile s.cur).m.adjustedP k v)
      ∧ ∀ j, j ≠ k → (t.tile s.cur).m.sem j = (s.tile s.cur).m.sem j ∧ (t.tile s.cur).m.semP j = (s.tile s.cur).m.semP j) := by
  obtain ⟨body, hi, hb⟩ := semSet_body s k v
  have hle : ¬ semMax < (s.tile s.cur).m.adjustedP k v := fun hlt => Nat.not_le.2 hp (semMax_lt.1 hlt)
  simp only [hk, if_true, if_neg hle, (Member.covers_iff _ _ _).2 hc] at hb
  refine completes_semOp h hi hb rfl ((Member.semsOnly_setLogged _ _ _ _).trans (Member.semsOnly_setP _ _ _))
    ⟨?_, fun _ => ?_, fun j hj => ⟨?_, ?_⟩⟩
  · simp [Nat.mod_eq_of_lt v.isLt]
  · simpa using hp
  · simp [hj]
  · simp [hj]

theorem semSet_external {s : State} (h : s.issues 1 = true) {k : BitVec 8} (v : BitVec 24) (hk : isLocal k = false) :
    completes (.semSet k v) s (fun t => semKept s t ∧ (t.tile s.cur).m.sem k = v.toNat
      ∧ (isLocal k = true → (t.tile s.cur).m.semP k = (s.tile s.cur).m.adjustedP k v)
      ∧ ∀ j, j ≠ k → (t.tile s.cur).m.sem j = (s.tile s.cur).m.sem j ∧ (t.tile s.cur).m.semP j = (s.tile s.cur).m.semP j) := by
  obtain ⟨body, hi, hb⟩ := semSet_body s k v
  simp only [hk, Bool.false_eq_true, if_false] at hb
  refine completes_semOp h hi hb rfl (Member.semsOnly_setLogged _ _ _ _) ⟨?_, fun hl => ?_, fun j hj => ⟨?_, ?_⟩⟩
  · simp [Nat.mod_eq_of_lt v.isLt]
  · simp [hk] at hl
  · simp [hj]
  · simp

theorem semSet_overflow {s : State} (h : s.issues 1 = true) {k : BitVec 8} (v : BitVec 24) (hk : isLocal k = true)
    (hp : 2 ^ 24 ≤ (s.tile s.cur).m.adjustedP k v) : exec (.semSet k v) s = .next (s.raise (semReport 0x08 k)) := by
  obtain ⟨body, hi, hb⟩ := semSet_body s k v
  simp only [hk, if_true, if_pos (semMax_lt.2 hp)] at hb
  exact exec_raises h hi hb

theorem semSet_uncovered {s : State} (h : s.issues 1 = true) {k : BitVec 8} (v : BitVec 24) (hk : isLocal k = true)
    (hp : (s.tile s.cur).m.adjustedP k v < 2 ^ 24) (hc : ¬ (s.tile s.cur).m.covers k ((s.tile s.cur).m.adjustedP k v)) :
    exec (.semSet k v) s = .next (s.raise (semReport 0x07 k)) := by
  obtain ⟨body, hi, hb⟩ := semSet_body s k v
  have hle : ¬ semMax < (s.tile s.cur).m.adjustedP k v := fun hlt => Nat.not_le.2 hp (semMax_lt.1 hlt)
  simp only [hk, if_true, if_neg hle, mt (Member.covers_iff _ _ _).1 hc] at hb
  exact exec_raises h hi hb

/-! ### `sem.rd` -/

theorem semRd_completes {s : State} (h : s.issues 1 = true) (d : SReg) (k : BitVec 8) :
    completes (.semRd d k) s (fun t => semKept s t ∧ (t.tile s.cur).m.sems = (s.tile s.cur).m.sems
      ∧ (t.tile s.cur).m.su.semRds = (s.tile s.cur).m.su.semRds ++ [((s.tile s.cur).m.sref d, k)]) := by
  refine ⟨_, congrArg Host.Outcome.next (State.opM_eq h _ rfl), ⟨?_, ?_, sameMemory_of_mem_eq rfl, ?_⟩, ?_, ?_⟩
  · rw [State.tile_modM]
    unfold wentOn
    simp only [Member.retire, Member.retireTo, Member.addWeight, true_and]
    split <;> rfl
  · simp
  · simp
  · simp
  · rw [State.tile_modM]
    rfl

/-! ### `sem.post.tile` and the landing of its post -/

/-- The tile that `sem.post.tile` names (R317). -/
def postTarget (a : W64) : TileId := ⟨a.toNat % 128, Nat.mod_lt _ (by decide)⟩

theorem semPostTile_body (s : State) (a : SReg) (k : BitVec 8) (v : BitVec 24) : ∃ body,
    exec (.semPostTile a k v) s = .next (s.issue 1 body) ∧ body s = ((if postTarget ((s.tile s.cur).m.sreg a) = s.cur
        then s.postOwn s.cur k v.toNat (suPoster s.cur)
        else { s with tposts := s.tposts ++ [⟨s.cur, postTarget ((s.tile s.cur).m.sreg a), (s.tile s.cur).m.job, k, v.toNat⟩] }).modM
      s.cur (fun m => m.retire 8), none) := ⟨_, rfl, rfl⟩

theorem semPostTile_other {s : State} (h : s.issues 1 = true) (a : SReg) (k : BitVec 8) (v : BitVec 24)
    (hd : ((s.tile s.cur).m.sreg a).toNat % 128 ≠ s.cur.val) :
    completes (.semPostTile a k v) s (fun t => semKept s t ∧ (t.tile s.cur).m.sems = (s.tile s.cur).m.sems
      ∧ ∃ dst : TileId, dst.val = ((s.tile s.cur).m.sreg a).toNat % 128
        ∧ t.tposts = s.tposts ++ [⟨s.cur, dst, (s.tile s.cur).m.job, k, v.toNat⟩]) := by
  obtain ⟨body, hi, hb⟩ := semPostTile_body s a k v
  rw [if_neg (fun e => hd (congrArg Fin.val e))] at hb
  refine completes_semOp (g := id) h hi hb rfl (Member.semsOnly_refl _) ⟨?_, _, rfl, rfl⟩
  rw [State.tile_modM]
  rfl

theorem semPostTile_own {s : State} (h : s.issues 1 = true) (a : SReg) {k : BitVec 8} (v : BitVec 24)
    (hd : ((s.tile s.cur).m.sreg a).toNat % 128 = s.cur.val) (hk : isLocal k = false) :
    completes (.semPostTile a k v) s (fun t => semKept s t
      ∧ (t.tile s.cur).m.sem k = min ((s.tile s.cur).m.sem k + v.toNat) (2 ^ 24 - 1)
      ∧ ∀ j, j ≠ k → (t.tile s.cur).m.sem j = (s.tile s.cur).m.sem j) := by
  obtain ⟨body, hi, hb⟩ := semPostTile_body s a k v
  rw [if_pos (Fin.ext hd)] at hb
  refine completes_semOp (g := id) h hi hb (by simp) ?_ ⟨?_, fun j hj => ?_⟩
  · rw [State.m_postOwn]
    exact Member.semsOnly_postOwn _ _ _ _
  · simp [posted, hk]
  · simp [hj]

/-- A post between tiles that no older one of its pair precedes is taken from the list and lands. -/
theorem exec_semPostTileLands {s : State} {k : Nat} {p : TilePost} (hp : s.tposts[k]? = some p)
    (hold : ∀ q ∈ s.tposts.take k, ¬ (q.src = p.src ∧ q.dst = p.dst)) :
    exec (.semPostTileLands k) s
      = .next ({ s with tposts := s.tposts.eraseIdx k }.landTilePost p.src none p.dst p.job p.sem p.inc) := by
  have hany : (s.tposts.take k).any (fun q => q.src == p.src && q.dst == p.dst) = false := by
    simpa [List.any_eq_false] using hold
  dsimp only [exec, execSemPostTileLands]
  simp only [hp, hany, Bool.false_eq_true, if_false]

theorem semPostTileLands_resident {s : State} {k : Nat} {p : TilePost} (hp : s.tposts[k]? = some p)
    (hold : ∀ q ∈ s.tposts.take k, ¬ (q.src = p.src ∧ q.dst = p.dst)) (hr : s.residentOf p.dst p.job = true) :
    completes (.semPostTileLands k) s (fun t => t.tposts = s.tposts.eraseIdx k
      ∧ (t.tile p.dst).m.sem p.sem = posted p.sem ((s.tile p.dst).m.sem p.sem) p.inc
      ∧ (t.tile p.dst).m.f = (s.tile p.dst).m.f ∧ sameMemory s t ∧ ∀ u, u ≠ p.dst → t.tile u = s.tile u) := by
  have hr' : { s with tposts := s.tposts.eraseIdx k }.residentOf p.dst p.job = true := hr
  refine ⟨_, exec_semPostTileLands hp hold, ?_⟩
  simp only [State.landTilePost, hr', if_true]
  obtain ⟨hm, hmem, htp, hne⟩ := State.post_changes { s with tposts := s.tposts.eraseIdx k } p.dst p.sem p.inc
    ⟨if (none : Option Nat).isSome then 8 else 5, BitVec.ofNat 7 p.src.val, 0⟩
  refine ⟨htp, ?_, ?_, sameMemory_of_mem_eq hmem, fun u hu => hne u hu.symm⟩
  · rw [hm]
    exact Member.sem_postOwn _ _ _ _
  · rw [hm]
    exact (Member.semsOnly_postOwn _ _ _ _).f_eq

theorem semPostTileLands_away {s : State} {k : Nat} {p : TilePost} (hp : s.tposts[k]? = some p)
    (hold : ∀ q ∈ s.tposts.take k, ¬ (q.src = p.src ∧ q.dst = p.dst)) (hr : s.residentOf p.dst p.job = false) :
    completes (.semPostTileLands k) s (fun t => t.tposts = s.tposts.eraseIdx k
      ∧ (∀ u, t.tile u = s.tile u) ∧ sameMemory s t
      ∧ (∀ i, s.savedFrom p.dst p.job = some i → t.eventSeq = s.eventSeq ∧ ∃ w : Poster, t.slots = s.slots.map (fun e =>
          if e.1 = i then (i, { e.2 with posts := e.2.posts ++ [(p.sem, p.inc, w)] }) else e))
      ∧ (s.savedFrom p.dst p.job = none →
        t.eventSeq = s.eventSeq + 1 ∧ (SMap.get ⟨0, 0, 0, 0, 0⟩ t.events (s.eventSeq.toNat % 4096)).code = 0x14)) := by
  have hr' : { s with tposts := s.tposts.eraseIdx k }.residentOf p.dst p.job = false := hr
  have hsf : { s with tposts := s.tposts.eraseIdx k }.savedFrom p.dst p.job = s.savedFrom p.dst p.job := rfl
  refine ⟨_, exec_semPostTileLands hp hold, ?_⟩
  simp only [State.landTilePost, hr', Bool.false_eq_true, if_false, hsf]
  cases hs : s.savedFrom p.dst p.job with
  | some i =>
    refine ⟨rfl, fun _ => rfl, sameMemory_of_mem_eq rfl, fun j hj => ?_, fun hn => nomatch hn⟩
    cases hj
    exact ⟨rfl, _, by simp only [State.modSlot, beq_iff_eq]; rfl⟩
  | none =>
    refine ⟨?_, fun u => ?_, sameMemory_of_mem_eq ?_, fun j hj => ?_, fun _ => ⟨rfl, ?_⟩⟩
    · rw [State.logEvent_tposts]
    · rw [State.tile_logEvent]
      rfl
    · rw [State.logEvent_mem]
    · cases hj
    · exact State.logEvent_code { s with tposts := s.tposts.eraseIdx k } _ _ (by decide)

/-- Settles O30: every instruction on the semaphores is one issue whose body changes semaphores alone, and a post between tiles
lands on the resident member, in the saved image, or in the event recorder. -/
theorem semaphores : Obligations.Semaphores := by
  refine ⟨fun s d a k v h => ⟨semPost_local h v, semPost_external h v, semPost_overflow h v, fun hc => ?_, semSet_overflow h v,
    semSet_uncovered h v, semRd_completes h d k, semPostTile_other h a k v, semPostTile_own h a v⟩, fun s k p hp hold =>
    ⟨semPostTileLands_resident hp hold, semPostTileLands_away hp hold⟩⟩
  by_cases hk : isLocal k = true
  · obtain hext | ⟨hp, hcov⟩ := hc
    · exact semSet_external h v hext
    · exact semSet_local h v hk hp hcov
  · exact semSet_external h v (Bool.eq_false_iff.2 hk)

end Sys2Proof.Machine
end

section
/-! PROOF. `qdrop` (R76, R320). -/

namespace Sys2Proof.Machine

/-! ### The commands that `qdrop` selects -/

theorem dropSel_iff (sv : W64) (c : Cmd) : dropSel sv c = true ↔ sv.toInt < (c.seq.toNat : Int) := by
  simp [dropSel]

/-- What one queue gives up. -/
theorem mem_selectedOf (b : Bool) (sv : W64) (l : List Cmd) (c : Cmd) :
    c ∈ (if b then l.filter (dropSel sv) else []) ↔ (b = true ∧ c ∈ l) ∧ sv.toInt < (c.seq.toNat : Int) := by
  cases b with
  | false => simp
  | true => simp [List.mem_filter, dropSel_iff]

/-- What one queue keeps. -/
theorem mem_keptOf (b : Bool) (sv : W64) (l : List Cmd) (c : Cmd) :
    c ∈ (if b then l.filter (fun c => !dropSel sv c) else l) ↔ c ∈ l ∧ ¬ (b = true ∧ sv.toInt < (c.seq.toNat : Int)) := by
  cases b with
  | false => simp
  | true => simp [List.mem_filter, dropSel]

theorem Queues.mem_selected (q : Queues) (mask : BitVec 4) (sv : W64) (c : Cmd) :
    c ∈ q.selected mask sv ↔ (mask.getLsbD 0 = true ∧ c ∈ q.mu ∨ mask.getLsbD 1 = true ∧ c ∈ q.cu
      ∨ mask.getLsbD 2 = true ∧ c ∈ q.vu ∨ mask.getLsbD 3 = true ∧ c ∈ q.ce) ∧ sv.toInt < (c.seq.toNat : Int) := by
  simp only [Queues.selected, List.mem_append, mem_selectedOf]
  tauto

/-! ### Promises taken back -/

/-- Only P and Q of the semaphores differ. -/
def Member.promisesOnly (m n : Member) : Prop := ∃ p q, n = { m with sems := { m.sems with p := p, q := q } }

theorem Member.promisesOnly.trans {m n o : Member} (h : m.promisesOnly n) (h' : n.promisesOnly o) : m.promisesOnly o := by
  obtain ⟨p, q, rfl⟩ := h
  obtain ⟨p', q', rfl⟩ := h'
  exact ⟨p', q', rfl⟩

theorem Member.promisesOnly_refl (m : Member) : m.promisesOnly m := ⟨m.sems.p, m.sems.q, rfl⟩
theorem Member.promisesOnly_setP (m : Member) (k : BitVec 8) (v : Nat) : m.promisesOnly (m.setP k v) := ⟨_, _, rfl⟩
theorem Member.promisesOnly_setQ (m : Member) (k : BitVec 8) (v : Nat) : m.promisesOnly (m.setQ k v) := ⟨_, _, rfl⟩

/-- The promise of a command's post taken back from P. -/
def Member.unpost (m : Member) (c : Cmd) : Member :=
  match c.post with
  | some p => if isLocal p.sem then m.setP p.sem (m.semP p.sem - p.inc.toNat) else m
  | none => m

/-- The promise of a command's consuming wait taken back from Q. -/
def Member.unwait (m : Member) (c : Cmd) : Member :=
  match c.wait with
  | some w => if isLocal w.sem ∧ w.consume = true then m.setQ w.sem (m.semQ w.sem - w.thr.toNat) else m
  | none => m

theorem Member.unpromise_eq (m : Member) (c : Cmd) : m.unpromise c = (m.unpost c).unwait c := rfl

theorem Member.promisesOnly_unpost (m : Member) (c : Cmd) : m.promisesOnly (m.unpost c) := by
  unfold Member.unpost
  split
  · split
    · exact m.promisesOnly_setP _ _
    · exact m.promisesOnly_refl
  · exact m.promisesOnly_refl

theorem Member.promisesOnly_unwait (m : Member) (c : Cmd) : m.promisesOnly (m.unwait c) := by
  unfold Member.unwait
  split
  · split
    · exact m.promisesOnly_setQ _ _
    · exact m.promisesOnly_refl
  · exact m.promisesOnly_refl

theorem Member.promisesOnly_unpromise (m : Member) (c : Cmd) : m.promisesOnly (m.unpromise c) := by
  rw [Member.unpromise_eq]
  exact (m.promisesOnly_unpost c).trans (Member.promisesOnly_unwait _ c)

theorem Member.promisesOnly_foldl (l : List Cmd) (m : Member) : m.promisesOnly (l.foldl (fun x c => x.unpromise c) m) := by
  induction l generalizing m with
  | nil => exact m.promisesOnly_refl
  | cons c l ih => exact (m.promisesOnly_unpromise c).trans (ih _)

/-! ### The instruction -/

/-- A scalar write and a retirement, on a member that differs in no register, not in its steering unit and not in its counters
(R162, R174, R179). -/
theorem wrote_of_writeS {s t : State} {x : Member} (d : SReg) (v : W64) (len wt : Nat) (hsu : x.su = (s.tile s.cur).m.su)
    (hctr : x.ctr = (s.tile s.cur).m.ctr) (hf : x.f = (s.tile s.cur).m.f) (hvf : x.vf = (s.tile s.cur).m.vf)
    (ht : (t.tile s.cur).m = ((x.writeS d v 0).retire len).addWeight wt) : wrote s t d v 0 len := by
  obtain ⟨-, hpc, hin, hc, -⟩ := x.writeS_rest d v 0
  have hsr : (s.tile s.cur).m.sref d = x.sref d := by simp [Member.sref, hsu]
  have hface : ∀ r, (s.tile s.cur).m.face r = x.face r := fun r => by
    cases r <;> simp [Member.face, hf, hvf]
  refine ⟨⟨?_, ?_, ?_, ?_, ?_⟩, ?_⟩
  · simp [ht, Member.retire, Member.retireTo, Member.addWeight, hpc, hsu]
  · simp [ht, Member.retire, Member.retireTo, Member.addWeight, hctr]
  · simp [ht, Member.retire, Member.retireTo, Member.addWeight]
  · simp [ht, Member.retire, Member.retireTo, Member.addWeight, hin, hsu]
  · simp only [ht, Member.retire, Member.retireTo, Member.addWeight, hin, hc, hsu, hctr]
    split <;> rfl
  · by_cases hd : d = 0
    · subst hd
      rw [if_pos rfl, ht]
      exact (x.writeS_zero_f v 0).trans hf
    · rw [if_neg hd, if_pos rfl, hiddenSet, ht, hsr, hface]
      simpa using Member.face_writeS_now x v hd

@[simp] theorem Member.semP_writeS (m : Member) (d : SReg) (v : W64) (lat : Nat) (k : BitVec 8) :
    (m.writeS d v lat).semP k = m.semP k := by
  simp [Member.semP]

@[simp] theorem Member.semQ_writeS (m : Member) (d : SReg) (v : W64) (lat : Nat) (k : BitVec 8) :
    (m.writeS d v lat).semQ k = m.semQ k := by
  simp [Member.semQ]

/-- The member of a `qdrop` before its number is written: the commands are out of their queues and their promises taken back. -/
def Member.dropped (m : Member) (mask : BitVec 4) (sv : W64) : Member :=
  (m.q.selected mask sv).foldl (fun x c => x.unpromise c) { m with q := m.q.without mask sv }

/-- The first remaining wait of a local semaphore that its promises no longer cover (R76). -/
def Member.bareWait (m : Member) : Option QWait :=
  m.waits.find? (fun w => isLocal w.sem && !waitCovered (m.semP w.sem) (m.semQ w.sem) w)

theorem qdrop_body (s : State) (d a : SReg) (mask : BitVec 4) : ∃ body, exec (.qdrop d a mask) s = .next (s.issue 1 body) ∧
    body s = (let m := (s.tile s.cur).m
      let m1 := m.dropped mask (m.sreg a)
      match m1.bareWait with
      | some w => (s, some (semReport 0x07 w.sem))
      | none => (s.modM s.cur
          (fun _ => (m1.writeS d (BitVec.ofNat 64 (m.q.selected mask (m.sreg a)).length) 0).retire 4), none)) := ⟨_, rfl, rfl⟩

theorem qdrop_bare {s : State} (h : s.issues 1 = true) (d a : SReg) (mask : BitVec 4) {w : QWait}
    (hb : ((s.tile s.cur).m.dropped mask ((s.tile s.cur).m.sreg a)).bareWait = some w) :
    exec (.qdrop d a mask) s = .next (s.raise (semReport 0x07 w.sem)) := by
  obtain ⟨body, hi, hbody⟩ := qdrop_body s d a mask
  simp only [hb] at hbody
  exact exec_raises h hi hbody

theorem qdrop_completes {s : State} (h : s.issues 1 = true) (d a : SReg) (mask : BitVec 4)
    (hb : ((s.tile s.cur).m.dropped mask ((s.tile s.cur).m.sreg a)).bareWait = none) :
    completes (.qdrop d a mask) s (fun t => t = s.modM s.cur (fun m => ((((m.dropped mask (m.sreg a)).writeS d
      (BitVec.ofNat 64 (m.q.selected mask (m.sreg a)).length) 0).retire 4).addWeight 1))) := by
  obtain ⟨body, hi, hbody⟩ := qdrop_body s d a mask
  simp only [hb] at hbody
  refine ⟨_, hi, ?_⟩
  rw [State.issue_next h hbody (by simp [Member.retire, Member.retireTo, SuWait.atIssue]), State.modM_modM]
  simp only [State.modM, State.modTile]

/-- Settles O31: the selected commands leave their queues and take their promises along, which changes P and Q alone; a remaining
wait without cover raises FORWARD_WAIT. -/
theorem qdropRemovesCommands : Obligations.QdropRemovesCommands := by
  intro s d a mask h
  refine ⟨Queues.mem_selected _ mask _, fun hb => ?_, fun w hw => qdrop_bare h d a mask hw⟩
  obtain ⟨t, ht, rfl⟩ := qdrop_completes h d a mask hb
  obtain ⟨p, q, hm1⟩ := Member.promisesOnly_foldl ((s.tile s.cur).m.q.selected mask ((s.tile s.cur).m.sreg a))
    { (s.tile s.cur).m with q := (s.tile s.cur).m.q.without mask ((s.tile s.cur).m.sreg a) }
  have hm : (s.tile s.cur).m.dropped mask ((s.tile s.cur).m.sreg a) = _ := hm1
  refine ⟨_, ht, ⟨_, rfl⟩, ?_, ?_, fun k => ⟨?_, ?_⟩, ?_, ?_, ?_, ?_, ?_, ?_⟩
  · refine wrote_of_writeS d _ 4 1 ?_ ?_ ?_ ?_ (congrArg Tile.m (State.tile_modM s s.cur _))
    all_goals rw [hm]
  · simp [hm]
  · simp only [State.tile_modM, Member.semP_addWeight, Member.semP_retire, Member.semP_writeS]
    rfl
  · simp only [State.tile_modM, Member.semQ_addWeight, Member.semQ_retire, Member.semQ_writeS]
    rfl
  · simp [hm]
  · simp [hm]
  all_goals
    simp only [State.tile_modM, Member.addWeight_q, Member.retire_q, Member.writeS_q, hm]
    exact mem_keptOf _ _ _

end Sys2Proof.Machine
end

section
/-! PROOF. Pushes (R68, R70 to R73, R126, R137, R363). -/

namespace Sys2Proof.Machine

/-! ### What a push is -/

/-- An instruction that enters a queue is its push. -/
theorem exec_push {i : Instr} {h : Head} {q : QId} (hi : cmdHead i = some (h, q)) (s : State) :
    exec i s = .next (s.pushS i h q) := by
  unfold cmdHead at hi
  split at hi <;> cases hi <;> rfl

theorem waitsAtIssue_of_cmdHead {i : Instr} {h : Head} {q : QId} (hi : cmdHead i = some (h, q)) : Instr.waitsAtIssue i = true := by
  simp [Instr.waitsAtIssue, hi]

/-- The member of a push: its promises made, its command in the queue, its sequence number taken (R70). -/
def Member.pushed (m : Member) (h : Head) (q : QId) (c : Cmd) : Member :=
  let m1 := m.promise h.wait h.post
  { m1 with q := m1.q.enqueue q c, ctr := { m1.ctr with pseq := m1.ctr.pseq + 1 } }

/-- A push by its outcomes: the report of a check, the wait for space, FORWARD_WAIT, SEM_OVERFLOW, or the command queued. -/
def State.pushBody (i : Instr) (h : Head) (q : QId) (st : State) : State × Option Report :=
  let m := (st.tile st.cur).m
  let c := m.capture i h
  match (if m.su.wait.waiting then none else st.pushChecks st.cur c) with
  | some r => (st, some r)
  | none =>
    if qCap q ≤ st.qUsed st.cur q then (st.hold i, none)
    else
      match m.forwardWait h.wait, m.overflows h.post with
      | some n, _ => (st, some (semReport 0x07 n))
      | none, some n => (st, some (semReport 0x08 n))
      | none, none => (st.modM st.cur (fun m => (m.pushed h q c).retire 16), none)

theorem State.pushS_eq (s : State) (i : Instr) (h : Head) (q : QId) : s.pushS i h q = s.issue 2 (State.pushBody i h q) := rfl

section
variable {s : State} {i : Instr} {h : Head} {q : QId}

/-- The checks of a push pass: it waits already for space, or no check has a report. -/
def State.pushPasses (s : State) (i : Instr) (h : Head) : Prop :=
  (s.tile s.cur).m.su.wait.waiting = true ∨ s.pushChecks s.cur ((s.tile s.cur).m.capture i h) = none

theorem State.pushBody_report {r : Report} (hw : (s.tile s.cur).m.su.wait.waiting = false)
    (hr : s.pushChecks s.cur ((s.tile s.cur).m.capture i h) = some r) : State.pushBody i h q s = (s, some r) := by
  simp [State.pushBody, hw, hr]

theorem State.pushBody_full (hp : s.pushPasses i h) (hf : qCap q ≤ s.qUsed s.cur q) :
    State.pushBody i h q s = (s.hold i, none) := by
  cases hp with
  | inl hw => simp [State.pushBody, hw, hf]
  | inr hc => simp [State.pushBody, hc, hf]

theorem State.pushBody_room (hp : s.pushPasses i h) (hf : s.qUsed s.cur q < qCap q) :
    State.pushBody i h q s = (match (s.tile s.cur).m.forwardWait h.wait, (s.tile s.cur).m.overflows h.post with
      | some n, _ => (s, some (semReport 0x07 n))
      | none, some n => (s, some (semReport 0x08 n))
      | none, none => (s.modM s.cur (fun m => (m.pushed h q ((s.tile s.cur).m.capture i h)).retire 16), none)) := by
  cases hp with
  | inl hw => simp only [State.pushBody, hw, if_true, if_neg (Nat.not_le.2 hf)]
  | inr hc => simp only [State.pushBody, hc, ite_self, if_neg (Nat.not_le.2 hf)]

/-- A push whose window takes it, whose checks pass, and that finds room and cover: its command is queued. -/
theorem State.pushS_queues (hc : (s.tile s.cur).m.su.wait.counted = false) (ho : s.suOver s.cur 2 = false)
    (hp : s.pushPasses i h) (hf : s.qUsed s.cur q < qCap q) (hfw : (s.tile s.cur).m.forwardWait h.wait = none)
    (hov : (s.tile s.cur).m.overflows h.post = none) :
    s.pushS i h q = s.modM s.cur (fun m => ((m.pushed h q ((s.tile s.cur).m.capture i h)).retire 16).addWeight 2) := by
  have hb : State.pushBody i h q s
      = (s.modM s.cur (fun m => (m.pushed h q ((s.tile s.cur).m.capture i h)).retire 16), none) := by
    rw [State.pushBody_room hp hf, hfw, hov]
  rw [State.pushS_eq, State.issue]
  simp [ho, hb, hc, State.waitsNow, Member.retire, Member.retireTo, SuWait.atIssue, State.modM_modM]

end

/-! ### The promises of a push -/

/-- Q of the semaphore of a consuming wait takes its threshold (R70). -/
def Member.promiseQ (m : Member) (w : Option QWait) : Member :=
  match w with
  | some w => if isLocal w.sem && w.consume then m.setQ w.sem (m.semQ w.sem + w.thr.toNat) else m
  | none => m

/-- P of the semaphore of a post takes its increment (R70). -/
def Member.promiseP (m : Member) (p : Option QPost) : Member :=
  match p with
  | some p => if isLocal p.sem then m.setP p.sem (m.semP p.sem + p.inc.toNat) else m
  | none => m

theorem Member.promisesOnly_promiseQ (m : Member) (w : Option QWait) : m.promisesOnly (m.promiseQ w) := by
  unfold Member.promiseQ
  split
  · split
    · exact m.promisesOnly_setQ _ _
    · exact m.promisesOnly_refl
  · exact m.promisesOnly_refl

theorem Member.promisesOnly_promiseP (m : Member) (p : Option QPost) : m.promisesOnly (m.promiseP p) := by
  unfold Member.promiseP
  split
  · split
    · exact m.promisesOnly_setP _ _
    · exact m.promisesOnly_refl
  · exact m.promisesOnly_refl

theorem Member.promisesOnly_promise (m : Member) (w : Option QWait) (p : Option QPost) : m.promisesOnly (m.promise w p) :=
  (m.promisesOnly_promiseQ w).trans (Member.promisesOnly_promiseP _ p)

theorem Member.semP_lt (m : Member) (k : BitVec 8) : m.semP k < 2 ^ 24 := (m.sems.p[(r8 k).val]).isLt

/-- A wait that P covers is no FORWARD_WAIT. -/
theorem Member.forwardWait_covered {m : Member} {w : Option QWait}
    (h : ∀ x, w = some x → isLocal x.sem = true → m.semQ x.sem + x.thr.toNat ≤ m.semP x.sem) : m.forwardWait w = none := by
  cases w with
  | none => rfl
  | some x =>
    refine if_neg (fun hb => ?_)
    obtain ⟨hl, hlt⟩ := Bool.and_eq_true_iff.1 hb
    exact Nat.not_lt.2 (h x rfl hl) (of_decide_eq_true hlt)

/-- A post that P has room for is no SEM_OVERFLOW. -/
theorem Member.overflows_fits {m : Member} {p : Option QPost}
    (h : ∀ x, p = some x → isLocal x.sem = true → m.semP x.sem + x.inc.toNat < 2 ^ 24) : m.overflows p = none := by
  cases p with
  | none => rfl
  | some x =>
    refine if_neg (fun hb => ?_)
    obtain ⟨hl, hlt⟩ := Bool.and_eq_true_iff.1 hb
    exact Nat.not_le.2 (h x rfl hl) (semMax_lt.1 (of_decide_eq_true hlt))

theorem Member.forwardWait_bare {m : Member} {w : QWait} (hl : isLocal w.sem = true)
    (h : m.semP w.sem < m.semQ w.sem + w.thr.toNat) : m.forwardWait (some w) = some w.sem := by
  simp [Member.forwardWait, hl, h]

theorem Member.overflows_past {m : Member} {p : QPost} (hl : isLocal p.sem = true)
    (h : 2 ^ 24 ≤ m.semP p.sem + p.inc.toNat) : m.overflows (some p) = some p.sem := by
  simp only [Member.overflows, hl, Bool.true_and, decide_eq_true (semMax_lt.2 h), if_true]

@[simp] theorem Member.semP_promiseQ (m : Member) (w : Option QWait) (k : BitVec 8) : (m.promiseQ w).semP k = m.semP k := by
  unfold Member.promiseQ
  split
  · split <;> rfl
  · rfl

@[simp] theorem Member.semQ_promiseP (m : Member) (p : Option QPost) (k : BitVec 8) : (m.promiseP p).semQ k = m.semQ k := by
  unfold Member.promiseP
  split
  · split <;> rfl
  · rfl

/-- What a post of this command adds to P of a semaphore. -/
def postShare (p : Option QPost) (k : BitVec 8) : Nat :=
  match p with
  | some x => if x.sem = k ∧ isLocal k = true then x.inc.toNat else 0
  | none => 0

/-- What a wait of this command adds to Q of a semaphore. -/
def waitShare (w : Option QWait) (k : BitVec 8) : Nat :=
  match w with
  | some x => if x.sem = k ∧ isLocal k = true ∧ x.consume = true then x.thr.toNat else 0
  | none => 0

theorem Member.semP_promiseP {m : Member} {p : Option QPost}
    (h : ∀ x, p = some x → isLocal x.sem = true → m.semP x.sem + x.inc.toNat < 2 ^ 24) (k : BitVec 8) :
    (m.promiseP p).semP k = m.semP k + postShare p k := by
  cases p with
  | none => rfl
  | some x =>
    by_cases hl : isLocal x.sem = true
    · by_cases hk : x.sem = k
      · subst hk
        simpa [Member.promiseP, postShare, hl] using h x rfl hl
      · simp [Member.promiseP, postShare, hl, hk, Ne.symm hk]
    · have hno : ¬ (x.sem = k ∧ isLocal k = true) := fun ⟨he, hk⟩ => hl (he ▸ hk)
      simp [Member.promiseP, postShare, hl, hno]

theorem Member.semQ_promiseQ {m : Member} {w : Option QWait}
    (h : ∀ x, w = some x → isLocal x.sem = true → m.semQ x.sem + x.thr.toNat ≤ m.semP x.sem) (k : BitVec 8) :
    (m.promiseQ w).semQ k = m.semQ k + waitShare w k := by
  cases w with
  | none => rfl
  | some x =>
    by_cases hl : isLocal x.sem = true ∧ x.consume = true
    · obtain ⟨hloc, hcon⟩ := hl
      by_cases hk : x.sem = k
      · subst hk
        simpa [Member.promiseQ, waitShare, hloc, hcon] using Nat.lt_of_le_of_lt (h x rfl hloc) (m.semP_lt x.sem)
      · simp [Member.promiseQ, waitShare, hloc, hcon, hk, Ne.symm hk]
    · have hno : ¬ (x.sem = k ∧ isLocal k = true ∧ x.consume = true) := fun ⟨he, hk, hcon⟩ => hl ⟨he ▸ hk, hcon⟩
      have hif : (isLocal x.sem && x.consume) = false := by simpa using hl
      simp [Member.promiseQ, waitShare, hif, hno]

/-! ### What a push leaves -/

theorem Member.pseq_retire (m : Member) (len : Nat) : (m.retire len).ctr.pseq = m.ctr.pseq := by
  simp only [Member.retire, Member.retireTo]
  split <;> rfl

theorem Member.pushed_eq (m : Member) (h : Head) (q : QId) (c : Cmd) :
    ∃ x, m.pushed h q c = { m with sems := x, q := m.q.enqueue q c, ctr := { m.ctr with pseq := m.ctr.pseq + 1 } }
      ∧ x.val = m.sems.val := by
  obtain ⟨p, r, hx⟩ := m.promisesOnly_promise h.wait h.post
  exact ⟨{ m.sems with p := p, q := r }, by simp only [Member.pushed, hx], rfl⟩

theorem Member.semP_pushed (m : Member) (h : Head) (q : QId) (c : Cmd)
    (hov : ∀ x, h.post = some x → isLocal x.sem = true → m.semP x.sem + x.inc.toNat < 2 ^ 24) (k : BitVec 8) :
    (m.pushed h q c).semP k = m.semP k + postShare h.post k := by
  have hk : (m.pushed h q c).semP k = ((m.promiseQ h.wait).promiseP h.post).semP k := rfl
  rw [hk, Member.semP_promiseP (by simpa using hov), Member.semP_promiseQ]

theorem Member.semQ_pushed (m : Member) (h : Head) (q : QId) (c : Cmd)
    (hfw : ∀ x, h.wait = some x → isLocal x.sem = true → m.semQ x.sem + x.thr.toNat ≤ m.semP x.sem) (k : BitVec 8) :
    (m.pushed h q c).semQ k = m.semQ k + waitShare h.wait k := by
  have hk : (m.pushed h q c).semQ k = ((m.promiseQ h.wait).promiseP h.post).semQ k := rfl
  rw [hk, Member.semQ_promiseP, Member.semQ_promiseQ hfw]

theorem wentOn_pushed (m : Member) (h : Head) (q : QId) (c : Cmd) :
    wentOn m (((m.pushed h q c).retire 16).addWeight 2) 16 := by
  obtain ⟨x, hx, -⟩ := m.pushed_eq h q c
  unfold wentOn
  simp only [hx, Member.retire, Member.retireTo, Member.addWeight, true_and]
  split <;> rfl

/-- The descriptors that a push captures are those that its command names, as they are visible (R70, R71). -/
theorem Member.capture_tds (m : Member) (i : Instr) (h : Head) (k : Nat) (ix : TdIx) (hk : (cmdTds i)[k]? = some ix) :
    [(m.capture i h).d0, (m.capture i h).d1, (m.capture i h).d2][k]? = some (m.tdesc ix) := by
  have hlen : (cmdTds i).length ≤ 3 := by
    unfold cmdTds
    split <;> simp
  have hlt : k < 3 := Nat.lt_of_lt_of_le (List.getElem?_eq_some_iff.1 hk).1 hlen
  match k, hlt with
  | 0, _ => simp [Member.capture, hk]
  | 1, _ => simp [Member.capture, hk]
  | 2, _ => simp [Member.capture, hk]

section
variable {s : State} {i : Instr} {h : Head} {q : QId} (hi : cmdHead i = some (h, q)) (hs : s.issues 2 = true)
include hi hs

theorem exec_push_report {r : Report} (hb : State.pushBody i h q s = (s, some r)) : exec i s = .next (s.raise r) := by
  rw [exec_push hi, State.pushS_eq, State.issue_raise hs hb]

theorem exec_push_full (hp : s.pushPasses i h) (hf : qCap q ≤ s.qUsed s.cur q) : exec i s = .next (s.hold i) := by
  have hat : (SuWait.again i).atIssue = true := waitsAtIssue_of_cmdHead hi
  rw [exec_push hi, State.pushS_eq, State.issue_eq hs, State.pushBody_full hp hf]
  simp [State.waitsNow, State.hold, hat]

theorem exec_push_queues (hp : s.pushPasses i h) (hf : s.qUsed s.cur q < qCap q)
    (hfw : (s.tile s.cur).m.forwardWait h.wait = none) (hov : (s.tile s.cur).m.overflows h.post = none) :
    exec i s = .next (s.modM s.cur (fun m => ((m.pushed h q ((s.tile s.cur).m.capture i h)).retire 16).addWeight 2)) := by
  obtain ⟨hw, ho⟩ := (s.issues_iff 2).1 hs
  rw [exec_push hi, State.pushS_queues (by rw [hw]; rfl) ho hp hf hfw hov]

end

theorem State.pushChecks_limits {s : State} {c : Cmd} {r : BitVec 8} (t : TileId)
    (h : pushLimits ((s.tile t).m.code.vend - (s.tile t).m.code.vcb.toNat) c = some r) :
    s.pushChecks t c = some (cmdError c.op r) := by
  simp only [State.pushChecks, h]

theorem State.pushChecks_rate {s : State} {c : Cmd} {r : Nat} (t : TileId)
    (h : pushLimits ((s.tile t).m.code.vend - (s.tile t).m.code.vcb.toNat) c = none)
    (hcf : cmdConflict (s.tile t).m.pushView c = none) (hr : cmdRate c = some r)
    (hno : rateOk (classOf (s.tile t).grant) r = false) :
    s.pushChecks t c = some (powerOver 5 ((s.tile t).m.su.winWith (s.tile t).m.ctr.cycle 2)) := by
  simp only [State.pushChecks, h, hcf, hr, hno, Bool.false_eq_true, if_false]

/-- Settles O45: a push is one issue whose body checks, waits for space, and makes its promises as it queues its command. -/
theorem pushesQueue : Obligations.PushesQueue := by
  refine ⟨fun s i h q hi hs hchk hf hfw hov => ?_, fun s i h q hi hs => ?_⟩
  · refine ⟨_, exec_push_queues hi hs (.inr hchk) hf (Member.forwardWait_covered hfw) (Member.overflows_fits hov), ?_⟩
    have hP := Member.semP_pushed (s.tile s.cur).m h q ((s.tile s.cur).m.capture i h) hov
    have hQ := Member.semQ_pushed (s.tile s.cur).m h q ((s.tile s.cur).m.capture i h) hfw
    have hgo := wentOn_pushed (s.tile s.cur).m h q ((s.tile s.cur).m.capture i h)
    obtain ⟨x, hx, hval⟩ := (s.tile s.cur).m.pushed_eq h q ((s.tile s.cur).m.capture i h)
    simp only [State.tile_modM]
    rw [hx] at hP hQ hgo ⊢
    exact ⟨⟨_, rfl⟩, hgo, rfl, rfl, Member.pseq_retire _ 16, hval, rfl, rfl, rfl, rfl, rfl, rfl, hP, hQ, _, rfl, rfl, rfl, rfl,
      rfl, rfl, rfl, rfl, rfl, rfl, rfl, Member.capture_tds _ i h⟩
  · have hw : (s.tile s.cur).m.su.wait.waiting = false := by rw [((s.issues_iff 2).1 hs).1]; rfl
    refine ⟨fun r hr => exec_push_report hi hs (State.pushBody_report hw hr), fun hc hf => exec_push_full hi hs (.inr hc) hf,
      fun hc hf w hwt hl hlt => exec_push_report hi hs ?_, fun hc hf hwt p hpt hl hov => exec_push_report hi hs ?_,
      fun r hr => State.pushChecks_limits _ hr, fun r hl hcf hr hrate => State.pushChecks_rate _ hl hcf hr hrate⟩
    · rw [State.pushBody_room (.inr hc) hf, hwt, Member.forwardWait_bare hl hlt]
      rfl
    · rw [State.pushBody_room (.inr hc) hf, hwt, hpt, Member.overflows_past hl hov]
      rfl

end Sys2Proof.Machine
end

section
/-! PROOF. Waiting pushes, starts and completions of queued commands (R70, R73, R74, R132, R211, R213, R273, R426). -/

namespace Sys2Proof.Machine

/-! ### Pushes that waited for room -/

/-- A push that waited and finds room is the push on the state with its tile current (R70). -/
theorem exec_queuedPush {s : State} {t : TileId} {i : Instr} {h : Head} {q : QId} (hw : (s.tile t).m.su.wait = .again i)
    (hi : cmdHead i = some (h, q)) (hgo : (s.tile t).mayGo = true) (hf : s.qUsed t q < qCap q) :
    exec (.queuedPush t) s = .next ({ s with cur := t }.pushS i h q) := by
  dsimp only [exec, execQueuedPush]
  simp only [hw, hi, hgo, decide_eq_true hf, Bool.and_self, if_true]

theorem queuedPush_completes {s : State} {t : TileId} {i : Instr} {h : Head} {q : QId}
    (hw : (s.tile t).m.su.wait = .again i) (hi : cmdHead i = some (h, q)) (hgo : (s.tile t).mayGo = true)
    (ho : s.suOver t 2 = false) (hf : s.qUsed t q < qCap q) (hfw : (s.tile t).m.forwardWait h.wait = none)
    (hov : (s.tile t).m.overflows h.post = none) :
    completes (.queuedPush t) s (fun u => (u.tile t).m
      = (((s.tile t).m.pushed h q ((s.tile t).m.capture i h)).retire 16).addWeight 2 ∧ u.mem = s.mem) := by
  have hc : (s.tile t).m.su.wait.counted = false := by
    rw [hw]
    simp [SuWait.counted, waitsAtIssue_of_cmdHead hi]
  have hp : { s with cur := t }.pushPasses i h := .inl (congrArg SuWait.waiting hw)
  refine ⟨_, (exec_queuedPush hw hi hgo hf).trans
    (congrArg Host.Outcome.next (State.pushS_queues (s := { s with cur := t }) hc ho hp hf hfw hov)), ?_, rfl⟩
  rw [State.tile_modM]
  rfl

/-! ### A head that waits -/

/-- A queue with the start of its head's wait noted, where none is (R401). -/
def markFirst (cycle : Nat) : List Cmd → List Cmd
  | [] => []
  | c :: cs => (if c.since.isNone then { c with since := some cycle } else c) :: cs

theorem length_markFirst (cycle : Nat) (l : List Cmd) : (markFirst cycle l).length = l.length := by
  cases l <;> rfl

/-- The test of a head's wait changes the start of its wait alone (R401). -/
theorem Member.markSince_keeps (m : Member) (u : Site) :
    (m.markSince u).f = m.f ∧ (m.markSince u).sems = m.sems ∧ (m.markSince u).mu = m.mu ∧ (m.markSince u).vu = m.vu
      ∧ (m.markSince u).q.mu.length = m.q.mu.length ∧ (m.markSince u).q.cu.length = m.q.cu.length
      ∧ (m.markSince u).q.vu.length = m.q.vu.length ∧ (m.markSince u).q.ce.length = m.q.ce.length := by
  have hlen := length_markFirst m.ctr.cycle
  cases u with
  | mu => exact ⟨rfl, rfl, rfl, rfl, hlen m.q.mu, rfl, rfl, rfl⟩
  | vu => exact ⟨rfl, rfl, rfl, rfl, rfl, rfl, hlen m.q.vu, rfl⟩
  | ce => exact ⟨rfl, rfl, rfl, rfl, rfl, rfl, rfl, hlen m.q.ce⟩
  | ch c =>
    unfold Member.markSince
    dsimp only
    split
    · exact ⟨rfl, rfl, rfl, rfl, rfl, hlen m.q.cu, rfl, rfl⟩
    · exact ⟨rfl, rfl, rfl, rfl, rfl, rfl, rfl, rfl⟩

section
variable {s : State} {t : TileId} {u : Site} {c : Cmd} (he : (s.tile t).engLive = true) (ha : s.atStarts t = true)
  (hh : (s.tile t).m.headOf u = some c)
include he ha hh

theorem exec_commandStart_waits (hp : (s.tile t).m.waitPasses c = false) :
    exec (.commandStart t u) s = .next (s.modM t (fun m => m.markSince u)) := by
  dsimp only [exec, execCommandStart]
  simp [he, ha, hh, hp]

theorem exec_commandStart_starts (hp : (s.tile t).m.waitPasses c = true) :
    exec (.commandStart t u) s = .next { s.startHead t u c with closing := some t } := by
  dsimp only [exec, execCommandStart]
  simp [he, ha, hh, hp]

end

/-! ### What the pass of a wait consumes -/

/-- A consuming wait takes its threshold from the value and from P and Q (R73). -/
def Member.consumed (m : Member) (w : Option QWait) : Member :=
  match w with
  | none => m
  | some w =>
    if w.consume then
      let m1 := m.setSem w.sem (m.sem w.sem - w.thr.toNat)
      if isLocal w.sem then (m1.setP w.sem (m.semP w.sem - w.thr.toNat)).setQ w.sem (m.semQ w.sem - w.thr.toNat) else m1
    else m

theorem Member.semsOnly_consumed (m : Member) (w : Option QWait) : m.semsOnly (m.consumed w) := by
  unfold Member.consumed
  split
  · exact m.semsOnly_refl
  · split
    · dsimp only
      split
      · exact ⟨_, rfl⟩
      · exact m.semsOnly_setSem _ _
    · exact m.semsOnly_refl

theorem Member.sem_lt (m : Member) (k : BitVec 8) : m.sem k < 2 ^ 24 := (m.sems.val[(r8 k).val]).isLt
theorem Member.semQ_lt (m : Member) (k : BitVec 8) : m.semQ k < 2 ^ 24 := (m.sems.q[(r8 k).val]).isLt

theorem Member.consumed_consuming (m : Member) {w : QWait} (hc : w.consume = true) :
    (m.consumed (some w)).sem w.sem = m.sem w.sem - w.thr.toNat
      ∧ (isLocal w.sem = true → (m.consumed (some w)).semP w.sem = m.semP w.sem - w.thr.toNat
        ∧ (m.consumed (some w)).semQ w.sem = m.semQ w.sem - w.thr.toNat) := by
  have hs := m.sem_lt w.sem
  have hp := m.semP_lt w.sem
  have hq := m.semQ_lt w.sem
  by_cases hl : isLocal w.sem = true
  · refine ⟨?_, fun _ => ⟨?_, ?_⟩⟩
    · simp only [Member.consumed, hc, hl, if_true, Member.sem_setQ, Member.sem_setP, Member.sem_setSem]
      omega
    · simp only [Member.consumed, hc, hl, if_true, Member.semP_setQ, Member.semP_setP]
      omega
    · simp only [Member.consumed, hc, hl, if_true, Member.semQ_setQ]
      omega
  · refine ⟨?_, fun h => absurd h hl⟩
    simp only [Member.consumed, hc, hl, if_true, Bool.false_eq_true, if_false, Member.sem_setSem]
    omega

theorem Member.consumed_plain (m : Member) {w : QWait} (hc : w.consume = false) : (m.consumed (some w)).sems = m.sems := by
  simp [Member.consumed, hc]

/-- A wait record changes no member (R401). -/
theorem State.waitRecord_keeps (s : State) (t : TileId) (n : BitVec 8) (thr : Nat) (since : Option Nat) (seq : W64) :
    ((s.waitRecord t n thr since seq).tile t).m = (s.tile t).m ∧ (s.waitRecord t n thr since seq).mem = s.mem := by
  unfold State.waitRecord
  dsimp only
  split
  · exact ⟨by rw [State.tile_modTile], rfl⟩
  · exact ⟨by rw [State.tile_modTile]; rfl, rfl⟩

theorem State.passWait_member (s : State) (t : TileId) (c : Cmd) :
    ((s.passWait t c).tile t).m = (s.tile t).m.consumed c.wait ∧ (s.passWait t c).mem = s.mem := by
  unfold State.passWait
  cases c.wait with
  | none => exact ⟨rfl, rfl⟩
  | some w =>
    obtain ⟨hm, hmem⟩ := s.waitRecord_keeps t w.sem w.thr.toNat c.since c.seq
    cases hc : w.consume with
    | true =>
      refine ⟨?_, by simpa [hc] using hmem⟩
      simp only [hc, if_true, State.tile_modM, hm, Member.consumed]
    | false => simpa [hc, Member.consumed] using And.intro hm hmem

/-! ### The start of a block -/

/-- The member after the head of the vector queue has started (R73, R211). -/
theorem State.startHead_vu (s : State) (t : TileId) (c : Cmd) :
    ((s.startHead t .vu c).tile t).m = (((s.tile t).m.consumed c.wait).popHead .vu).vuStart c
      ∧ (s.startHead t .vu c).mem = s.mem := by
  obtain ⟨hm, hmem⟩ := s.passWait_member t c
  exact ⟨by simp only [State.startHead, State.tile_modM, hm], hmem⟩

/-- What the start of a block leaves and makes (R51, R73, R211). -/
theorem blockStart (s : State) (t : TileId) {c : Cmd} {h : Head} {imm : W32} (hop : c.op = .vrun h imm) :
    let m := (s.tile t).m
    let v : State := { s.startHead t .vu c with closing := some t }
    let n := (v.tile t).m
    n.vu.cmd = some c ∧ n.vu.vpc = m.code.vcb + BitVec.ofNat 64 (8 * imm.toNat) ∧ n.vu.ready = m.ctr.cycle + 1
      ∧ n.vu.loops = [] ∧ n.q.vu = m.q.vu.tail ∧ n.f = m.f ∧ n.vf = m.vf ∧ sameMemory s v ∧ v.closing = some t
      ∧ (∀ w, c.wait = some w → w.consume = true → n.sem w.sem = m.sem w.sem - w.thr.toNat
        ∧ (isLocal w.sem = true → n.semP w.sem = m.semP w.sem - w.thr.toNat ∧ n.semQ w.sem = m.semQ w.sem - w.thr.toNat))
      ∧ (∀ w, c.wait = some w → w.consume = false → n.sems = m.sems) := by
  intro m v n
  obtain ⟨hm, hmem⟩ := s.startHead_vu t c
  have hn : n = ((m.consumed c.wait).popHead .vu).vuStart c := hm
  have hsems : n.sems = (m.consumed c.wait).sems := by rw [hn]; rfl
  have hread : ∀ k, n.sem k = (m.consumed c.wait).sem k ∧ n.semP k = (m.consumed c.wait).semP k
      ∧ n.semQ k = (m.consumed c.wait).semQ k := fun k => by
    simp only [Member.sem, Member.semP, Member.semQ, hsems, and_self]
  have hkept : ∃ x, n = (({ m with sems := x } : Member).popHead .vu).vuStart c := by
    obtain ⟨x, hx⟩ := m.semsOnly_consumed c.wait
    exact ⟨x, by rw [hn, hx]⟩
  obtain ⟨x, hx⟩ := hkept
  refine ⟨by rw [hx]; rfl, ?_, by rw [hx]; rfl, by rw [hx]; rfl, by rw [hx]; rfl, by rw [hx]; rfl, by rw [hx]; rfl,
    sameMemory_of_mem_eq hmem, rfl, fun w hw hc => ?_, fun w hw hc => ?_⟩
  · rw [hx]
    simp only [Member.vuStart, hop]
    rfl
  · obtain ⟨hs, hp, hq⟩ := hread w.sem
    rw [hs, hp, hq, hw]
    exact m.consumed_consuming hc
  · rw [hsems, hw]
    exact m.consumed_plain hc

/-! ### Posts of completed commands -/

/-- What the completion of a command does to the semaphores: nothing without a post; the post, once the stores that it covers have
landed; until then the post waits (R73, R273). -/
def Member.completionPost (m n : Member) (ok : Bool) (c : Cmd) (pcl : BitVec 4) : Prop :=
  (c.post = none → n.sems = m.sems)
    ∧ (∀ p, c.post = some p → ok = true → n.sem p.sem = posted p.sem (m.sem p.sem) p.inc.toNat)
    ∧ (c.post ≠ none → ok = false → n.sems = m.sems ∧ n.rel = m.rel ++ [(c, pcl)])

/-- Only the semaphores and the posts that wait for stores differ. -/
def Member.postOnly (m n : Member) : Prop := ∃ x r, n = { m with sems := x, rel := r }

theorem State.scopeOf_congr {s u : State} (h : u.ms = s.ms) (t : TileId) (x : Target) : u.scopeOf t x = s.scopeOf t x := by
  simp only [State.scopeOf, State.ownerOf, h]

theorem State.releaseOk_congr {s u : State} {t : TileId} (hms : u.ms = s.ms)
    (hst : (u.tile t).m.su.stores = (s.tile t).m.su.stores) (marks : Nat) (sc : Scope) :
    u.releaseOk t marks sc = s.releaseOk t marks sc := by
  simp only [State.releaseOk, hst, State.scopeOf_congr hms]

theorem State.postDone_posts (s : State) (t : TileId) (c : Cmd) (pcl : BitVec 4) :
    (s.tile t).m.completionPost ((s.postDone t c pcl).tile t).m (s.releaseOk t c.marks c.scope) c pcl
      ∧ (s.tile t).m.postOnly ((s.postDone t c pcl).tile t).m ∧ (s.postDone t c pcl).mem = s.mem := by
  have hok : (s.logReplay t (.completion c.seq)).releaseOk t c.marks c.scope = s.releaseOk t c.marks c.scope :=
    State.releaseOk_congr (s := s) (u := s.logReplay t (.completion c.seq)) rfl
      (congrArg (fun m => m.su.stores) (s.m_logReplay t (.completion c.seq))) _ _
  unfold State.postDone
  simp only [hok]
  cases hp : c.post with
  | none =>
    simp only [Option.isSome_none, Bool.false_and, Bool.false_eq_true, if_false, State.postNow, hp, State.m_logReplay]
    exact ⟨⟨fun _ => rfl, fun p hp' => by simp [hp] at hp', fun hne => absurd hp hne⟩, ⟨_, _, rfl⟩, rfl⟩
  | some p =>
    cases hr : s.releaseOk t c.marks c.scope with
    | true =>
      simp only [Bool.not_true, Bool.and_false, Bool.false_eq_true, if_false, State.postNow, hp, State.m_postOwn,
        State.m_logReplay, State.postOwn_mem]
      obtain ⟨x, hx⟩ := Member.semsOnly_postOwn (s.tile t).m p.sem p.inc.toNat ⟨pcl, BitVec.ofNat 7 t.val, c.seq.setWidth 32⟩
      refine ⟨⟨fun hn => by simp [hp] at hn, fun p' hp' _ => ?_, fun _ hf => by simp at hf⟩, ⟨_, _, hx⟩, rfl⟩
      obtain rfl : p = p' := Option.some.inj (hp.symm.trans hp')
      exact Member.sem_postOwn _ _ _ _
    | false =>
      simp only [Option.isSome_some, Bool.not_false, Bool.and_true, if_true, State.tile_modM, State.m_logReplay]
      exact ⟨⟨fun hn => by simp [hp] at hn, fun _ _ hf => by simp at hf, fun _ _ => ⟨rfl, rfl⟩⟩, ⟨_, _, rfl⟩, rfl⟩

/-! ### Completions -/

/-- A completion: the unit's own change, which leaves the semaphores, the waiting posts and the stores, then the post. -/
theorem postDone_after {s s1 : State} {t : TileId} (c : Cmd) (pcl : BitVec 4) (hms : s1.ms = s.ms) (hmem : s1.mem = s.mem)
    (hse : (s1.tile t).m.sems = (s.tile t).m.sems) (hrel : (s1.tile t).m.rel = (s.tile t).m.rel)
    (hst : (s1.tile t).m.su.stores = (s.tile t).m.su.stores) :
    (s.tile t).m.completionPost ((s1.postDone t c pcl).tile t).m (s.releaseOk t c.marks c.scope) c pcl
      ∧ (s1.tile t).m.postOnly ((s1.postDone t c pcl).tile t).m ∧ sameMemory s (s1.postDone t c pcl) := by
  obtain ⟨hpost, honly, hm⟩ := s1.postDone_posts t c pcl
  refine ⟨?_, honly, sameMemory_of_mem_eq (hm.trans hmem)⟩
  simpa only [Member.completionPost, Member.sem, hse, hrel, State.releaseOk_congr hms hst] using hpost

@[simp] theorem State.inCycle_ms (s : State) (ok : Fab → Bool) : (s.inCycle ok).ms = s.ms := by
  unfold State.inCycle
  split <;> rfl

@[simp] theorem State.logEvent_ms (s : State) (code src : Half) (data : BitVec 128) : (s.logEvent code src data).ms = s.ms :=
  State.inCycle_ms s _

/-- Every tile, every byte of memory and what the memory side holds are the same. -/
def State.sameTiles (s u : State) : Prop := (∀ t, u.tile t = s.tile t) ∧ u.mem = s.mem ∧ u.ms = s.ms

theorem State.sameTiles.trans {s u v : State} (h : s.sameTiles u) (h' : u.sameTiles v) : s.sameTiles v := by
  obtain ⟨ht, hmem, hms⟩ := h
  obtain ⟨ht', hmem', hms'⟩ := h'
  exact ⟨fun t => (ht' t).trans (ht t), hmem'.trans hmem, hms'.trans hms⟩

theorem State.sameTiles_logEvent (s : State) (code src : Half) (data : BitVec 128) :
    s.sameTiles (s.logEvent code src data) := ⟨fun _ => State.tile_logEvent .., State.logEvent_mem .., State.logEvent_ms ..⟩

theorem State.sameTiles_cuEvents (s : State) (t : TileId) (r : CuRun) : s.sameTiles (s.cuEvents t r) := by
  unfold State.cuEvents
  dsimp only
  generalize hs1 : (if r.errs = 0 then s else _) = s1
  have h1 : s.sameTiles s1 := by
    rw [← hs1]
    split
    · exact ⟨fun _ => rfl, rfl, rfl⟩
    · exact s.sameTiles_logEvent _ _ _
  split
  · split
    · exact h1.trans (s1.sameTiles_logEvent _ _ _)
    · exact h1
  · exact h1

/-- A block whose `vend` has flipped and whose stores have landed leaves the vector unit, and its post is made (R213). -/
theorem State.vuComplete_eq {s : State} {t : TileId} {c : Cmd} (hc : (s.tile t).m.vu.cmd = some c)
    (hv : (s.tile t).m.vu.vending = true) (hf : (s.tile t).m.vu.flip = false) (hq : (s.tile t).m.vu.sq = []) :
    s.vuComplete t = (s.modM t (fun x => { x with
      vu := { x.vu with cmd := none, vending := false, loops := [], marks := [] } })).postDone t c 2 := by
  simp only [State.vuComplete, hc, hv, hf, hq, Bool.not_false, List.isEmpty_nil, Bool.and_self, if_true]

/-- A run of a channel whose accesses have all landed leaves its channel, and its post is made (R132). -/
theorem State.cuComplete_eq {s : State} {t : TileId} {ch : Fin 5} {k : Nat} {r : CuRun}
    (hr : ((s.tile t).m.ch[ch.val]).runs[k]? = some r) (hh : r.halted = none) (hi : r.issued = true)
    (hl : r.landed (s.tile t).m.mbq = true) (ha : r.recAddr = none) :
    s.cuComplete t ch k = ((s.modM t (fun m => m.modCh ch (fun c => { c with runs := listDrop c.runs k }))).cuEvents t r).postDone
      t r.cmd 1 := by
  simp only [State.cuComplete, hr, hh, hi, hl, ha, Option.isSome_none, Bool.or_true, Bool.not_true, Bool.or_self,
    Bool.false_eq_true, if_false, if_true]

theorem Member.length_runs_drop (m : Member) (ch : Fin 5) {k : Nat} (hk : k < (m.ch[ch.val]).runs.length) :
    (((m.modCh ch (fun c => { c with runs := listDrop c.runs k })).ch)[ch.val]).runs.length + 1
      = (m.ch[ch.val]).runs.length := by
  simp only [Member.modCh, Vector.getElem_set_self, listDrop, List.length_eraseIdx, if_pos hk]
  omega

theorem vuCompletion {s : State} {t : TileId} {c : Cmd} (hc : (s.tile t).m.vu.cmd = some c)
    (hv : (s.tile t).m.vu.vending = true) (hf : (s.tile t).m.vu.flip = false) (hq : (s.tile t).m.vu.sq = []) :
    completes (.commandCompletion t .vu 0) s (fun u => (u.tile t).m.vu.cmd = none ∧ (u.tile t).m.vf = (s.tile t).m.vf
      ∧ (u.tile t).m.f = (s.tile t).m.f
      ∧ (s.tile t).m.completionPost (u.tile t).m (s.releaseOk t c.marks c.scope) c 2 ∧ sameMemory s u) := by
  refine ⟨_, congrArg Host.Outcome.next (State.vuComplete_eq hc hv hf hq), ?_⟩
  obtain ⟨hpost, ⟨x, r, hn⟩, hmem⟩ := postDone_after (s := s) (s1 := s.modM t (fun x => { x with
    vu := { x.vu with cmd := none, vending := false, loops := [], marks := [] } })) (t := t) c 2 rfl rfl
    (by rw [State.tile_modM]) (by rw [State.tile_modM]) (by rw [State.tile_modM])
  rw [State.tile_modM] at hn
  exact ⟨by rw [hn], by rw [hn], by rw [hn], hpost, hmem⟩

theorem cuCompletion {s : State} {t : TileId} {ch : Fin 5} {k : Nat} {r : CuRun}
    (hr : ((s.tile t).m.ch[ch.val]).runs[k]? = some r) (hh : r.halted = none) (hi : r.issued = true)
    (hl : r.landed (s.tile t).m.mbq = true) (ha : r.recAddr = none) :
    completes (.commandCompletion t (.ch ch) k) s (fun u =>
      ((u.tile t).m.ch[ch.val]).runs.length + 1 = ((s.tile t).m.ch[ch.val]).runs.length
      ∧ (u.tile t).m.f = (s.tile t).m.f
      ∧ (s.tile t).m.completionPost (u.tile t).m (s.releaseOk t r.cmd.marks r.cmd.scope) r.cmd 1 ∧ sameMemory s u) := by
  refine ⟨_, congrArg Host.Outcome.next (State.cuComplete_eq hr hh hi hl ha), ?_⟩
  obtain ⟨htile, hmem1, hms⟩ :=
    (s.modM t (fun m => m.modCh ch (fun c => { c with runs := listDrop c.runs k }))).sameTiles_cuEvents t r
  have hm := congrArg Tile.m ((htile t).trans (State.tile_modM _ _ _))
  obtain ⟨hpost, ⟨x, rel, hn⟩, hmem⟩ := postDone_after (s := s) (t := t) r.cmd 1 hms hmem1 (by rw [hm]; rfl) (by rw [hm]; rfl)
    (by rw [hm]; rfl)
  rw [hm] at hn
  refine ⟨?_, (congrArg Member.f hn).trans rfl, hpost, hmem⟩
  rw [hn]
  exact Member.length_runs_drop _ ch (List.getElem?_eq_some_iff.1 hr).1

/-- Settles O46: a push that waited is the push it was; a head starts, or is marked as waiting, by the test of its wait; a
completion is its unit's change and then its post. -/
theorem commandsRun : Obligations.CommandsRun := by
  refine ⟨fun s t _ => ⟨fun i h q hw hi hgo ho hf hfw hov => ?_, fun u c he ha hh hp => ?_, fun c h imm he ha hh hp hop => ?_,
    fun u c he ha hh hp => exec_commandStart_starts he ha hh hp⟩, fun s t c ch k r =>
    ⟨fun hc hv hf hq => vuCompletion hc hv hf hq, fun hr hh hi hl _ hrec => cuCompletion hr hh hi hl hrec⟩⟩
  · obtain ⟨u, hu, hm, hmem⟩ := queuedPush_completes hw hi hgo ho hf (Member.forwardWait_covered hfw) (Member.overflows_fits hov)
    have hgo := wentOn_pushed (s.tile t).m h q ((s.tile t).m.capture i h)
    obtain ⟨x, hx, -⟩ := (s.tile t).m.pushed_eq h q ((s.tile t).m.capture i h)
    rw [hx] at hgo hm
    refine ⟨u, hu, ?_⟩
    simp only [hm]
    exact ⟨hgo, rfl, rfl, Member.pseq_retire _ 16, sameMemory_of_mem_eq hmem⟩
  · obtain ⟨h1, h2, h3, h4, h5, h6, h7, h8⟩ := (s.tile t).m.markSince_keeps u
    refine ⟨_, exec_commandStart_waits he ha hh hp, ?_⟩
    simp only [State.tile_modM]
    exact ⟨h1, h2, h3, h4, h5, h6, h7, h8, sameMemory_of_mem_eq rfl⟩
  · exact ⟨_, exec_commandStart_starts he ha hh hp, blockStart s t hop⟩

end Sys2Proof.Machine
end

section
/-! SUPPORT. Fields of a control block, and the writes that a shelf makes in DRAM (R82, R268, R389). -/

namespace Sys2Proof.Machine

/-! ### Fields after a field is replaced (R82) -/

/-- Bit by bit, a replaced field takes its new value and every other bit stays. -/
theorem getLsbD_setFld {n : Nat} (d : BitVec n) (lo len v i : Nat) (hi : i < n) :
    (setFld d lo len v).getLsbD i = if lo ≤ i ∧ i < lo + len then v.testBit (i - lo) else d.getLsbD i := by
  have hsub (hlo : lo ≤ i) : i - lo < len ↔ i < lo + len := Nat.sub_lt_iff_lt_add' hlo
  have hmask : ((2 ^ len - 1) * 2 ^ lo).testBit i = decide (lo ≤ i ∧ i < lo + len) := by
    rw [Nat.testBit_mul_two_pow, Nat.testBit_two_pow_sub_one, Bool.decide_and]
    by_cases hlo : lo ≤ i
    · rw [decide_eq_decide.2 (hsub hlo)]
    · rw [decide_eq_false hlo, Bool.false_and, Bool.false_and]
  rw [setFld, BitVec.getLsbD_or, BitVec.getLsbD_and, BitVec.getLsbD_not, BitVec.getLsbD_ofNat, BitVec.getLsbD_ofNat, hmask,
    decide_eq_true hi, Nat.testBit_mul_two_pow, Nat.testBit_mod_two_pow]
  by_cases h : lo ≤ i ∧ i < lo + len
  · simp [h, hsub h.1]
  · by_cases hlo : lo ≤ i
    · have hlen : ¬ i < lo + len := fun hlen => h ⟨hlo, hlen⟩
      simp [hsub hlo, hlen]
    · simp [hlo]

/-- A replaced field reads as written, up to its width. -/
theorem fld_setFld_same {n : Nat} (d : BitVec n) {lo len : Nat} (v : Nat) (h : lo + len ≤ n) :
    fld (setFld d lo len v) lo len = v % 2 ^ len := by
  have hbits : (setFld d lo len v).extractLsb' lo len = BitVec.ofNat len v := by
    refine BitVec.eq_of_getLsbD_eq (fun i hi => ?_)
    have hin : lo ≤ lo + i ∧ lo + i < lo + len := ⟨Nat.le_add_right lo i, Nat.add_lt_add_left hi lo⟩
    rw [BitVec.getLsbD_extractLsb', getLsbD_setFld d lo len v (lo + i) (hin.2.trans_le h), if_pos hin, BitVec.getLsbD_ofNat,
      Nat.add_sub_cancel_left]
  rw [fld, hbits, BitVec.toNat_ofNat]

/-- A field apart from the replaced one reads as before. -/
theorem fld_setFld_other {n : Nat} (d : BitVec n) {lo len lo' len' : Nat} (v : Nat) (h : lo' + len' ≤ n)
    (happart : lo' + len' ≤ lo ∨ lo + len ≤ lo') : fld (setFld d lo len v) lo' len' = fld d lo' len' := by
  have hbits : (setFld d lo len v).extractLsb' lo' len' = d.extractLsb' lo' len' := by
    refine BitVec.eq_of_getLsbD_eq (fun i hi => ?_)
    have hi' : lo' + i < lo' + len' := Nat.add_lt_add_left hi lo'
    have hout : ¬ (lo ≤ lo' + i ∧ lo' + i < lo + len) := fun ⟨hlo, hhi⟩ =>
      happart.elim (fun h => Nat.not_le.2 (hi'.trans_le h) hlo) (fun h => Nat.not_lt.2 (h.trans (Nat.le_add_right lo' i)) hhi)
    rw [BitVec.getLsbD_extractLsb', BitVec.getLsbD_extractLsb', getLsbD_setFld d lo len v (lo' + i) (hi'.trans_le h), if_neg hout]
  rw [fld, hbits, fld]

/-- A value with a bit set is not 0. -/
theorem ne_zero_of_getLsbD {n : Nat} {d : BitVec n} {i : Nat} (h : d.getLsbD i = true) : d ≠ 0 := by
  rintro rfl
  simp at h

/-- A key written with a value that is not the default reads back, whatever the form of the map. -/
theorem SMap.get_set_ne {α : Type} [DecidableEq α] {d x : α} (m : SMap α) (a : Nat) (hx : x ≠ d) :
    SMap.get d (SMap.set d m a x) a = x := by
  rw [SMap.set, if_neg hx, SMap.get_insert, if_pos rfl]

/-! ### Writes of a shelf in DRAM (R268, R389, R409) -/

/-- A mark of a granule changes the granules of the shadow and of the access record alone. -/
theorem State.markWrite_keeps {β : Type} (g : State → β) {s : State}
    (h : ∀ sb tb, g { s with ms := { s.ms with sbit := sb, tbit := tb } } = g s) (a : Nat) : g (s.markWrite a) = g s := by
  unfold State.markWrite
  split
  · exact h _ _
  · rfl

@[simp] theorem State.tile_dramPut (s : State) (a : Nat) (bs : List Byte) (u : TileId) : (s.dramPut a bs).tile u = s.tile u :=
  State.markWrite_keeps (s := { s with mem := putBytes s.mem a bs }) (·.tile u) (fun _ _ => rfl) a

@[simp] theorem State.dramPut_pushes (s : State) (a : Nat) (bs : List Byte) : (s.dramPut a bs).pushes = s.pushes :=
  State.markWrite_keeps (s := { s with mem := putBytes s.mem a bs }) State.pushes (fun _ _ => rfl) a

@[simp] theorem State.dramPut_held (s : State) (a : Nat) (bs : List Byte) : (s.dramPut a bs).ms.held = s.ms.held :=
  State.markWrite_keeps (s := { s with mem := putBytes s.mem a bs }) (·.ms.held) (fun _ _ => rfl) a

/-- A shelf's write of words that no stash owns is a write in DRAM. -/
theorem State.pointPut_unowned {s : State} {a : Nat} (h : s.ownerOf a = none) (bs : List Byte) :
    s.pointPut a bs = s.dramPut a bs := by
  simp only [State.pointPut, h]

end Sys2Proof.Machine
end

section
/-! PROOF. Task queues and dispatch rounds (R86, R336 to R339, R342). -/

namespace Sys2Proof.Machine

/-! ### The steps' meanings -/

theorem exec_taskQueuePush (k : Nat) (s : State) : exec (.taskQueuePush k) s = execTaskQueuePush k s := rfl
theorem exec_joinPushRetry (q : BitVec 12) (s : State) : exec (.joinPushRetry q) s = execJoinPushRetry q s := rfl
theorem exec_dispatchRound (d : DieId) (s : State) : exec (.dispatchRound d) s = execDispatchRound d s := rfl

/-! ### Control blocks of queues (R85, R86) -/

/-- A queue in service has EN set. -/
theorem qOn_enabled {c : W512} (h : qOn c = true) : c.getLsbD 3 = true := (Bool.and_eq_true_iff.1 h).1

theorem qRoom_on {c : W512} (h : qRoom c = true) : qOn c = true := (Bool.and_eq_true_iff.1 h).1

/-- A control block in service stays one that is listed when a count is replaced. -/
theorem setFld_ne_zero {c : W512} (h : c.getLsbD 3 = true) {lo : Nat} (hlo : 3 < lo) (len v : Nat) : setFld c lo len v ≠ 0 := by
  refine ne_zero_of_getLsbD (i := 3) ?_
  rw [getLsbD_setFld _ _ _ _ _ (by decide), if_neg (fun hin => Nat.not_le.2 hlo hin.1), h]

theorem State.qcbOf_congr {s u : State} (h : u.ms = s.ms) (q : BitVec 12) : u.qcbOf q = s.qcbOf q := by
  rw [State.qcbOf, h, State.qcbOf]

theorem State.qcbOf_setQcb (s : State) (q : BitVec 12) {c : W512} (h : c ≠ 0) : (s.setQcb q c).qcbOf q = c :=
  SMap.get_set_ne _ _ h

/-! ### Pushes (R86, R342) -/

/-- What a push that its queue takes does: TAIL goes up, the ring slot holds the record, and no tile changes. -/
def State.takes (s u : State) (q : BitVec 12) (r : W512) : Prop :=
  fld (u.qcbOf q) 64 32 = (fld (s.qcbOf q) 64 32 + 1) % 2 ^ 32
    ∧ u.mem = putBytes s.mem (qSlot (s.qcbOf q) (fld (s.qcbOf q) 64 32)) (bytesOfNat 64 r.toNat) ∧ ∀ t, u.tile t = s.tile t

@[simp] theorem State.inCycle_pushes (s : State) (ok : Fab → Bool) : (s.inCycle ok).pushes = s.pushes := by
  unfold State.inCycle
  split <;> rfl

theorem State.pushQueue_room {s : State} {q : BitVec 12} (r : W512) (orig : Nat) (drop : Bool) (hroom : qRoom (s.qcbOf q) = true)
    (hown : s.ownerOf (qSlot (s.qcbOf q) (fld (s.qcbOf q) 64 32)) = none) :
    ∃ u, s.pushQueue q r orig drop = (u, true) ∧ s.takes u q r ∧ u.pushes = s.pushes ∧ u.ms.held = s.ms.held := by
  have hne := setFld_ne_zero (qOn_enabled (qRoom_on hroom)) (lo := 64) (by decide) 32 (fld (s.qcbOf q) 64 32 + 1)
  refine ⟨_, if_pos hroom, ?_⟩
  generalize hs0 : s.inCycle (fun f => !f.pops.contains q.toNat) = s0
  have hms : s0.ms = s.ms := by rw [← hs0, State.inCycle_ms]
  have hown0 : s0.ownerOf (qSlot (s.qcbOf q) (fld (s.qcbOf q) 64 32)) = none := by
    rw [State.ownerOf, hms]
    exact hown
  rw [State.pointPut_unowned hown0]
  refine ⟨⟨?_, ?_, fun t => ?_⟩, ?_, ?_⟩
  · exact (congrArg (fld · 64 32) (State.qcbOf_setQcb _ q hne)).trans (fld_setFld_same _ _ (by decide))
  · exact (State.dramPut_mem ..).trans (by rw [← hs0, State.inCycle_mem])
  · exact (State.tile_dramPut ..).trans (by rw [← hs0, State.tile_inCycle])
  · exact (State.dramPut_pushes ..).trans (by rw [← hs0, State.inCycle_pushes])
  · exact (State.dramPut_held ..).trans (congrArg MemSide.held hms)

/-- A push that its queue refuses is held, and nothing else changes. -/
theorem State.pushOrHold_full {s : State} {p : PushReq} (hroom : qRoom (s.qcbOf p.queue) = false) :
    s.pushOrHold p = { s with ms := { s.ms with held := s.ms.held ++ [p] } } := by
  have hpush : s.pushQueue p.queue p.record p.orig false = (s, false) := if_neg (Bool.eq_false_iff.1 hroom)
  rw [State.pushOrHold, hpush]
  rfl

theorem exec_taskQueuePush_free {s : State} {k : Nat} {p : PushReq} (hp : s.pushes[k]? = some p) (hf : s.frozen = false)
    (hheld : s.pushHeld p.queue = false) :
    exec (.taskQueuePush k) s = .next ({ s with pushes := s.pushes.eraseIdx k }.pushOrHold p) := by
  rw [exec_taskQueuePush, execTaskQueuePush, hp]
  dsimp only
  rw [hf, hheld]
  rfl

/-- A record that reaches its queue enters the ring. -/
theorem taskQueuePush_takes {s : State} {k : Nat} {p : PushReq} (hp : s.pushes[k]? = some p) (hf : s.frozen = false)
    (hroom : qRoom (s.qcbOf p.queue) = true) (hheld : s.pushHeld p.queue = false)
    (hown : s.ownerOf (qSlot (s.qcbOf p.queue) (fld (s.qcbOf p.queue) 64 32)) = none) :
    completes (.taskQueuePush k) s (fun u => s.takes u p.queue p.record ∧ u.pushes = s.pushes.eraseIdx k
      ∧ u.ms.held = s.ms.held) := by
  obtain ⟨u, hpush, hu⟩ := State.pushQueue_room (s := { s with pushes := s.pushes.eraseIdx k }) p.record p.orig false hroom hown
  refine ⟨u, (exec_taskQueuePush_free hp hf hheld).trans ?_, hu⟩
  rw [State.pushOrHold, hpush]
  rfl

/-- A record whose queue is full joins the held pushes, and nothing else changes. -/
theorem taskQueuePush_full {s : State} {k : Nat} {p : PushReq} (hp : s.pushes[k]? = some p) (hf : s.frozen = false)
    (hroom : qRoom (s.qcbOf p.queue) = false) : completes (.taskQueuePush k) s (fun u => u.pushes = s.pushes.eraseIdx k
      ∧ u.ms.held = s.ms.held ++ [p] ∧ u.qcbOf p.queue = s.qcbOf p.queue ∧ sameMemory s u) := by
  have hheld : s.pushHeld p.queue = false := by rw [State.pushHeld, hroom, Bool.false_and]
  exact ⟨_, (exec_taskQueuePush_free hp hf hheld).trans (congrArg Host.Outcome.next (State.pushOrHold_full hroom)), rfl, rfl, rfl,
    fun _ => rfl⟩

/-- The oldest held push of a queue enters the ring once there is room. -/
theorem joinPushRetry_takes {s : State} {q : BitVec 12} {i : Nat} {p : PushReq}
    (hi : s.ms.held.findIdx? (fun y => y.queue == q) = some i) (hp : s.ms.held[i]? = some p) (hroom : qRoom (s.qcbOf q) = true)
    (hf : s.frozen = false) (hheld : s.pushHeld q = false)
    (hown : s.ownerOf (qSlot (s.qcbOf q) (fld (s.qcbOf q) 64 32)) = none) :
    completes (.joinPushRetry q) s (fun u => s.takes u q p.record ∧ u.ms.held = s.ms.held.eraseIdx i) := by
  obtain ⟨u, hpush, htakes, -, hh⟩ := State.pushQueue_room (s := { s with ms := { s.ms with held := s.ms.held.eraseIdx i } })
    p.record p.orig false hroom hown
  refine ⟨u, ?_, htakes, hh⟩
  rw [exec_joinPushRetry, execJoinPushRetry, hi]
  dsimp only
  rw [hp, hroom, hf, hheld]
  exact congrArg (fun x => Host.Outcome.next x.1) hpush

/-! ### The head of a queue (R86, R336) -/

/-- The dispatcher's read of a ring slot that no stash owns. -/
theorem State.readAt_unowned {s : State} {a : Nat} (hdram : regionOf a = .dram) (hown : s.ownerOf a = none) (n : Nat) :
    s.readAt a n = (s, if s.poisoned a n then .poison else .ok (bytesAt s.mem a n)) := by
  simp only [State.readAt, hdram, hown]

theorem State.queueHead_eq {s : State} {q : BitVec 12} (hon : qOn (s.qcbOf q) = true) (hlen : qLen (s.qcbOf q) ≠ 0) :
    s.queueHead q = some (qSlot (s.qcbOf q) (fld (s.qcbOf q) 96 32)) := by
  simp only [State.queueHead, hon, hlen, ne_eq, not_false_eq_true, decide_true, Bool.and_self, if_true]

theorem State.popQueue_ms (s : State) (q : BitVec 12) :
    (s.popQueue q).ms = (s.setQcb q (setFld (s.qcbOf q) 96 32 (fld (s.qcbOf q) 96 32 + 1))).ms := rfl

/-- Once a queue is popped, HEAD stands one on and TAIL where it was. -/
theorem State.popQueue_counts {s u : State} {q : BitVec 12} (hon : qOn (s.qcbOf q) = true) (h : u.ms = (s.popQueue q).ms) :
    fld (u.qcbOf q) 96 32 = (fld (s.qcbOf q) 96 32 + 1) % 2 ^ 32 ∧ fld (u.qcbOf q) 64 32 = fld (s.qcbOf q) 64 32 := by
  have hne := setFld_ne_zero (qOn_enabled hon) (lo := 96) (by decide) 32 (fld (s.qcbOf q) 96 32 + 1)
  rw [State.qcbOf_congr (h.trans (s.popQueue_ms q)), State.qcbOf_setQcb s q hne]
  exact ⟨fld_setFld_same _ _ (by decide), fld_setFld_other _ _ (by decide) (.inl (by decide))⟩

/-! ### The claim of a block (R337, R338) -/

/-- What the step of one index sets, the whole fold leaves, where the steps of all others keep it. -/
theorem foldl_sets {α β : Type} (g : State → β) {f : State → α → State} {j : α} {v : β} (hset : ∀ s, g (f s j) = v)
    (hkeep : ∀ s x, x ≠ j → g (f s x) = g s) {xs : List α} (hj : j ∈ xs) (s : State) : g (xs.foldl f s) = v := by
  induction xs using List.reverseRecOn with
  | nil => simp at hj
  | append_singleton xs x ih =>
    rw [List.foldl_append]
    by_cases hx : x = j
    · rw [hx]
      exact hset _
    · exact (hkeep _ x hx).trans (ih ((List.mem_append.1 hj).resolve_right (fun h => hx (List.mem_singleton.1 h).symm)))

section Claim

variable (s : State) (b : List TileId) (g : Gang) (r : W512) (addr : W64) (use : Nat → Bool)

/-- A claim changes the tiles of its block alone. -/
theorem State.claim_keeps {β : Type} (f : State → β) (h : ∀ st t x, t ∈ b → f (State.modTile st t x) = f st) :
    f (s.claim b g r addr use) = f s := by
  refine foldl_keeps f (fun st j => ?_) _ s
  split
  · rename_i t ht
    split
    · exact h st t _ (List.mem_of_getElem? ht)
    · rfl
  · rfl

@[simp] theorem State.claim_mem : (s.claim b g r addr use).mem = s.mem := s.claim_keeps b g r addr use State.mem (fun _ _ _ _ => rfl)
@[simp] theorem State.claim_ms : (s.claim b g r addr use).ms = s.ms := s.claim_keeps b g r addr use State.ms (fun _ _ _ _ => rfl)

theorem State.tile_claim_other {u : TileId} (h : u ∉ b) : (s.claim b g r addr use).tile u = s.tile u :=
  s.claim_keeps b g r addr use (·.tile u) (fun st t x ht => State.tile_modTile_ne st t u x (fun e => h (e ▸ ht)))

/-- Each tile of the block is claimed for the member of its place. -/
theorem State.tile_claim {j : Nat} {u : TileId} (hnodup : b.Nodup) (hu : b[j]? = some u) (huse : use j = true) :
    ((s.claim b g r addr use).tile u).st = .claimed
      ∧ ((s.claim b g r addr use).tile u).m.id = ⟨r, addr, j, g.id, none⟩ := by
  have hj : j < b.length := (List.getElem?_eq_some_iff.1 hu).1
  have hset : (((s.claim b g r addr use).tile u).st, ((s.claim b g r addr use).tile u).m.id)
      = (.claimed, ⟨r, addr, j, g.id, none⟩) := by
    refine foldl_sets (fun st : State => ((st.tile u).st, (st.tile u).m.id)) (fun st => ?_) (fun st x hx => ?_) (List.mem_range.2 hj) s
    · simp only [hu, huse, if_true, State.tile_modTile]
    · split
      · rename_i t ht
        have hne : t ≠ u := by
          rintro rfl
          exact hx ((List.getElem?_inj hj hnodup).1 (hu.trans ht.symm)).symm
        split
        · rw [State.tile_modTile_ne _ _ _ _ hne]
        · rfl
      · rfl
  exact Prod.ext_iff.1 hset

end Claim

theorem tileNo_inj {m n : Nat} (hm : m < 128) (hn : n < 128) (h : tileNo m = tileNo n) : m = n := by
  have hmod : m % 128 = n % 128 := congrArg Fin.val h
  rwa [Nat.mod_eq_of_lt hm, Nat.mod_eq_of_lt hn] at hmod

/-- The tiles of a block are distinct. -/
theorem nodup_of_mem_blocksOf {d : DieId} {code : Nat} {b : List TileId} (h : b ∈ blocksOf d code) : b.Nodup := by
  obtain ⟨k, hk, rfl⟩ := List.mem_map.1 h
  have hpos : 0 < gangSize code := Nat.pow_pos (by decide)
  have hfit : (k + 1) * gangSize code ≤ 64 := (Nat.le_div_iff_mul_le hpos).1 (List.mem_range.1 hk)
  rw [Nat.add_mul, Nat.one_mul] at hfit
  have hdie : 64 * d.val ≤ 64 := Nat.mul_le_mul_left 64 (Nat.le_of_lt_succ d.isLt)
  have hbound (i : Nat) (hi : i < gangSize code) : 64 * d.val + k * gangSize code + i < 128 :=
    (Nat.add_lt_add_left hi _).trans_le ((Nat.add_assoc ..).trans_le (Nat.add_le_add hdie hfit))
  refine List.Nodup.map_on (fun i hi j hj hij => ?_) List.nodup_range
  exact Nat.add_left_cancel (tileNo_inj (hbound i (List.mem_range.1 hi)) (hbound j (List.mem_range.1 hj)) hij)

/-- The choice is one of the blocks it chooses from (R339). -/
theorem State.choice_mem (s : State) (light : Bool) {bs : List (List TileId)} (h : bs ≠ []) : s.choice light bs ∈ bs := by
  cases bs with
  | nil => exact absurd rfl h
  | cons b rest =>
    have hfold (key : List TileId → Nat) (xs : List (List TileId)) (best : List TileId) :
        xs.foldl (fun best c => if key c < key best then c else best) best ∈ best :: xs := by
      induction xs generalizing best with
      | nil => simp
      | cons c xs ih =>
        refine (List.mem_cons.1 (ih (if key c < key best then c else best))).elim (fun he => ?_) (fun hm => ?_)
        · rw [List.foldl_cons, he]
          split <;> simp
        · exact List.mem_cons_of_mem _ (List.mem_cons_of_mem _ hm)
    exact hfold _ rest b

/-! ### A round (R336, R338, R339) -/

theorem exec_dispatchRound_due {s : State} {d : DieId} (hdue : s.roundDue d = true) (hfirst : d = 0 ∨ s.roundDue 0 = false) :
    exec (.dispatchRound d) s = .next ((s.dispatch d).modDie d (fun x => { x with round := s.fabric / 64 + 1 })) := by
  have hgo : (s.roundDue d && (d == 0 || !s.roundDue 0)) = true := by
    obtain rfl | h := hfirst
    · rw [hdue]
      rfl
    · rw [hdue, h, Bool.not_false, Bool.or_true, Bool.and_self]
  rw [exec_dispatchRound, execDispatchRound, if_pos hgo]

/-- A round with no queue in service and no frozen gang is no change. -/
theorem State.dispatch_idle {s : State} (d : DieId) (hc : s.contQ = []) (ho : s.queueOrder = []) : s.dispatch d = s := by
  simp only [State.dispatch, hc, State.placeFrozen, ho, List.isEmpty_nil, if_true, List.foldl_nil]

/-- The idle tiles that a round of a die starts with. -/
def State.roundStart (s : State) (d : DieId) : Round := ⟨s.idleTiles d, [], decide (16 ≤ (s.idleTiles d).length)⟩

/-- A round over one queue. -/
theorem State.dispatch_single {s : State} {q : BitVec 12} (d : DieId) (hc : s.contQ = []) (ho : s.queueOrder = [q]) :
    s.dispatch d = (s.roundQueue d q (qLen (s.qcbOf q)) (s.roundStart d)).1 := by
  have hfrozen : s.placeFrozen d s.contQ = s := by
    rw [hc]
    rfl
  rw [State.dispatch, hfrozen, hc, ho, if_pos List.isEmpty_nil]
  dsimp only
  rw [List.foldl_cons, List.foldl_nil]
  rfl

/-- A record that is popped and fails leaves one event, and no tile or byte changes. -/
theorem State.popQueue_launchFail (s : State) (d : DieId) (q : BitVec 12) (a : Nat) :
    ∃ u, (s.popQueue q).launchFail d a 1 = u ∧ u.ms = (s.popQueue q).ms ∧ u.eventSeq = s.eventSeq + 1
      ∧ (∀ t, u.tile t = s.tile t) ∧ u.mem = s.mem := by
  obtain ⟨htile, hmem, hms⟩ := (s.popQueue q).sameTiles_logEvent 0x0D (srcDie d) (evData a 1)
  exact ⟨_, rfl, hms, rfl, htile, hmem⟩

/-- A record without a continuation claims the chosen block for a new gang. -/
theorem State.claimRec_new (s : State) (d : DieId) (q : BitVec 12) {r : W512} (a orig : Nat) {b : List TileId} (hcv : recCv r = false)
    (hb : b.Nodup) : ∃ u, (s.logChoice d q a b).claimRec b r a orig = u ∧ u.ms = s.ms ∧ u.mem = s.mem
      ∧ (∀ j t, b[j]? = some t → (u.tile t).st = .claimed ∧ (u.tile t).m.id = ⟨r, BitVec.ofNat 64 a, j, s.nextGang, none⟩)
      ∧ ∀ t, t ∉ b → u.tile t = s.tile t := by
  refine ⟨_, rfl, ?_⟩
  simp only [State.claimRec, hcv, Bool.false_eq_true, if_false]
  exact ⟨State.claim_ms .., State.claim_mem .., fun j t ht => State.tile_claim _ b _ r _ _ hb ht rfl,
    fun t ht => State.tile_claim_other _ b _ r _ _ ht⟩

/-- One queue in service that holds one record, at a ring slot of DRAM that no stash owns. -/
def State.oneRecord (s : State) (q : BitVec 12) (a : Nat) : Prop :=
  s.contQ = [] ∧ s.queueOrder = [q] ∧ qOn (s.qcbOf q) = true ∧ qLen (s.qcbOf q) = 1
    ∧ qSlot (s.qcbOf q) (fld (s.qcbOf q) 96 32) = a ∧ regionOf a = .dram ∧ s.ownerOf a = none

/-- The free blocks of a die for the shape of a record, on tiles whose home set has the queue. -/
def State.freeBlocks (s : State) (d : DieId) (q : BitVec 12) (r : W512) : List (List TileId) :=
  (blocksOf d (recGang r)).filter (fun b => b.all (fun t => (s.idleTiles d).contains t && s.inHome t q))

theorem State.filter_roundStart (s : State) (d : DieId) (q : BitVec 12) (r : W512) :
    (blocksOf d (recGang r)).filter (fun b => b.all (fun t => (s.roundStart d).idle.contains t && !(s.roundStart d).held.contains t
      && s.inHome t q)) = s.freeBlocks d q r := by
  simp only [State.roundStart, List.contains_nil, Bool.not_false, Bool.and_true]
  rfl

/-- A round over one queue with one record: a poisoned one is popped and fails with reason 1; a good one that finds no free block
stays, and one that finds a block, and that no cancel reaches, is popped and claims the chosen block. -/
theorem State.dispatch_oneRecord {s : State} {q : BitVec 12} {a : Nat} (h : s.oneRecord q a) (d : DieId) {r : W512}
    (hr : BitVec.ofNat 512 (natOfBytes (bytesAt s.mem a 64)) = r) :
    (s.poisoned a 64 = true → s.dispatch d = (s.popQueue q).launchFail d a 1)
      ∧ (s.poisoned a 64 = false → recBad2 r = false → (s.freeBlocks d q r = [] → s.dispatch d = s)
        ∧ (s.freeBlocks d q r ≠ [] → (s.popQueue q).recCancelled r (SMap.get a s.ms.orig a) = false →
          let b := s.choice (decide (16 ≤ (s.idleTiles d).length)) (s.freeBlocks d q r)
          s.dispatch d = ((s.popQueue q).logChoice d q a b).claimRec b r a (SMap.get a s.ms.orig a))) := by
  obtain ⟨hfrozen, horder, hon, hone, hslot, hdram, hown⟩ := h
  subst hr
  have hhead : s.queueHead q = some a := by rw [State.queueHead_eq hon (by rw [hone]; decide), hslot]
  have hround := State.dispatch_single d hfrozen horder
  rw [hone, State.roundQueue, hhead] at hround
  dsimp -zeta only at hround
  rw [State.readAt_unowned hdram hown] at hround
  refine ⟨fun hp => ?_, fun hp hb => ?_⟩
  · rw [hp] at hround
    exact hround
  · rw [hp] at hround
    refine ⟨fun hno => hround.trans ((congrArg Prod.fst (if_neg (Bool.eq_false_iff.1 hb))).trans ?_), 
      fun hsome hcan => hround.trans ((congrArg Prod.fst (if_neg (Bool.eq_false_iff.1 hb))).trans ?_)⟩
    · dsimp only
      rw [State.filter_roundStart, hno]
    · dsimp only
      obtain ⟨b, bs, hfree⟩ := List.exists_cons_of_ne_nil hsome
      rw [State.filter_roundStart, hfree]
      exact congrArg Prod.fst (if_neg (Bool.eq_false_iff.1 hcan))

/-- Settles O53: a push that is taken or held, and a round's answer to the one head it meets. -/
theorem dispatchSteps : Obligations.DispatchSteps := by
  intro s d k i p q
  refine ⟨taskQueuePush_takes, taskQueuePush_full, ?_, fun hdue hfirst =>
    ⟨exec_dispatchRound_due hdue hfirst, State.dispatch_idle d⟩, fun hdue hfirst hc ho hon hone hdram hown => ?_⟩
  · rintro hi hp rfl
    exact joinPushRetry_takes hi hp
  · obtain ⟨hpoison, hgood⟩ := State.dispatch_oneRecord ⟨hc, ho, hon, hone, rfl, hdram, hown⟩ d rfl
    have hexec := exec_dispatchRound_due hdue hfirst
    refine ⟨fun hp => ?_, fun hp hb => ⟨fun hno => ?_, fun hsome hcv hcan => ?_⟩⟩
    · obtain ⟨u, hu, hms, hseq, htile, hmem⟩ := s.popQueue_launchFail d q (qSlot (s.qcbOf q) (fld (s.qcbOf q) 96 32))
      rw [(hpoison hp).trans hu] at hexec
      exact ⟨_, hexec, State.popQueue_counts hon hms, hseq, htile, sameMemory_of_mem_eq hmem⟩
    · rw [(hgood hp hb).1 hno] at hexec
      exact ⟨_, hexec, rfl, rfl, fun _ => rfl, sameMemory_of_mem_eq rfl⟩
    · have hclaim := (hgood hp hb).2 hsome hcan
      obtain ⟨u, hu, hms, hmem, hclaimed, hothers⟩ := (s.popQueue q).claimRec_new d q _ _ hcv
        (nodup_of_mem_blocksOf (List.mem_filter.1 (s.choice_mem _ hsome)).1)
      rw [hclaim.trans hu] at hexec
      exact ⟨_, hexec, State.popQueue_counts hon hms, sameMemory_of_mem_eq hmem, hclaimed, hothers⟩

end Sys2Proof.Machine
end

section
/-! PROOF. A `pool.put` of a block that is not allocated (R88, R346), over canonical and other maps of control blocks. -/

namespace Sys2Proof.Machine

/-- The block that an address names is allocated: it lies in a pool in service, at a block's start, and its bit is set. -/
def State.poolAllocated (s : State) (p : BitVec 8) (a : W64) : Prop :=
  let c := s.pcbOf p
  let rel : Int := (a.toNat : Int) - poolBase c
  poolOn c = true ∧ 0 ≤ rel ∧ rel % poolBlock c = 0 ∧ (rel / poolBlock c).toNat < fld c 24 24
    ∧ s.poolBit c (rel / poolBlock c).toNat = true

/-- The control block after a bad put: its error count is raised. -/
def badPutBlock (c : W512) : W512 := setFld c 160 32 (fld c 160 32 + 1)

/-- Only the control block of the pool, the event log and what counts events have changed. -/
structure State.blockLogged (s : State) (p : BitVec 8) (c : W512) (u : State) : Prop where
  tile : ∀ t, u.tile t = s.tile t
  mem : u.mem = s.mem
  block : u.pcbOf p = (s.setPcb p c).pcbOf p
  seq : u.eventSeq = s.eventSeq + 1

theorem State.blockLogged_logEvent (s : State) (p : BitVec 8) (c : W512) (code src : Half) (data : BitVec 128) :
    s.blockLogged p c ((s.setPcb p c).logEvent code src data) where
  tile _ := State.tile_logEvent ..
  mem := State.logEvent_mem _ code src data
  block := by rw [State.pcbOf, State.logEvent_ms, State.pcbOf]
  seq := State.logEvent_eventSeq _ code src data

theorem State.poolPut_bad {s : State} {p : BitVec 8} {a : W64} (h : ¬ s.poolAllocated p a) :
    s.blockLogged p (badPutBlock (s.pcbOf p)) (s.poolPut p a) := by
  have hput : s.poolPut p a
      = (s.setPcb p (badPutBlock (s.pcbOf p))).logEvent 0x07 (srcShelf (p.toNat % 8)) (evData a.toNat p.toNat) := by
    unfold State.poolPut
    refine if_pos ?_
    by_contra hgood
    simp only [Bool.or_eq_true, Bool.not_eq_true', decide_eq_true_eq, not_or, Bool.not_eq_false, not_not, Int.not_lt,
      Nat.not_le] at hgood
    obtain ⟨⟨⟨⟨hon, hrel⟩, hmod⟩, hi⟩, hbit⟩ := hgood
    exact h ⟨hon, hrel, hmod, hi, hbit⟩
  rw [hput]
  exact State.blockLogged_logEvent ..

/-- A put that nothing holds back runs and retires. -/
theorem State.exec_poolPut_runs {s : State} {a : SReg} {p : BitVec 8} (hi : s.issues 1 = true)
    (hf : s.fenceOk s.cur .package = true) (hs : s.ms.setup.contains p.toNat = false)
    (hh : s.putHeld p ((s.tile s.cur).m.sreg a) = false) :
    exec (.poolPut a p) s
      = .next ((s.poolPut p ((s.tile s.cur).m.sreg a)).modM s.cur (fun m => (m.retire 8).addWeight 1)) := by
  refine congrArg Host.Outcome.next (State.issue_retire (g := id) hi ?_)
  simp only [hf, hs, hh, Bool.or_self, Bool.false_eq_true, if_true, if_false, State.done8, id_eq]

/-- A put of a block that is not allocated retires with the error count raised and one event logged. -/
theorem State.exec_poolPut_bad {s : State} {a : SReg} {p : BitVec 8} (hi : s.issues 1 = true)
    (hf : s.fenceOk s.cur .package = true) (hs : s.ms.setup.contains p.toNat = false)
    (hh : s.putHeld p ((s.tile s.cur).m.sreg a) = false) (h : ¬ s.poolAllocated p ((s.tile s.cur).m.sreg a)) :
    ∃ u, exec (.poolPut a p) s = .next u ∧ wentOn (s.tile s.cur).m (u.tile s.cur).m 8 ∧ (u.tile s.cur).m.f = (s.tile s.cur).m.f
      ∧ u.mem = s.mem ∧ u.pcbOf p = (s.setPcb p (badPutBlock (s.pcbOf p))).pcbOf p ∧ u.eventSeq = s.eventSeq + 1 := by
  obtain ⟨htile, hmem, hblock, hseq⟩ := State.poolPut_bad h
  refine ⟨_, State.exec_poolPut_runs hi hf hs hh, ?_⟩
  generalize s.poolPut p ((s.tile s.cur).m.sreg a) = v at htile hmem hblock hseq
  have hm : ((v.modM s.cur (fun m => (m.retire 8).addWeight 1)).tile s.cur).m = ((s.tile s.cur).m.retire 8).addWeight 1 := by
    rw [State.tile_modM, htile]
  rw [hm]
  exact ⟨wentOn_retire 8 1 rfl rfl, rfl, hmem, hblock, hseq⟩

/-- The bad put as the statement has it, where the map of control blocks is canonical. -/
theorem State.poolPut_bad_counts {s : State} {a : SReg} {p : BitVec 8} (hwf : SMap.wf 0 s.ms.pcb = true)
    (hi : s.issues 1 = true) (hf : s.fenceOk s.cur .package = true) (hs : s.ms.setup.contains p.toNat = false)
    (hh : s.putHeld p ((s.tile s.cur).m.sreg a) = false) (h : ¬ s.poolAllocated p ((s.tile s.cur).m.sreg a)) :
    completes (.poolPut a p) s (fun u => wentOn (s.tile s.cur).m (u.tile s.cur).m 8
      ∧ (u.tile s.cur).m.f = (s.tile s.cur).m.f ∧ sameMemory s u
      ∧ fld (u.pcbOf p) 160 32 = (fld (s.pcbOf p) 160 32 + 1) % 2 ^ 32 ∧ fld (u.pcbOf p) 128 24 = fld (s.pcbOf p) 128 24
      ∧ u.eventSeq = s.eventSeq + 1) := by
  obtain ⟨u, hu, hwent, hface, hmem, hpcb, hseq⟩ := State.exec_poolPut_bad hi hf hs hh h
  have hblock : u.pcbOf p = badPutBlock (s.pcbOf p) := by
    rw [hpcb]
    exact (SMap.get_set 0 hwf ..).trans (if_pos rfl)
  refine ⟨u, hu, hwent, hface, fun b => congrArg (byteAt · b) hmem, ?_, ?_, hseq⟩
  · rw [hblock]
    exact fld_setFld_same _ _ (by decide)
  · rw [hblock]
    exact fld_setFld_other _ _ (by decide) (.inl (by decide))

/-! ### A map that is not canonical -/

/-- Pool 0's control block: out of service, with its error count at its top. -/
def fullErrorCount : W512 := setFld 0 160 32 (2 ^ 32 - 1)

/-- Tile 0 runs a member, and the map of control blocks, which is not canonical, holds pool 0 twice. -/
def twiceMapped : State :=
  { State.reset.modTile 0 (fun x => { x with st := .running }) with
    ms := { State.reset.ms with pcb := [(0, fullErrorCount), (0, fullErrorCount)] } }

/-- The put wraps the error count to 0, which takes the first entry out of the map: the second one shows. -/
theorem twiceMapped_put : (twiceMapped.setPcb 0 (badPutBlock (twiceMapped.pcbOf 0))).pcbOf 0 = fullErrorCount := by
  decide +kernel

theorem twiceMapped_meets : twiceMapped.memOk = true ∧ twiceMapped.issues 1 = true
    ∧ twiceMapped.fenceOk twiceMapped.cur .package = true ∧ twiceMapped.ms.setup.contains 0 = false
    ∧ twiceMapped.putHeld 0 ((twiceMapped.tile twiceMapped.cur).m.sreg 0) = false ∧ poolOn (twiceMapped.pcbOf 0) = false
    ∧ twiceMapped.pcbOf 0 = fullErrorCount := by
  decide +kernel

/-- Refutes O33: only the byte maps are assumed canonical. Where the map of control blocks holds pool 0 twice, a bad put whose error
count wraps leaves a zero block, so the first entry goes and the count of the second one, 2^32 - 1, is read where the statement wants
0. `State.poolPut_bad_counts` has the clause for every canonical map. -/
theorem not_pools : ¬ Obligations.Pools := by
  unfold Obligations.Pools
  intro hpools
  obtain ⟨hmem, hi, hf, hs, hh, hoff, hc⟩ := twiceMapped_meets
  have hbad : ¬ twiceMapped.poolAllocated 0 ((twiceMapped.tile twiceMapped.cur).m.sreg 0) := fun h => by
    rw [State.poolAllocated, hoff] at h
    cases h.1
  obtain ⟨u, hu, -, -, -, hcount, -⟩ := ((hpools.2 twiceMapped 0 0 hmem).1 hi hf hs hh).2 hbad
  obtain ⟨u', hu', -, -, -, hpcb, -⟩ := State.exec_poolPut_bad (a := 0) hi hf hs hh hbad
  obtain rfl : u = u' := Host.Outcome.next.inj (hu.symm.trans hu')
  rw [hpcb, twiceMapped_put, hc] at hcount
  revert hcount
  decide +kernel

end Sys2Proof.Machine
end

section
/-! PROOF. Translations removed from every TLB, and fences (R107, R108, R276). -/

namespace Sys2Proof.Machine

/-! ### What a removal leaves (R107) -/

theorem State.tlbDrop_tiles (s : State) (keep : TlbEntry → Bool) :
    (s.tlbDrop keep).tiles = vmap s.tiles (fun x => { x with tlb := x.tlb.filter keep }) := rfl

theorem State.tlbDrop_dies (s : State) (keep : TlbEntry → Bool) :
    (s.tlbDrop keep).dies = vmap s.dies (fun (x : Die) => { x with tlb := x.tlb.filter keep }) := rfl

theorem State.tlbDrop_mem (s : State) (keep : TlbEntry → Bool) : (s.tlbDrop keep).mem = s.mem := by
  rw [State.tlbDrop]

theorem State.tile_tlbDrop (s : State) (keep : TlbEntry → Bool) (u : TileId) :
    (s.tlbDrop keep).tile u = { s.tile u with tlb := (s.tile u).tlb.filter keep } := by
  rw [State.tile, State.tlbDrop_tiles, getElem_vmap, ← State.tile]

theorem State.m_tlbDrop (s : State) (keep : TlbEntry → Bool) (u : TileId) : ((s.tlbDrop keep).tile u).m = (s.tile u).m := by
  rw [State.tile_tlbDrop]

/-- A change of a member leaves every TLB of the tiles. -/
theorem State.tlb_modM (s : State) (t u : TileId) (f : Member → Member) : ((s.modM t f).tile u).tlb = (s.tile u).tlb := by
  by_cases h : t = u
  · subst h
    rw [State.tile_modM]
  · rw [State.tile_modM_ne _ _ _ _ h]

/-- The accesses in flight do not depend on the translations held. -/
theorem State.reached_tlbDrop (s : State) (keep : TlbEntry → Bool) (marks : List Nat) :
    (s.tlbDrop keep).reached marks = s.reached marks := by
  simp only [State.reached, State.m_tlbDrop]

/-- The translations that `keep` does not hold have left every TLB, memory stays, and the current member is changed by `f`. -/
structure State.dropped (s : State) (keep : TlbEntry → Bool) (f : Member → Member) (t : State) : Prop where
  tile : ∀ u, (t.tile u).tlb = (s.tile u).tlb.filter keep
  die : ∀ d : DieId, (t.dies[d.val]).tlb = (s.dies[d.val]).tlb.filter keep
  mem : t.mem = s.mem
  member : (t.tile s.cur).m = f (s.tile s.cur).m

theorem State.dropped_modM (s : State) (keep : TlbEntry → Bool) (f : Member → Member) :
    s.dropped keep f ((s.tlbDrop keep).modM s.cur f) where
  tile u := by rw [State.tlb_modM, State.tile_tlbDrop]
  die d := by rw [State.modM_dies, State.tlbDrop_dies, getElem_vmap]
  mem := by rw [State.modM_mem, State.tlbDrop_mem]
  member := by rw [State.tile_modM, State.m_tlbDrop]

/-! ### `tlbi` (R108) -/

/-- The marks of a `tlbi`: below them stand the accesses that every tile has issued. -/
def State.issueMarks (s : State) : List Nat := s.tiles.toList.map (fun x => x.m.su.nextId)

/-- The steering unit waits for the accesses below the marks. -/
def Member.awaitDrain (i : Instr) (marks : List Nat) (m : Member) : Member :=
  { m with su := { m.su with wait := .drain i marks, ready := m.ctr.cycle + 1 } }

/-- What a `tlbi` in a handler makes of its member: it retires where the accesses issued have reached their memory points. -/
def Member.afterTlbi (i : Instr) (marks : List Nat) (reached : Bool) (m : Member) : Member :=
  if reached then m.retire 4 else m.awaitDrain i marks

theorem Member.afterTlbi_f (i : Instr) (marks : List Nat) (reached : Bool) (m : Member) :
    (m.afterTlbi i marks reached).f = m.f := by
  cases reached <;> rfl

/-- A `tlbi` has issued while it waits. -/
theorem Member.afterTlbi_atIssue (i : Instr) (marks : List Nat) (reached : Bool) (m : Member) :
    (m.afterTlbi i marks reached).su.wait.atIssue = false := by
  cases reached <;> rfl

/-- What a `tlbi` in a handler comes to. -/
theorem State.dropped.tlbi {s t : State} {i : Instr} {keep : TlbEntry → Bool}
    (h : s.dropped keep (fun m => (m.afterTlbi i s.issueMarks (s.reached s.issueMarks)).addWeight 1) t) :
    (∀ u, (t.tile u).tlb = (s.tile u).tlb.filter keep) ∧ (∀ d : DieId, (t.dies[d.val]).tlb = (s.dies[d.val]).tlb.filter keep)
      ∧ sameMemory s t ∧ (t.tile s.cur).m.f = (s.tile s.cur).m.f
      ∧ (s.reached s.issueMarks = true → wentOn (s.tile s.cur).m (t.tile s.cur).m 4)
      ∧ (s.reached s.issueMarks = false →
        (t.tile s.cur).m.su.wait = .drain i s.issueMarks ∧ (t.tile s.cur).m.su.pc = (s.tile s.cur).m.su.pc) := by
  obtain ⟨htile, hdie, hmem, hmember⟩ := h
  rw [hmember]
  refine ⟨htile, hdie, sameMemory_of_mem_eq hmem, Member.afterTlbi_f .., fun hr => ?_, fun hr => ?_⟩
  · rw [hr]
    exact wentOn_retire 4 1 rfl rfl
  · rw [hr]
    exact ⟨rfl, rfl⟩

theorem State.tlbiS_outside {s : State} (hi : s.issues 1 = true) (hh : (s.tile s.cur).m.su.inHandler = false) (i : Instr)
    (k : Member → TlbEntry → Bool) : s.tlbiS i k = s.raise (illegal (wordOf i)) :=
  State.issue_raise hi (by dsimp only; rw [hh]; rfl)

theorem State.tlbiS_inside {s : State} (hi : s.issues 1 = true) (hh : (s.tile s.cur).m.su.inHandler = true) (i : Instr)
    (k : Member → TlbEntry → Bool) :
    s.tlbiS i k = (s.tlbDrop (k (s.tile s.cur).m)).modM s.cur
      (fun m => (m.afterTlbi i s.issueMarks (s.reached s.issueMarks)).addWeight 1) := by
  obtain ⟨hwait, -⟩ := (s.issues_iff 1).1 hi
  unfold State.tlbiS
  refine (State.issue_next (t := (s.tlbDrop (k (s.tile s.cur).m)).modM s.cur
    (Member.afterTlbi i s.issueMarks (s.reached s.issueMarks))) hi ?body ?issued).trans (State.modM_modM ..)
  case body =>
    dsimp only
    rw [hh, hwait, Bool.not_true, if_neg Bool.false_ne_true]
    cases hr : s.reached s.issueMarks with
    | true => exact if_pos ((s.reached_tlbDrop _ _).trans hr)
    | false => exact if_neg (Bool.eq_false_iff.1 ((s.reached_tlbDrop _ _).trans hr))
  case issued => rw [State.tile_modM, Member.afterTlbi_atIssue]

theorem State.tlbiS_dropped {s : State} (hi : s.issues 1 = true) (hh : (s.tile s.cur).m.su.inHandler = true) (i : Instr)
    (k : Member → TlbEntry → Bool) :
    s.dropped (k (s.tile s.cur).m) (fun m => (m.afterTlbi i s.issueMarks (s.reached s.issueMarks)).addWeight 1)
      (s.tlbiS i k) := by
  rw [State.tlbiS_inside hi hh]
  exact s.dropped_modM _ _

/-- Every `tlbi` has the one shape, and keeps what the statement says it keeps. -/
theorem tlbiKeeps_elim (s : State) (i : Instr) :
    (tlbiKeeps (s.tile s.cur).m i).elim True fun keep => ∃ k, exec i s = .next (s.tlbiS i k) ∧ k (s.tile s.cur).m = keep := by
  induction i with
  | tlbiAll | tlbiAsid | tlbiVa => exact ⟨_, rfl, rfl⟩
  | _ => exact trivial

theorem exec_tlbi {s : State} {i : Instr} {keep : TlbEntry → Bool} (h : tlbiKeeps (s.tile s.cur).m i = some keep) :
    ∃ k, exec i s = .next (s.tlbiS i k) ∧ k (s.tile s.cur).m = keep := by
  have hshape := tlbiKeeps_elim s i
  rwa [h] at hshape

/-! ### Fences (R276) -/

theorem State.fenceOk_iff (s : State) (t : TileId) (sc : Scope) :
    s.fenceOk t sc = true ↔ (∀ x ∈ (s.tile t).m.su.loads, x.isResult = true)
      ∧ ∀ x ∈ (s.tile t).m.su.stores, scopeRank sc < scopeRank (s.scopeOf t x.tgt) := by
  simp only [State.fenceOk, Bool.and_eq_true, List.all_eq_true, decide_eq_true_eq]

/-- Every fence has the one shape, and has issued while it waits. -/
theorem fenceForm_elim (s : State) (i : Instr) :
    (fenceForm i).elim True fun sc => exec i s = .next (s.fenceS i sc) ∧ Instr.waitsAtIssue i = false := by
  induction i with
  | fenceT | fenceQ | fenceD | fenceP | fenceS => exact ⟨rfl, rfl⟩
  | _ => exact trivial

theorem exec_fence {i : Instr} {sc : Scope} (h : fenceForm i = some sc) (s : State) :
    exec i s = .next (s.fenceS i sc) ∧ Instr.waitsAtIssue i = false := by
  have hshape := fenceForm_elim s i
  rwa [h] at hshape

theorem State.fenceS_done {s : State} {sc : Scope} (hi : s.issues 1 = true) (hok : s.fenceOk s.cur sc = true) (i : Instr) :
    s.fenceS i sc = s.modM s.cur (fun m => (m.retireTo (m.su.pc + 4)
      (if m.su.wait.waiting then 0 else 1)).addWeight 1) := by
  unfold State.fenceS
  rw [State.issue_next hi (if_pos hok) (by rw [State.tile_modM]; rfl), State.modM_modM]

theorem State.fenceS_waits {s : State} {sc : Scope} {i : Instr} (hi : s.issues 1 = true) (hno : s.fenceOk s.cur sc ≠ true)
    (hw : Instr.waitsAtIssue i = false) : s.fenceS i sc = (s.hold i).modM s.cur (fun m => m.addWeight 1) :=
  State.issue_next hi (if_neg hno) (by rw [State.hold, State.tile_modM]; exact hw)

/-- Where nothing is waited on, a fence retires as any instruction of 4 bytes does. -/
theorem Member.retireTo_fence {m : Member} (h : m.su.wait = .no) :
    m.retireTo (m.su.pc + 4) (if m.su.wait.waiting then 0 else 1) = m.retire 4 := by
  rw [h]
  rfl

theorem sameUnits_retire (m : Member) (len wt : Nat) : sameUnits m ((m.retire len).addWeight wt) :=
  ⟨rfl, rfl, rfl, rfl, rfl, rfl, rfl, rfl, rfl, rfl, rfl, rfl, rfl, rfl, rfl, rfl, rfl⟩

theorem completes_fence {s : State} {i : Instr} {sc : Scope} (h : fenceForm i = some sc) (hi : s.issues 1 = true)
    (hok : s.fenceOk s.cur sc = true) :
    completes i s (fun t => onlyMember s t ∧ wentOn (s.tile s.cur).m (t.tile s.cur).m 4
      ∧ (t.tile s.cur).m.f = (s.tile s.cur).m.f ∧ sameUnits (s.tile s.cur).m (t.tile s.cur).m) := by
  obtain ⟨hwait, -⟩ := (s.issues_iff 1).1 hi
  refine ⟨_, (exec_fence h s).1.trans (congrArg _ (State.fenceS_done hi hok i)), ⟨_, rfl⟩, ?_⟩
  rw [State.tile_modM, Member.retireTo_fence hwait]
  exact ⟨wentOn_retire 4 1 rfl rfl, rfl, sameUnits_retire _ 4 1⟩

/-- Settles O23: a `tlbi` is its removal and then its wait for the accesses issued; a fence completes or is held. -/
theorem fencesAndInvalidation : Obligations.FencesAndInvalidation := by
  refine ⟨fun s i keep hi hkeep => ?tlbi, fun s i sc hform hi => ?fence⟩
  case tlbi =>
    obtain ⟨k, hexec, rfl⟩ := exec_tlbi hkeep
    exact ⟨fun hin => ⟨_, hexec, (State.tlbiS_dropped hi hin i k).tlbi⟩,
      fun hout => hexec.trans (congrArg _ (State.tlbiS_outside hi hout i k))⟩
  case fence =>
    refine ⟨fun hdone => completes_fence hform hi ((s.fenceOk_iff s.cur sc).2 hdone), fun hdone => ?_⟩
    obtain ⟨hexec, hissued⟩ := exec_fence hform s
    exact hexec.trans (congrArg _ (State.fenceS_waits hi (hdone ∘ (s.fenceOk_iff s.cur sc).1) hissued))

end Sys2Proof.Machine
end

section
/-! SUPPORT. What the accesses of engines leave of a member, and of poison (R100, R114, R119, R128, R129, R387). -/

namespace Sys2Proof.Machine

/-! ### What no access changes of a member -/

/-- The registers, queues, semaphores and channels of the member on a tile. -/
def State.regs (s : State) (x : TileId) : SFaces × VFaces × Queues × Sems × Vector Channel 5 :=
  let m := (s.tile x).m
  (m.f, m.vf, m.q, m.sems, m.ch)

/-- Equal tiles hold equal registers. -/
theorem State.regs_of_tile {s u : State} {x : TileId} (h : u.tile x = s.tile x) : u.regs x = s.regs x := by
  rw [State.regs, h, State.regs]

/-- What a change of a tile leaves of its member's registers, it leaves of every member's. -/
theorem State.regs_modTile {s : State} {t : TileId} {f : Tile → Tile} (x : TileId)
    (h : (s.modTile t f).regs t = s.regs t) : (s.modTile t f).regs x = s.regs x := by
  by_cases e : t = x
  · exact e ▸ h
  · exact State.regs_of_tile (State.tile_modTile_ne s t x f e)

@[simp] theorem State.regs_setStash (s : State) (t : TileId) (st : Member → Stash) (x : TileId) :
    (s.modM t (fun m => { m with stash := st m })).regs x = s.regs x :=
  State.regs_modTile x (by simp only [State.regs, State.tile_modTile])

@[simp] theorem State.regs_setTlb (s : State) (t : TileId) (l : Tile → List TlbEntry) (x : TileId) :
    (s.modTile t (fun y => { y with tlb := l y })).regs x = s.regs x :=
  State.regs_modTile x (by simp only [State.regs, State.tile_modTile])

@[simp] theorem State.regs_logReplay (s : State) (t : TileId) (r : LogRec) (x : TileId) : (s.logReplay t r).regs x = s.regs x :=
  State.regs_modTile x (by rw [← State.logReplay, State.regs, State.m_logReplay, State.regs])

@[simp] theorem State.regs_logEvent (s : State) (code src : Half) (data : BitVec 128) (x : TileId) :
    (s.logEvent code src data).regs x = s.regs x := State.regs_of_tile (State.tile_logEvent ..)

@[simp] theorem State.regs_joinNote (s : State) (src : Half) (a : Nat) (x : TileId) : (s.joinNote src a).regs x = s.regs x :=
  keeps_ite (·.regs x) _ (State.regs_logEvent ..)

@[simp] theorem State.regs_wake (s : State) (a n : Nat) (x : TileId) : (s.wake a n).regs x = s.regs x :=
  foldl_keeps (·.regs x) (fun _ _ => State.regs_modTile x (by simp only [State.regs, State.tile_modTile])) _ s

@[simp] theorem State.regs_dramPut (s : State) (a : Nat) (bs : List Byte) (x : TileId) : (s.dramPut a bs).regs x = s.regs x :=
  State.regs_of_tile (State.tile_dramPut ..)

@[simp] theorem State.regs_shelfPut (n : Nat) (bs : List Byte) (s : State) (off : Nat) (x : TileId) :
    (s.shelfPut n off bs).regs x = s.regs x := by
  induction bs generalizing s off with
  | nil => rfl
  | cons b bs ih =>
    refine (ih _ _).trans ?_
    split
    · rfl
    · split <;> rfl

@[simp] theorem State.regs_logSaved (s : State) (k : Nat) (sl : Slot) (r : LogRec) (x : TileId) :
    (s.logSaved k sl r).regs x = s.regs x := by
  unfold State.logSaved
  dsimp only
  split
  · rfl
  · refine State.regs_modTile x ?_
    simp only [State.regs, State.tile_modTile]
    split <;> rfl

@[simp] theorem State.regs_savedPut (s : State) (k : Nat) (sl : Slot) (l a : Nat) (bs : List Byte) (x : TileId) :
    (s.savedPut k sl l a bs).regs x = s.regs x :=
  (State.regs_logSaved ..).trans (keeps_ite (·.regs x) _ (State.regs_dramPut ..))

/-! ### Accesses of engines -/

/-- A tile that keeps its translations is the same. -/
theorem State.modTile_sameTlb (s : State) (t : TileId) : s.modTile t (fun x => { x with tlb := (s.tile t).tlb }) = s := by
  have h : s.tiles.set t.val (s.tile t) = s.tiles := Vector.set_getElem_self ..
  simpa only [State.modTile, State.setTile] using congrArg (fun l => { s with tiles := l }) h

/-- The state after an access has been routed: free values and the translations that its tile and its die keep may differ. -/
def State.withTlb (s : State) (t : TileId) (n : Nat) (tlb dtlb : List TlbEntry) : State :=
  ({ s with free := n }.modTile t (fun x => { x with tlb := tlb })).modDie (dieOfTile t) (fun x => { x with tlb := dtlb })

theorem State.withTlb_sameTile (s : State) (t : TileId) (n : Nat) (dtlb : List TlbEntry) :
    s.withTlb t n (s.tile t).tlb dtlb = { s with free := n }.modDie (dieOfTile t) (fun x => { x with tlb := dtlb }) :=
  congrArg (·.modDie (dieOfTile t) (fun x => { x with tlb := dtlb })) (State.modTile_sameTlb { s with free := n } t)

theorem State.withTlb_self (s : State) (t : TileId) (n : Nat) :
    s.withTlb t n (s.tile t).tlb s.dies[(dieOfTile t).val].tlb = { s with free := n } :=
  (s.withTlb_sameTile t n _).trans (State.modDie_eq_self rfl)

theorem State.translate_state (s : State) (t : TileId) (e : EngCls) (asid : BitVec 12) (va : W64) (k : AccKind) (handler : Bool) :
    ∃ n tlb dtlb, (s.translate t e asid va k handler).1 = s.withTlb t n tlb dtlb := by
  have hself (n : Nat) : ∃ n' tlb dtlb, { s with free := n } = s.withTlb t n' tlb dtlb := ⟨n, _, _, (s.withTlb_self t n).symm⟩
  unfold State.translate
  dsimp only
  split
  · split
    · exact hself s.free
    · split <;> exact hself (s.free + 1)
  · split
    · split
      · exact ⟨s.free, _, _, (s.withTlb_sameTile t s.free _).symm⟩
      · exact ⟨s.free, _, _, rfl⟩
    · exact hself s.free
    · exact hself s.free

theorem State.routeT_state (s : State) (t : TileId) (e : EngCls) (asid : BitVec 12) (va : W64) (k : AccKind) (handler : Bool) :
    ∃ n tlb dtlb, (s.routeT t e asid va k handler).1 = s.withTlb t n tlb dtlb := by
  have htrans := s.translate_state t e asid va k handler
  unfold State.routeT
  split
  · exact ⟨s.free, _, _, (s.withTlb_self t s.free).symm⟩
  · dsimp only
    split
    · exact htrans
    · exact htrans
    · split <;> exact htrans

theorem State.engTarget_state (s : State) (t : TileId) (e : EngCls) (asid : BitVec 12) (va : W64) (k : AccKind) :
    ∃ n tlb dtlb, (s.engTarget t e asid va k).1 = s.withTlb t n tlb dtlb := by
  have hroute : (s.engTarget t e asid va k).1 = (s.routeT t e asid va k false).1 := by
    unfold State.engTarget
    dsimp only
    split <;> rfl
  exact hroute ▸ s.routeT_state t e asid va k false

@[simp] theorem State.regs_withTlb (s : State) (t : TileId) (n : Nat) (tlb dtlb : List TlbEntry) (x : TileId) :
    (s.withTlb t n tlb dtlb).regs x = s.regs x := State.regs_setTlb { s with free := n } t (fun _ => tlb) x

@[simp] theorem State.regs_engTarget (s : State) (t : TileId) (e : EngCls) (asid : BitVec 12) (va : W64) (k : AccKind) (x : TileId) :
    (s.engTarget t e asid va k).1.regs x = s.regs x := by
  obtain ⟨n, tlb, dtlb, h⟩ := s.engTarget_state t e asid va k
  rw [h, State.regs_withTlb]

/-! ### Writes at a memory point -/

theorem State.regs_putAt (s : State) (a : Nat) (bs : List Byte) (x : TileId) : (s.putAt a bs).1.regs x = s.regs x := by
  unfold State.putAt
  split
  · rfl
  · exact State.regs_shelfPut ..
  · rfl
  · split
    · dsimp only
      split <;> simp
    · split
      · split
        · dsimp only
          split <;> simp
        · split <;> simp
      · split <;> simp
    · split <;> simp

theorem State.regs_writeAt (s : State) (src : Half) (a : Nat) (mt : BitVec 2) (wakes : Bool) (bs : List Byte) (x : TileId) :
    (s.writeAt src a mt wakes bs).1.regs x = s.regs x := by
  have hput := s.regs_putAt a bs x
  unfold State.writeAt
  split
  · rfl
  · dsimp only
    split
    · dsimp only
      split <;> simpa using hput
    · exact hput

theorem State.regs_writeT (s : State) (t : TileId) (tgt : Target) (wakes : Bool) (bs : List Byte) (x : TileId) :
    (s.writeT t tgt wakes bs).1.regs x = s.regs x := by
  unfold State.writeT
  split
  · dsimp only
    split <;> simp
  · exact State.regs_writeAt ..

theorem State.regs_engWrite1 (s : State) (t : TileId) (e : EngCls) (asid : BitVec 12) (va : W64) (bs : List Byte) (x : TileId) :
    (s.engWrite1 t e asid va bs).1.regs x = s.regs x := by
  have htarget := s.regs_engTarget t e asid va .write x
  unfold State.engWrite1
  dsimp only
  split
  · split <;> exact (State.regs_writeT ..).trans htarget
  all_goals exact htarget

/-- The writes of an engine leave every member's registers, queues, semaphores and channels. -/
theorem State.regs_engWrites (ws : List (W64 × List Byte)) (s : State) (t : TileId) (e : EngCls) (asid : BitVec 12) (x : TileId) :
    (s.engWrites t e asid ws).1.regs x = s.regs x := by
  induction ws generalizing s with
  | nil => rfl
  | cons w ws ih =>
    obtain ⟨va, bs⟩ := w
    have hfirst := s.regs_engWrite1 t e asid va bs x
    unfold State.engWrites
    dsimp only
    split
    · exact (ih _).trans hfirst
    · exact (ih _).trans hfirst
    · exact hfirst

/-! ### Words that are pending no more (R129) -/

/-- A quantity that no change of a stash's pending words changes. -/
theorem State.unpend_keeps {β : Type} (g : State → β)
    (h : ∀ (s : State) (o : TileId) (f : List Nat → List Nat),
      g (s.modM o (fun m => { m with stash := { m.stash with pend := f m.stash.pend } })) = g s)
    (s : State) (t : TileId) (asid : BitVec 12) (ps : List CuPlace) : g (s.unpend t asid ps) = g s :=
  keeps_ite g _ (foldl_keeps g (fun st (w : TileId × Nat) => h st w.1 _) _ s)

/-! ### Poison (R78, R117, R409) -/

theorem State.anyPoison_eq_false (s : State) : s.anyPoison = false ↔ s.ms.poison = [] ∧ s.ms.bad = []
    ∧ (∀ x, (s.tile x).m.stash.anyPoison = false) ∧ ∀ e ∈ s.slots, e.2.img.stash.anyPoison = false := by
  have htiles : s.tiles.toList.any (fun x => x.m.stash.anyPoison) = false ↔ ∀ x, (s.tile x).m.stash.anyPoison = false := by
    simp only [List.any_eq_false, Bool.not_eq_true, Vector.mem_toList_iff, Vector.mem_iff_getElem, State.tile]
    exact ⟨fun h x => h _ ⟨x.val, x.isLt, rfl⟩, fun h _ ⟨k, hk, hx⟩ => hx ▸ h ⟨k, hk⟩⟩
  simp only [State.anyPoison, Bool.or_eq_false_iff, Bool.not_eq_false', List.isEmpty_iff, htiles, and_assoc, List.any_eq_false,
    Bool.not_eq_true]

/-- Poison is the same where the memory side, the saved members and every stash hold the same of it. -/
theorem State.anyPoison_congr {s u : State} (hpoison : u.ms.poison = s.ms.poison) (hbad : u.ms.bad = s.ms.bad)
    (hslots : u.slots = s.slots) (htile : ∀ x, (u.tile x).m.stash.anyPoison = (s.tile x).m.stash.anyPoison) :
    u.anyPoison = s.anyPoison := by
  have h : u.anyPoison = false ↔ s.anyPoison = false := by
    simp only [State.anyPoison_eq_false, hpoison, hbad, hslots, htile]
  cases hs : s.anyPoison <;> simpa [hs] using h

/-- A change of a tile that leaves the poison of its stash leaves the package's. -/
theorem State.anyPoison_modTile (s : State) (t : TileId) {f : Tile → Tile}
    (h : ∀ y, (f y).m.stash.anyPoison = y.m.stash.anyPoison) : (s.modTile t f).anyPoison = s.anyPoison := by
  refine State.anyPoison_congr rfl rfl rfl (fun x => ?_)
  by_cases e : t = x
  · subst e
    rw [State.tile_modTile, h]
  · rw [State.tile_modTile_ne _ _ _ _ e]

theorem State.anyPoison_modM (s : State) (t : TileId) {f : Member → Member}
    (h : ∀ m, (f m).stash.anyPoison = m.stash.anyPoison) : (s.modM t f).anyPoison = s.anyPoison :=
  s.anyPoison_modTile t (fun y => h y.m)

theorem State.anyPoison_unpend (s : State) (t : TileId) (asid : BitVec 12) (ps : List CuPlace) :
    (s.unpend t asid ps).anyPoison = s.anyPoison :=
  State.unpend_keeps State.anyPoison (fun s o _ => s.anyPoison_modM o (fun _ => rfl)) s t asid ps

theorem State.anyPoison_withTlb (s : State) (t : TileId) (n : Nat) (tlb dtlb : List TlbEntry) :
    (s.withTlb t n tlb dtlb).anyPoison = s.anyPoison :=
  { s with free := n }.anyPoison_modTile t (f := fun x => { x with tlb := tlb }) (fun _ => rfl)

@[simp] theorem State.inCycle_slots (s : State) (ok : Fab → Bool) : (s.inCycle ok).slots = s.slots := by
  unfold State.inCycle
  split <;> rfl

theorem State.anyPoison_logEvent (s : State) (code src : Half) (data : BitVec 128) :
    (s.logEvent code src data).anyPoison = s.anyPoison :=
  State.anyPoison_congr (by rw [State.logEvent_ms]) (by rw [State.logEvent_ms]) (s.inCycle_slots _)
    (fun x => by rw [State.tile_logEvent])

theorem State.anyPoison_joinNote (s : State) (src : Half) (a : Nat) : (s.joinNote src a).anyPoison = s.anyPoison :=
  keeps_ite State.anyPoison _ (State.anyPoison_logEvent ..)

theorem State.anyPoison_wake (s : State) (a n : Nat) : (s.wake a n).anyPoison = s.anyPoison :=
  foldl_keeps State.anyPoison (fun st (w : Waiter) =>
    st.anyPoison_modM w.tile (f := fun m => { m with su := { m.su with wait := m.su.wait.wake } }) (fun _ => rfl)) _ s

/-- A write in DRAM makes no poison. -/
theorem State.anyPoison_dramPut {s : State} (h : s.anyPoison = false) (a : Nat) (bs : List Byte) :
    (s.dramPut a bs).anyPoison = false := by
  obtain ⟨hpoison, hbad, htile, hslots⟩ := s.anyPoison_eq_false.1 h
  have hmark {β : Type} (g : State → β) := State.markWrite_keeps g (s := { s with mem := putBytes s.mem a bs }) (a := a)
  refine (State.anyPoison_eq_false _).2 ⟨?_, ?_, fun x => ?_, ?_⟩
  · exact congrArg (List.filter _) ((hmark (·.ms.poison) (fun _ _ => rfl)).trans hpoison)
  · exact congrArg (List.filter _) ((hmark (·.ms.bad) (fun _ _ => rfl)).trans hbad)
  · rw [State.tile_dramPut]
    exact htile x
  · exact (hmark State.slots (fun _ _ => rfl)).symm ▸ hslots

theorem State.putAt_openDram {s : State} {a : Nat} (h : s.OpenDram a) (bs : List Byte) :
    s.putAt a bs = (s.dramPut a bs, .ok ()) := by
  simp [State.putAt, h.dram, h.unowned, h.noCeiling]

theorem State.anyPoison_writeAt {s : State} {a : Nat} (hopen : s.OpenDram a) (h : s.anyPoison = false) (src : Half) (mt : BitVec 2)
    (wakes : Bool) (bs : List Byte) : (s.writeAt src a mt wakes bs).1.anyPoison = false := by
  simp only [State.writeAt, State.putAt_openDram hopen, hopen.noBarrier, Bool.false_eq_true, and_false, if_false]
  refine (keeps_ite State.anyPoison _ (State.anyPoison_wake ..)).trans ?_
  rw [State.anyPoison_joinNote, State.anyPoison_dramPut h]

end Sys2Proof.Machine
end

section
/-! PROOF. The accumulators after one group of an `mma` and after an `aclr` (R259, R260, R262, R263). -/

namespace Sys2Proof.Machine

/-! ### Accumulators written one after another -/

/-- Writes to the accumulator at a key what a function makes of its old value. -/
def Member.accUpdate (m : Member) (k : Nat) (f : W32 → W32) : Member := m.accPut k (f (SMap.get 0 m.acc k))

section Updates

variable {ι : Type} (key : ι → Nat) (f : ι → W32 → W32)

/-- The accumulators at the keys of a list, updated in turn. -/
def Member.accUpdates (m : Member) (xs : List ι) : Member := xs.foldl (fun y x => y.accUpdate (key x) (f x)) m

theorem Member.f_accUpdates (xs : List ι) (m : Member) : (m.accUpdates key f xs).f = m.f := by
  induction xs generalizing m with
  | nil => rfl
  | cons x xs ih => exact ih (m.accUpdate (key x) (f x))

/-- One update changes the accumulator at its key alone. -/
theorem Member.get_accUpdate {m : Member} (w : SMap.wf 0 m.acc = true) (k e : Nat) (g : W32 → W32) :
    SMap.get 0 (m.accUpdate k g).acc e = if e = k then g (SMap.get 0 m.acc k) else SMap.get 0 m.acc e :=
  SMap.get_set 0 w k e _

/-- An accumulator at none of the keys stays. -/
theorem Member.get_accUpdates_off {xs : List ι} {m : Member} (w : SMap.wf 0 m.acc = true) {e : Nat} (he : ∀ x ∈ xs, e ≠ key x) :
    SMap.get 0 (m.accUpdates key f xs).acc e = SMap.get 0 m.acc e := by
  induction xs generalizing m with
  | nil => rfl
  | cons x xs ih =>
    obtain ⟨hx, hxs⟩ := List.forall_mem_cons.1 he
    calc SMap.get 0 (m.accUpdates key f (x :: xs)).acc e
      _ = SMap.get 0 (m.accUpdate (key x) (f x)).acc e := ih (SMap.wf_set 0 (key x) _ w) hxs
      _ = SMap.get 0 m.acc e := by rw [Member.get_accUpdate w, if_neg hx]

/-- Where the keys differ, each accumulator is updated once, from the value that it held at first. -/
theorem Member.get_accUpdates {xs : List ι} {m : Member} (w : SMap.wf 0 m.acc = true) (hkeys : xs.Pairwise (key · ≠ key ·))
    {x : ι} (hx : x ∈ xs) : SMap.get 0 (m.accUpdates key f xs).acc (key x) = f x (SMap.get 0 m.acc (key x)) := by
  induction xs generalizing m with
  | nil => exact absurd hx List.not_mem_nil
  | cons y ys ih =>
    obtain ⟨hy, hys⟩ := List.pairwise_cons.1 hkeys
    have w' : SMap.wf 0 (m.accUpdate (key y) (f y)).acc = true := SMap.wf_set 0 (key y) _ w
    rcases List.mem_cons.1 hx with rfl | hx
    · calc SMap.get 0 (m.accUpdates key f (x :: ys)).acc (key x)
        _ = SMap.get 0 (m.accUpdate (key x) (f x)).acc (key x) := Member.get_accUpdates_off key f w' hy
        _ = f x (SMap.get 0 m.acc (key x)) := by rw [Member.get_accUpdate w, if_pos rfl]
    · calc SMap.get 0 (m.accUpdates key f (y :: ys)).acc (key x)
        _ = f x (SMap.get 0 (m.accUpdate (key y) (f y)).acc (key x)) := ih w' hys hx
        _ = f x (SMap.get 0 m.acc (key x)) := by rw [Member.get_accUpdate w, if_neg (hy x hx).symm]

end Updates

/-! ### One group of an `mma` (R259, R260) -/

/-- The outputs of an `mma`: row and column. -/
def mmaOutputs (rows cols : Nat) : List (Nat × Nat) :=
  (List.range rows).flatMap (fun i => (List.range cols).map (fun n => (i, n)))

theorem mem_mmaOutputs {rows cols i n : Nat} : (i, n) ∈ mmaOutputs rows cols ↔ i < rows ∧ n < cols := by
  simp [mmaOutputs]

/-- The key of the accumulator of one output (R250). -/
def outputKey (slot : BitVec 3) (x : Nat × Nat) : Nat := accKey slot x.1 x.2

theorem Member.accAt_eq (m : Member) (slot : BitVec 3) (i n : Nat) :
    m.accAt slot i n = SMap.get 0 m.acc (outputKey slot (i, n)) := rfl

/-- Outputs of at most 256 columns have accumulators of their own. -/
theorem accKey_mmaOutputs (slot : BitVec 3) (rows : Nat) {cols : Nat} (h : cols ≤ 256) :
    (mmaOutputs rows cols).Pairwise (outputKey slot · ≠ outputKey slot ·) := by
  have hnodup : (mmaOutputs rows cols).Nodup := List.nodup_range.product List.nodup_range
  refine hnodup.imp_of_mem (fun {x y} hx hy hne heq => hne ?_)
  obtain ⟨-, hx⟩ := mem_mmaOutputs.1 hx
  obtain ⟨-, hy⟩ := mem_mmaOutputs.1 hy
  unfold outputKey accKey at heq
  exact Prod.ext (by omega) (by omega)

/-- What a group of an `mma` makes of the accumulator of one output (R260). -/
def mmaOutput (p : Panel) (a : Td) (ws : SMap Nat) (ta sat fresh : Bool) (ks : List Nat) (x : Nat × Nat) (old : W32) : W32 :=
  accum (if fresh then .zero false else v32 old) (gsum (ks.map (fun k => mProd (aValue a ta ws x.1 k) (p.value k x.2))) sat) sat

theorem Member.mmaGroup_eq (m : Member) (slot : BitVec 3) (p : Panel) (a : Td) (ws : SMap Nat) (ta sat fresh : Bool)
    (ks : List Nat) : m.mmaGroup slot p a ws ta sat fresh ks
      = m.accUpdates (outputKey slot) (mmaOutput p a ws ta sat fresh ks)
          (mmaOutputs (mmaM a ta) (p.tag.nm1.toNat + 1)) := by
  have hzip (i n : Nat) : ((ks.map (fun k => aValue a ta ws i k)).zip ks).map (fun e => mProd e.1 (p.value e.2 n))
      = ks.map (fun k => mProd (aValue a ta ws i k) (p.value k n)) := by
    induction ks with
    | nil => rfl
    | cons k ks ih => exact congrArg _ ih
  simp only [Member.mmaGroup, hzip, Member.accUpdates, mmaOutputs, List.foldl_flatMap, List.foldl_map]
  rfl

/-- The matrix unit runs a command that has begun, has met no fault and no error, and has steps left (R249). -/
structure State.muRuns (s : State) (t : TileId) (r : MuRun) : Prop where
  live : (s.tile t).engLive = true
  run : (s.tile t).m.mu = some r
  going : r.halted = false
  effect : r.noEffect = false
  begun : r.begun = true
  left : r.next < r.total

theorem State.muRuns.exec_mma {s s1 : State} {t : TileId} {r : MuRun} (h : s.muRuns t r) {hd : Head} {acc : BitVec 3} {a b : TdIx}
    {sat ta z : Bool} {ws : SMap Nat} {p : Panel} (hop : r.cmd.op = .mma hd acc a b sat ta z)
    (hws : s.muWords t r.cmd a (aWords (tdOf r.cmd.d0) ta (groupKs (mmaK (tdOf r.cmd.d0) ta) r.next)) = (s1, .ok ws))
    (hp : (s.tile t).m.mmaPanel r.cmd b ta false = some p) (k : Nat) :
    exec (.engineAccessLands t .mu k) s = .next ((s1.modM t (fun m => m.mmaGroup acc p (tdOf r.cmd.d0) ws ta sat (z && r.next == 0)
      (groupKs (mmaK (tdOf r.cmd.d0) ta) r.next))).modMu t (fun y => { y with next := r.next + 1 })) := by
  have hstep : s.engineStep t .mu k = s.mmaStep t r acc a b sat ta z false := by
    simp [State.engineStep, State.muStep, h.live, h.run, h.going, h.effect, h.begun, h.left, hop]
  refine congrArg Host.Outcome.next (hstep.trans ?_)
  simp only [State.mmaStep, hws, hp]

theorem State.muRuns.exec_aclr {s : State} {t : TileId} {r : MuRun} (h : s.muRuns t r) {hd : Head} {acc : BitVec 3}
    (hop : r.cmd.op = .aclr hd acc) (k : Nat) :
    exec (.engineAccessLands t .mu k) s
      = .next ((s.modM t (fun m => m.clearSlot acc)).modMu t (fun x => { x with next := 1 })) := by
  refine congrArg Host.Outcome.next ?_
  simp [State.engineStep, State.muStep, h.live, h.run, h.going, h.effect, h.begun, h.left, hop]

/-- After a group every output of the slot is its old value with the rounded sum added, and nothing else of the accumulators or the
registers has changed. -/
theorem Member.mmaGroup_outputs {m : Member} (w : SMap.wf 0 m.acc = true) (slot : BitVec 3) (p : Panel) (a : Td) (ws : SMap Nat)
    (ta sat fresh : Bool) (ks : List Nat) :
    let q := m.mmaGroup slot p a ws ta sat fresh ks
    (∀ i n, i < mmaM a ta → n ≤ p.tag.nm1.toNat → q.accAt slot i n = mmaOutput p a ws ta sat fresh ks (i, n) (m.accAt slot i n))
      ∧ (∀ e, (∀ i n, i < mmaM a ta → n ≤ p.tag.nm1.toNat → e ≠ accKey slot i n) → SMap.get 0 q.acc e = SMap.get 0 m.acc e)
      ∧ q.f = m.f := by
  have hkeys := accKey_mmaOutputs slot (mmaM a ta) (cols := p.tag.nm1.toNat + 1) p.tag.nm1.isLt
  simp only [Member.mmaGroup_eq, Member.accAt_eq]
  refine ⟨fun i n hi hn => ?_, fun e he => ?_, Member.f_accUpdates ..⟩
  · exact Member.get_accUpdates (outputKey slot) (mmaOutput p a ws ta sat fresh ks) w hkeys
      (mem_mmaOutputs.2 ⟨hi, Nat.lt_succ_of_le hn⟩)
  · refine Member.get_accUpdates_off (outputKey slot) _ w (fun x hx => ?_)
    obtain ⟨hi, hn⟩ := mem_mmaOutputs.1 hx
    exact he x.1 x.2 hi (Nat.le_of_lt_succ hn)

/-! ### `aclr` (R263) -/

/-- The entries of a map whose keys pass a test: every other key reads as the default. -/
theorem SMap.get_filter_key {α : Type} (d : α) (p : Nat → Bool) (m : SMap α) (a : Nat) :
    SMap.get d (m.filter (fun e => p e.1)) a = if p a then SMap.get d m a else d := by
  induction m with
  | nil => simp [SMap.get]
  | cons e m ih =>
    obtain ⟨k, v⟩ := e
    by_cases hk : k = a
    · subst hk
      cases hp : p k <;> simp [hp, ih, SMap.get]
    · cases hp : p k <;> simp [hp, ih, SMap.get, hk]

theorem Member.get_clearSlot (m : Member) (slot : BitVec 3) (e : Nat) :
    SMap.get 0 (m.clearSlot slot).acc e = if e / 32768 = slot.toNat then 0 else SMap.get 0 m.acc e := by
  have h := SMap.get_filter_key 0 (fun k => !(k / 32768 == slot.toNat)) m.acc e
  by_cases hs : e / 32768 = slot.toNat <;> simpa [Member.clearSlot, hs] using h

theorem accKey_slot (slot : BitVec 3) {i n : Nat} (hi : i < 128) (hn : n < 256) : accKey slot i n / 32768 = slot.toNat := by
  unfold accKey
  omega

end Sys2Proof.Machine
end

section
/-! PROOF. The landings of the copy unit and of the matrix unit (R128, R132, R133, R139, R259, R260, R262, R263). -/

namespace Sys2Proof.Machine

/-! ### A write of one word (R128, R139) -/

/-- Bytes within one aligned word are one piece. -/
theorem splitWrite_word {va : W64} {bs : List Byte} (hlen : 1 ≤ bs.length) (hword : va.toNat % 8 + bs.length ≤ 8) :
    splitWrite va bs = [(va, bs)] := by
  have hpiece : min bs.length (8 - va.toNat % 8) = bs.length := by omega
  have hrest (n : Nat) (a : W64) : pieces n a 0 = [] := by cases n <;> simp [pieces]
  have hpieces : pieces (bs.length + 1) va bs.length = [(va, bs.length)] := by
    simp [pieces, hpiece, hrest, Nat.ne_of_gt hlen]
  simp only [splitWrite, hpieces, List.map_cons, List.map_nil, BitVec.sub_self, BitVec.toNat_zero, List.drop_zero, List.take_length]

@[simp] theorem length_bytesOfNat (n v : Nat) : (bytesOfNat n v).length = n := by
  induction n generalizing v with
  | zero => rfl
  | succ n ih => rw [bytesOfNat, List.length_cons, ih]

/-- An engine's write of one piece that reaches open DRAM puts its bytes into memory and makes no poison. -/
theorem State.engWrites_openDram {s : State} {t : TileId} {e : EngCls} {asid : BitVec 12} {va : W64} {a : Nat} {mt : BitVec 2}
    (hroute : (s.routeT t e asid va .write false).2 = .to (.pa a mt)) (hopen : s.OpenDram a) (hclean : s.anyPoison = false)
    (bs : List Byte) : ∃ u, s.engWrites t e asid [(va, bs)] = (u, .ok ()) ∧ u.mem = putBytes s.mem a bs ∧ u.anyPoison = false := by
  obtain ⟨n, tlb, dtlb, hst⟩ := s.engTarget_state t e asid va .write
  have htgt : (s.engTarget t e asid va .write).2 = .ok (.pa a mt) := by
    simp [State.engTarget, hroute]
  have hopen' : (s.withTlb t n tlb dtlb).OpenDram a := ⟨hopen.dram, hopen.unowned, hopen.noBarrier, hopen.noCeiling⟩
  obtain ⟨u, hwrite, hmem, -, -⟩ := State.writeAt_openDram hopen' (srcTile t) mt (e == .cu || e == .ce) bs
  have hclean' := State.anyPoison_writeAt hopen' ((s.anyPoison_withTlb ..).trans hclean) (srcTile t) mt (e == .cu || e == .ce) bs
  rw [hwrite] at hclean'
  refine ⟨u, ?_, hmem, hclean'⟩
  simp [State.engWrites, State.engWrite1, htgt, hst, State.writeT, State.homeOf, hwrite]

/-! ### A write of the copy unit (R128, R132, R133) -/

/-- The pieces that a write of the copy unit writes: its units, word by word. -/
def Flight.unitWrites (f : Flight) (c : Cmd) (q : Option (Fin 16)) (v len : Nat) : List (W64 × List Byte) :=
  ((f.places c q).zip (List.range f.cnt)).flatMap (fun e => match e.1 with
    | .mem p _ => splitWrite p (unitBytes v len e.2)
    | .acc _ => [])

/-- A write of one unit within an aligned word is one piece, its value low byte first. -/
theorem Flight.unitWrites_one {f : Flight} {c : Cmd} {q : Option (Fin 16)} {v len : Nat} {va : W64} (hcnt : f.cnt = 1)
    (hdst : cuDst c f q 0 = .mem va len) (hlen : 1 ≤ len) (hword : va.toNat % 8 + len ≤ 8) :
    f.unitWrites c q v len = [(va, bytesOfNat len v)] := by
  have hsplit : splitWrite va (bytesOfNat len v) = [(va, bytesOfNat len v)] :=
    splitWrite_word (by rwa [length_bytesOfNat]) (by rwa [length_bytesOfNat])
  simp [Flight.unitWrites, Flight.places, hcnt, hdst, unitBytes, hsplit]

/-- A write of the copy unit that nothing blocks. -/
structure State.writeFree (s : State) (t : TileId) (c : Fin 5) (i j : Nat) (r : CuRun) (f : Flight) (q : Option (Fin 16)) : Prop where
  unblocked : ∀ p ∈ f.places r.cmd q, s.writeBlocked t c i j r.cmd.asid p = false
  released : s.noteHeld t r.cmd = false

/-- Where all its pieces have been written, a write has landed: its words are pending no more, and its flight is gone. -/
theorem State.cuWrite_lands {s u0 : State} {t : TileId} {c : Fin 5} {i j v len : Nat} {r : CuRun} {f : Flight} {q : Option (Fin 16)}
    {va : W64} (hfree : s.writeFree t c i j r f q) (hdst : cuDst r.cmd f q 0 = .mem va len)
    (hw : s.engWrites t .cu r.cmd.asid (f.unitWrites r.cmd q v len) = (u0, .ok ())) (hclean : u0.anyPoison = false) :
    s.cuWrite t c i j r f v q = (u0.unpend t r.cmd.asid (f.places r.cmd q)).modM t (fun m => m.setFlight c i j []) := by
  have hblock : ((f.places r.cmd q).any (fun p => s.writeBlocked t c i j r.cmd.asid p) || s.noteHeld t r.cmd) = false := by
    simpa [hfree.released] using hfree.unblocked
  have hclean' : ((u0.unpend t r.cmd.asid (f.places r.cmd q)).modM t (fun m => m.setFlight c i j [])).anyPoison = false := by
    rw [State.anyPoison_modM _ _ (f := fun m => m.setFlight c i j []) (fun _ => rfl), State.anyPoison_unpend, hclean]
  simp only [State.cuWrite, hblock, hdst, Bool.false_eq_true, if_false]
  generalize hx : s.engWrites t .cu r.cmd.asid _ = x
  obtain rfl : x = (u0, .ok ()) := hx.symm.trans hw
  simp only [hclean', Bool.false_eq_true, if_false]

theorem State.cuAdvance_write {s : State} {t : TileId} {c : Fin 5} {k i j v : Nat} {r : CuRun} {f : Flight} {q : Option (Fin 16)}
    (hf : locate (s.tile t).m.ch[c.val].runs k = some (i, j, r, f)) (hparked : f.parked = none) (hstage : f.stage = .write v q) :
    s.cuAdvance t c k = s.cuWrite t c i j r f v q := by
  simp [State.cuAdvance, hf, hparked, hstage]

/-- The flight of a channel has landed: it is gone, and the member's registers, queues and semaphores are as they were. -/
def State.flightLanded (s : State) (t : TileId) (c : Fin 5) (i j : Nat) (u : State) : Prop :=
  let m := (s.tile t).m
  let n := (u.tile t).m
  n.f = m.f ∧ n.vf = m.vf ∧ n.q = m.q ∧ n.sems = m.sems ∧ n.ch = (m.setFlight c i j []).ch

/-- The end of a landing: the flight goes, after writes that leave the registers and channels. -/
theorem State.flightLanded_setFlight {s u : State} {t : TileId} (h : u.regs t = s.regs t) (c : Fin 5) (i j : Nat) :
    s.flightLanded t c i j (u.modM t (fun m => m.setFlight c i j [])) := by
  simp only [State.regs, Prod.mk.injEq] at h
  obtain ⟨hf, hvf, hq, hsems, hch⟩ := h
  simp only [State.flightLanded, State.tile_modM]
  refine ⟨hf, hvf, hq, hsems, ?_⟩
  simp only [Member.setFlight, Member.updRun, Member.modCh, hch]

/-- A write that nothing blocks, all of whose pieces are written, lands in one step: its flight is gone, and memory is as the pieces
left it. -/
theorem copyWriteLands {s u0 : State} {t : TileId} {c : Fin 5} {k i j v len : Nat} {r : CuRun} {f : Flight} {q : Option (Fin 16)}
    {va : W64} (hgated : (s.tile t).gated = false) (hf : locate (s.tile t).m.ch[c.val].runs k = some (i, j, r, f))
    (hparked : f.parked = none) (hstage : f.stage = .write v q) (hfree : s.writeFree t c i j r f q)
    (hdst : cuDst r.cmd f q 0 = .mem va len)
    (hw : s.engWrites t .cu r.cmd.asid (f.unitWrites r.cmd q v len) = (u0, .ok ())) (hclean : u0.anyPoison = false) :
    completes (.engineAccessLands t (.ch c) (k + 1)) s (fun u => s.flightLanded t c i j u ∧ u.mem = u0.mem) := by
  have hstep : s.engineStep t (.ch c) (k + 1) = s.cuAdvance t c k := by
    simp [State.engineStep, hgated]
  refine ⟨_, congrArg Host.Outcome.next (hstep.trans ((State.cuAdvance_write hf hparked hstage).trans
    (State.cuWrite_lands hfree hdst hw hclean))), State.flightLanded_setFlight ?_ c i j, ?_⟩
  · have hregs := State.regs_engWrites (f.unitWrites r.cmd q v len) s t .cu r.cmd.asid t
    rw [hw] at hregs
    exact (State.unpend_keeps (·.regs t) (fun s o _ => s.regs_setStash o _ t) ..).trans hregs
  · exact State.unpend_keeps State.mem (fun _ _ _ => rfl) ..

/-! ### The statement -/

/-- Settles O47: the pieces of a write land as the writes of its engine do, and the write of one unit in open DRAM is one piece; a
group of an `mma` updates the accumulator of each output once; `aclr` drops the entries of its slot. -/
theorem engineAccessesLand : Obligations.EngineAccessesLand := by
  refine ⟨fun s t c k i j a len v mt r f va q hgated hf hparked hstage hunblocked hheld hdst hclean =>
    ⟨fun hcnt hlen hword hroute hdram howner hbar hceil => ?one, fun u0 hw hclean0 => ?all⟩,
    fun s s1 t k i n r p ws h acc a b sat ta z => ⟨fun hruns hop hws hp hwf => ?mma, fun hruns hop => ?aclr⟩⟩
  case one =>
    obtain ⟨u0, hw, hmem, hclean0⟩ := State.engWrites_openDram hroute ⟨hdram, howner, hbar, hceil⟩ hclean (bytesOfNat len v)
    rw [← Flight.unitWrites_one hcnt hdst hlen hword] at hw
    obtain ⟨u, hu, hlanded, humem⟩ := copyWriteLands hgated hf hparked hstage ⟨hunblocked, hheld⟩ hdst hw hclean0
    refine ⟨u, hu, hlanded, humem.trans hmem, fun b hb => ?_⟩
    rw [humem, hmem]
    exact byteAt_putBytes_off s.mem (by rwa [length_bytesOfNat])
  case all => exact copyWriteLands hgated hf hparked hstage ⟨hunblocked, hheld⟩ hdst hw hclean0
  case mma =>
    obtain ⟨hlive, hmu, hhalted, heffect, hbegun, hleft⟩ := hruns
    have hruns : s.muRuns t r := ⟨hlive, hmu, hhalted, heffect, hbegun, hleft⟩
    obtain ⟨hout, hoff, hregs⟩ := Member.mmaGroup_outputs hwf acc p (tdOf r.cmd.d0) ws ta sat (z && r.next == 0)
      (groupKs (mmaK (tdOf r.cmd.d0) ta) r.next)
    refine ⟨_, hruns.exec_mma hop hws hp k, ?_⟩
    simp only [State.modMu, State.tile_modM]
    refine ⟨fun hi hn => ?_, hoff, hregs, rfl⟩
    refine (hout i n hi hn).trans ?_
    simp only [mmaOutput, Bool.and_eq_true, beq_iff_eq]
  case aclr =>
    obtain ⟨hlive, hmu, hhalted, heffect, hbegun, hleft⟩ := hruns
    have hruns : s.muRuns t r := ⟨hlive, hmu, hhalted, heffect, hbegun, hleft⟩
    refine ⟨_, hruns.exec_aclr hop k, ?_⟩
    simp only [State.modMu, State.tile_modM]
    refine ⟨fun hi hn => ?_, fun e he => ?_, rfl, sameMemory_of_mem_eq rfl⟩
    · exact (Member.get_clearSlot ..).trans (if_pos (accKey_slot acc hi hn))
    · exact (Member.get_clearSlot ..).trans (if_neg he)

end Sys2Proof.Machine
end
